-- ==== Sys2Proof/Word.lean ====
section
/-!
DEFINITION. Word.lean: the words of the machine. Every register is 64 bits wide and little-endian (R5); memories are
made of bytes; command words are 128 bits (R179).
-/

namespace Sys2Proof

/-- One byte of any memory of the block. -/
abbrev Byte := BitVec 8
/-- Half a register, an FP32 pattern, an accumulator. -/
abbrev Half := BitVec 32
/-- One register of the Device Register Space (R5). -/
abbrev Word := BitVec 64
/-- One command word of a control core (R179). -/
abbrev Cmd := BitVec 128

/-- Bits `[lo + len - 1 : lo]` of a word, as a number. -/
def bits (w lo len : Nat) : Nat := w / 2 ^ lo % 2 ^ len

/-- One bit of a word. -/
def bit (w i : Nat) : Bool := w / 2 ^ i % 2 == 1

/-- A Bool as a bit. -/
def b01 (b : Bool) : Nat := if b then 1 else 0

/-- Two's complement reading of the low `n` bits. -/
def sint (n w : Nat) : Int := if 2 * (w % 2 ^ n) < 2 ^ n then (w % 2 ^ n : Nat) else ((w % 2 ^ n : Nat) : Int) - (2 ^ n : Nat)

/-- The low `n` bits of an integer, two's complement. -/
def wrapInt (n : Nat) (i : Int) : Nat := (i % ((2 ^ n : Nat) : Int)).toNat

/-- Integer division rounded up, as the spec's half brackets. -/
def cdiv (a b : Nat) : Nat := (a + b - 1) / b

end Sys2Proof
end

