-- ==== Sys2Proof/Machine/Sparse.lean ====
section
/-!
DEFINITION. Machine/Sparse.lean: sparse stores. Every memory and every register file of the block is a list of
(address, value) pairs in one canonical form: addresses strictly rising, and no entry equal to what an unlisted address
reads as. `tget` and `tput` are the variant for tables of whole units, whose entries are never dropped.
-/

namespace Sys2Proof.Machine

/-- A store: (address, value) pairs. -/
abbrev Sparse (β : Type) := List (Nat × β)

/-- What address `a` reads as, given what an unlisted address reads as. -/
def sget {β : Type} (d : Nat → β) : Sparse β → Nat → β
  | [], a => d a
  | (k, v) :: m, a => if k = a then v else sget d m a

/-- Put a pair at its place in a sorted list. -/
def sinsert {β : Type} (a : Nat) (v : β) : Sparse β → Sparse β
  | [] => [(a, v)]
  | (k, w) :: m => if a < k then (a, v) :: (k, w) :: m else (k, w) :: sinsert a v m

/-- Take every pair of an address out. -/
def serase {β : Type} (a : Nat) : Sparse β → Sparse β
  | [] => []
  | (k, w) :: m => if k = a then serase a m else (k, w) :: serase a m

/-- Write one address; writing what an unlisted address reads as removes the entry. -/
def sset {β : Type} [DecidableEq β] (d : Nat → β) (m : Sparse β) (a : Nat) (v : β) : Sparse β :=
  if v = d a then serase a m else sinsert a v (serase a m)

/-- The canonical form. -/
def swf {β : Type} [DecidableEq β] (d : Nat → β) : Sparse β → Bool
  | [] => true
  | (k, v) :: m => decide (v ≠ d k) && m.all (fun p => decide (k < p.1)) && swf d m

/-- A table of units: what entry `a` holds, `d` where the table lists none. -/
def tget {β : Type} (d : β) : Sparse β → Nat → β
  | [], _ => d
  | (k, v) :: m, a => if k = a then v else tget d m a

/-- Write a table's entry. -/
def tput {β : Type} (m : Sparse β) (a : Nat) (v : β) : Sparse β := sinsert a v (serase a m)

/-- Is the entry listed? -/
def tfind {β : Type} : Sparse β → Nat → Option β
  | [], _ => none
  | (k, v) :: m, a => if k = a then some v else tfind m a

/-- Byte `a` of an all-zero memory. -/
def zeroByte : Nat → Byte := fun _ => 0

/-- `n` bytes from address `a`, in rising order. -/
def readBytes (d : Nat → Byte) (m : Sparse Byte) (a : Nat) : Nat → List Byte
  | 0 => []
  | n + 1 => sget d m a :: readBytes d m (a + 1) n

/-- Bytes as a little-endian number (R35). -/
def leNat : List Byte → Nat
  | [] => 0
  | b :: bs => b.toNat + 256 * leNat bs

/-- The little-endian bytes of a number (R35). -/
def natLE : Nat → Nat → List Byte
  | 0, _ => []
  | n + 1, w => BitVec.ofNat 8 w :: natLE n (w / 256)

/-- An `n`-byte little-endian number at address `a`. -/
def readLE (d : Nat → Byte) (m : Sparse Byte) (a n : Nat) : Nat := leNat (readBytes d m a n)

/-- Write bytes in rising order from address `a`. -/
def writeBytes (d : Nat → Byte) (m : Sparse Byte) (a : Nat) : List Byte → Sparse Byte
  | [] => m
  | b :: bs => writeBytes d (sset d m a b) (a + 1) bs

end Sys2Proof.Machine
end

