-- ==== Sys2Proof/Machine/Commands.lean ====
section
/-!
DEFINITION. Machine/Commands.lean: the operands of commands that are more than a number: what the parts outside the
digital block (SRAM cells, lanes, sensors, the wrapper, the flash) contribute to an event.
-/

namespace Sys2Proof

/-- An upset that a command meets in SRAM (05 R124, 17 R437): none; the parity of an operand-file flag; a single-bit error in
a row; a double-bit error in a row, with the word's address. `entry` is an SRAM entry of 17 R434. -/
inductive Upset where
  | none
  | flag
  | one (entry : Word)
  | two (entry addr : Word)
  deriving DecidableEq, Repr

/-- What an abandoned command had done: `lines` of an LDL; `rows` of a drain written, `elems` converted, and whether its
parameters were read; `cells` of a fill loaded; `elems` of a stream-mode vector command; `bytes` and `lanes` of a SLICE;
`n` elements and `m` contributions of a RECOMB (05 R127, 06 R164). -/
inductive Partial where
  | none
  | ldl (lines : Nat)
  | drain (rows elems : Nat) (held : Bool)
  | fill (cells : Nat)
  | vs (elems : Nat)
  | slice (bytes lanes : Nat)
  | recomb (n m : Nat)
  deriving DecidableEq, Repr

/-- What a training of a port finds (11 R294, 13 R349): whether the lanes locked, those that did not work, and, on a Filic
link, the node number received. -/
structure Trained where
  ok : Bool
  badRx : List Nat
  badTx : List Nat
  node : Nat
  deriving DecidableEq, Repr

/-- What a sounding finds (17 R439, R440): faulty array rows and columns, SRAM rows in need of repair, whether there is a fault
that no spare covers, and whether a retest passes. -/
structure Found where
  rows : List Nat
  cols : List Nat
  srams : List Word
  fatal : Bool
  retest : Bool
  deriving DecidableEq, Repr

/-- The pins, supplies, flash and hardware results that a reset meets (18 R474 to R476): pins sampled at cold reset, HA_CLK, VIN
and VKEEP in mV, the flash's bytes and, where host memory can be read, its bytes, by address (a byte not listed is 0), the
trainings of memory and Filic ports, and the soundings of polders. `low`: RESET_N goes low and is held, with none of this yet (19 R487). -/
structure BootIn where
  dn16 : Bool
  src : Nat
  haClk : Bool
  vin : Nat
  vkeep : Nat
  flash : List (Nat × Byte)
  host : Option (List (Nat × Byte))
  mem : List Trained
  links : List Trained
  found : List (Nat × Found)
  low : Bool
  deriving DecidableEq, Repr

/-- A host core's access (18 R467, R468): of 1, 2, 4 or 8 bytes, or a cache-block operation (Zicbom). -/
inductive HostOp where
  | load (n : Nat)
  | store (bytes : List Byte)
  | fetch (n : Nat)
  | clean
  | flush
  | inval
  deriving DecidableEq, Repr

/-- A receive channel: of a core slot, or of the host complex (09 R233, 18 R469). -/
inductive ChanRef where
  | core (k : Fin 72) (c : Fin 16)
  | host (c : Fin 32)
  deriving DecidableEq, Repr

/-- A scout: SCOUT0 or SCOUT1 of a slot, or NMU_SCOUT (02 R60, 12 R343). -/
inductive ScoutRef where
  | scout0 (k : Fin 72)
  | scout1 (k : Fin 72)
  | nmu (n : Fin 20)
  deriving DecidableEq, Repr

/-- A port with lanes: a memory port or a Filic port. -/
inductive PortRef where
  | mem (p : Fin 20)
  | link (l : Fin 8)
  deriving DecidableEq, Repr

end Sys2Proof
end

