-- ==== Sys2Proof/Syntax.lean ====
section
/-!
DEFINITION. Syntax.lean: the commands of the block, one constructor for each row of the opcode table, with its operands: units by
number (01 R16), packets in flight by their place on the planes, and what parts outside the digital block contribute
(Machine/Commands.lean).
-/

namespace Sys2Proof

/-- The commands. -/
inductive Instr where
  /-- RESET_N: RESET_N is released (18 R475), or goes low and is held (19 R487); it overrides everything, a stopped block included (15 R405). -/
  | resetN (b : BootIn)
  /-- WARM_N: WARM_N low for 1 us (18 R476). -/
  | warmN (b : BootIn)
  /-- WARM: RST_CTL.WARM with its key (18 R476). -/
  | warm (b : BootIn)
  /-- BOOT_GO: BT_CTL.GO (18 R474). -/
  | bootGo (b : BootIn)
  /-- PWR_FAIL_N: PWR_FAIL_N low after filtering, at VIN of `mv` (15 R404). -/
  | pwrFailN (mv : Nat)
  /-- VIN_LOW: VIN below 1.62 V (15 R404); `pwr`: PWR_FAIL_N is low too. -/
  | vinLow (mv : Nat) (pwr : Bool)
  /-- VKEEP_LOW: VKEEP below 1.30 V before BERM_DONE (15 R407); it reaches a stopped block. -/
  | vkeepLow (mv : Nat)
  /-- VIN_WARN: VIN below 1.71 V (15 R402); other values only renew VIN_MV (19 R497). -/
  | vinWarn (mv : Nat)
  /-- VIN_RECOVER: VIN at or above 1.74 V for 100 us (15 R402). -/
  | vinRecover (mv : Nat)
  /-- THERM_TRIP: Polder `n` reaches 125 C (15 R403). -/
  | thermTrip (n : Fin 100)
  /-- PMB_ALERT_N: PMB_ALERT_N low; the device at `addr` answers with its STATUS_WORD (18 R481). -/
  | pmbAlertN (addr : Nat) (status : Nat)
  /-- PMBUS_POLL: The poll of 1 ms; `answers` gives (device, VOUT, IOUT, STATUS) (18 R481). -/
  | pmbusPoll (answers : List (Nat × Nat × Nat × Nat))
  /-- TB_REFCLK_LOST: TB_REFCLK lost (19 R492). -/
  | tbRefclkLost
  /-- TB_REFCLK_RETURN: TB_REFCLK returns (19 R492). -/
  | tbRefclkReturn
  /-- PHY_REFCLK_LOST: PHY_REFCLK lost (19 R492). -/
  | phyRefclkLost
  /-- HA_CLK_START: HA_CLK starts (19 R489). -/
  | haClkStart
  /-- TRST_N: TRST_N resets the test logic only (18 R483). -/
  | trstN
  /-- BYPASS: BYPASS (18 R483). -/
  | bypass
  /-- IDCODE: IDCODE (18 R483). -/
  | idcode
  /-- SAMPLE_PRELOAD: SAMPLE/PRELOAD (18 R483). -/
  | samplePreload (pins : Word) (cells : Word)
  /-- EXTEST: EXTEST (18 R483). -/
  | extest (pins : Word) (cells : Word)
  /-- ENTDAA: The dynamic address by ENTDAA (18 R480). -/
  | entdaa (addr : Nat)
  /-- SETDASA: The dynamic address by SETDASA (18 R480). -/
  | setdasa (static : Nat) (addr : Nat)
  /-- I3C_READ: An I3C read (18 R480). -/
  | i3cRead (off : Nat)
  /-- I3C_WRITE: An I3C write (18 R480). -/
  | i3cWrite (off : Nat) (v : Word) (b : BootIn)
  /-- REGISTER_WRITE: A DRS write acts by the access codes (00 R8, R9); `who`: host core 0 to 7, 8 the host attach port, 10 the DRS
  instrument of the test network (18 R483), else another agent. -/
  | registerWrite (who : Nat) (off : Nat) (bytes : List Byte) (b : BootIn)
  /-- NUM_STAT_CLEAR: Sticky bits of NUM_STAT are cleared (02 R59). -/
  | numStatClear (k : Fin 72) (v : Word)
  /-- SCOUT_WRITE: A DRS write of a scout (02 R64). -/
  | scoutWrite (r : ScoutRef) (v : Nat)
  /-- INSTRUCTION: One instruction of a context; an interrupt is taken first where one is pending (07 R167, R176). -/
  | instruction (k : Fin 72) (h : Bool) (u : Upset)
  /-- SWI: CC_CTL.SWI is written (07 R170). -/
  | swi (k : Fin 72) (on : Bool)
  /-- TIMER_INTERRUPT: The timebase reaches CC_TIMECMP (07 R176). -/
  | timerInterrupt (k : Fin 72)
  /-- NCX_ISSUE: NCX.ISSUE (07 R179). -/
  | ncxIssue (k : Fin 72) (h : Bool)
  /-- NCX_XDONE: NCX.XDONE (07 R178). -/
  | ncxXdone (k : Fin 72) (h : Bool)
  /-- NCX_FDONE: NCX.FDONE (07 R178). -/
  | ncxFdone (k : Fin 72) (h : Bool)
  /-- NCX_WAITQ: NCX.WAITQ (07 R184). -/
  | ncxWaitq (k : Fin 72) (h : Bool)
  /-- NCX_THALT: NCX.THALT (07 R178). -/
  | ncxThalt (k : Fin 72) (h : Bool)
  /-- NCX_XRES: NCX.XRES (07 R185). -/
  | ncxXres (k : Fin 72) (h : Bool)
  /-- NCX_HRET: NCX.HRET (07 R171). -/
  | ncxHret (k : Fin 72) (h : Bool)
  /-- NCX_KEND: NCX.KEND (07 R194). -/
  | ncxKend (k : Fin 72) (h : Bool)
  /-- HANDLER_DISPATCH: The handler is dispatched (07 R173). -/
  | handlerDispatch (k : Fin 72)
  /-- SPILL_REFILL: A queue refills from its spill ring (07 R181). -/
  | spillRefill (k : Fin 72) (fq : Bool)
  /-- COMMAND_COMPLETE: The command with a ticket completes (07 R184). -/
  | commandComplete (k : Fin 72) (fq : Bool) (ticket : Nat)
  /-- GO: KL_CTL.GO (07 R191). -/
  | go (k : Fin 72)
  /-- KERNEL_START: The kernel starts (07 R192). -/
  | kernelStart (k : Fin 72)
  /-- KERNEL_COMMIT: The ending kernel commits (07 R194). -/
  | kernelCommit (k : Fin 72)
  /-- ABORT: KL_CTL.ABORT (07 R195). -/
  | abort (k : Fin 72)
  /-- HALT: TILE_CTL.HALT (05 R125, R129). -/
  | halt (k : Fin 72) (on : Bool)
  /-- HALT_COMPLETE: The halt is complete; `ps` says what the abandoned commands had done (05 R127, R128). -/
  | haltComplete (k : Fin 72) (ps : List Partial)
  /-- SAVE: TILE_CTL.SAVE (05 R132). -/
  | save (k : Fin 72) (u : Upset)
  /-- RESTORE: TILE_CTL.RESTORE (05 R133). -/
  | restore (k : Fin 72)
  /-- SAVE_RESTORE_DONE: A save or restore completes (05 R134). -/
  | saveRestoreDone (k : Fin 72)
  /-- VR_REG_SAVE: VR_SAVE.SAVE (06 R166). -/
  | vrRegSave (k : Fin 72) (u : Upset)
  /-- VR_REG_RESTORE: VR_SAVE.RESTORE (06 R166). -/
  | vrRegRestore (k : Fin 72)
  /-- LDL: LDL (05 R114); an opcode of 0x10 to 0x3F that names no command fails with FORMAT here. -/
  | ldl (k : Fin 72) (u : Upset)
  /-- MOPZ: MOPZ (03 R83). -/
  | mopz (k : Fin 72) (u : Upset)
  /-- MOP: MOP (03 R83). -/
  | mop (k : Fin 72) (u : Upset)
  /-- ASW: ASW (03 R84). -/
  | asw (k : Fin 72)
  /-- DRN: DRN (03 R86). -/
  | drn (k : Fin 72) (u : Upset)
  /-- ALAY: ALAY (03 R74). -/
  | alay (k : Fin 72)
  /-- LFREE: LFREE (05 R123). -/
  | lfree (k : Fin 72)
  /-- WPT: NCX.ISSUE of a WPT (07 R186). -/
  | wpt (k : Fin 72) (h : Bool)
  /-- PASS_MARKER: A pass marker passes (07 R187). -/
  | passMarker (k : Fin 72)
  /-- TWAIT_XQ: TWAIT in the execute queue (10 R273). -/
  | twaitXq (k : Fin 72)
  /-- TWAIT_FQ: TWAIT in the fetch queue (10 R273). -/
  | twaitFq (k : Fin 72)
  /-- REL_XQ: REL in the execute queue (10 R271). -/
  | relXq (k : Fin 72)
  /-- REL_FQ: REL in the fetch queue (10 R271). -/
  | relFq (k : Fin 72)
  /-- ACQ_XQ: ACQ in the execute queue (10 R276). -/
  | acqXq (k : Fin 72)
  /-- ACQ_FQ: ACQ in the fetch queue (10 R276). -/
  | acqFq (k : Fin 72)
  /-- REL_SIGNAL: The REL whose wait set is met signals (10 R271). -/
  | relSignal (k : Fin 72) (fq : Bool)
  /-- TALLY_SIGNAL: The TALLY signal in packet `i` arrives (10 R272). -/
  | tallySignal (i : Nat)
  /-- WORD_SIGNAL: The WORD signal in packet `i` arrives (10 R272). -/
  | wordSignal (i : Nat)
  /-- ACQ_SP_POLL: The router reads an SP word for an ACQ (10 R276). -/
  | acqSpPoll (k : Fin 72) (fq : Bool)
  /-- ACQ_EM_POLL: The router reads an EM word for an ACQ (10 R276). -/
  | acqEmPoll (k : Fin 72) (fq : Bool)
  /-- WALK_RETRY: The router walks again (10 R278). -/
  | walkRetry (k : Fin 72) (fq : Bool)
  /-- VS_ADD: VS.ADD (06 R146); an opcode of 0x40 to 0x5F that names no command fails with FORMAT here. -/
  | vsAdd (k : Fin 72) (u : Upset)
  /-- VS_SUB: VS.SUB (06 R146). -/
  | vsSub (k : Fin 72) (u : Upset)
  /-- VS_MUL: VS.MUL (06 R146). -/
  | vsMul (k : Fin 72) (u : Upset)
  /-- VS_FMA: VS.FMA (06 R146). -/
  | vsFma (k : Fin 72) (u : Upset)
  /-- VS_MIN: VS.MIN (06 R146). -/
  | vsMin (k : Fin 72) (u : Upset)
  /-- VS_MAX: VS.MAX (06 R146). -/
  | vsMax (k : Fin 72) (u : Upset)
  /-- VS_ABS: VS.ABS (06 R146). -/
  | vsAbs (k : Fin 72) (u : Upset)
  /-- VS_NEG: VS.NEG (06 R146). -/
  | vsNeg (k : Fin 72) (u : Upset)
  /-- VS_DIV: VS.DIV (06 R146). -/
  | vsDiv (k : Fin 72) (u : Upset)
  /-- VS_SQRT: VS.SQRT (06 R146). -/
  | vsSqrt (k : Fin 72) (u : Upset)
  /-- VS_EXP2: VS.EXP2 (06 R146). -/
  | vsExp2 (k : Fin 72) (u : Upset)
  /-- VS_LOG2: VS.LOG2 (06 R146). -/
  | vsLog2 (k : Fin 72) (u : Upset)
  /-- VS_CMP: VS.CMP (06 R148). -/
  | vsCmp (k : Fin 72) (u : Upset)
  /-- VS_SEL: VS.SEL (06 R145). -/
  | vsSel (k : Fin 72) (u : Upset)
  /-- VS_LOGIC: VS.LOGIC (06 R147). -/
  | vsLogic (k : Fin 72) (u : Upset)
  /-- VS_CVT: VS.CVT (06 R150). -/
  | vsCvt (k : Fin 72) (u : Upset)
  /-- VS_COMPRESS: VS.COMPRESS (06 R149). -/
  | vsCompress (k : Fin 72) (u : Upset)
  /-- VS_EXPAND: VS.EXPAND (06 R149). -/
  | vsExpand (k : Fin 72) (u : Upset)
  /-- VS_RED: VS.RED (06 R152). -/
  | vsRed (k : Fin 72) (u : Upset)
  /-- VS_LACC: VS.LACC (06 R153). -/
  | vsLacc (k : Fin 72) (u : Upset)
  /-- VS_LRND: VS.LRND (06 R154). -/
  | vsLrnd (k : Fin 72) (u : Upset)
  /-- VS_MOV: VS.MOV (06 R145). -/
  | vsMov (k : Fin 72) (u : Upset)
  /-- VS_SLICE: VS.SLICE (04 R98). -/
  | vsSlice (k : Fin 72) (u : Upset)
  /-- VS_RECOMB: VS.RECOMB (04 R104). -/
  | vsRecomb (k : Fin 72) (u : Upset)
  /-- VS_SUMAT: VS.SUMAT (06 R161). -/
  | vsSumat (k : Fin 72)
  /-- VR_ADD: VR.ADD (06 R158); an opcode of 0x60 to 0x7F that names no command fails here. -/
  | vrAdd (k : Fin 72) (u : Upset)
  /-- VR_SUB: VR.SUB (06 R158). -/
  | vrSub (k : Fin 72) (u : Upset)
  /-- VR_MUL: VR.MUL (06 R158). -/
  | vrMul (k : Fin 72) (u : Upset)
  /-- VR_FMA: VR.FMA (06 R158). -/
  | vrFma (k : Fin 72) (u : Upset)
  /-- VR_MIN: VR.MIN (06 R158). -/
  | vrMin (k : Fin 72) (u : Upset)
  /-- VR_MAX: VR.MAX (06 R158). -/
  | vrMax (k : Fin 72) (u : Upset)
  /-- VR_ABS: VR.ABS (06 R158). -/
  | vrAbs (k : Fin 72) (u : Upset)
  /-- VR_NEG: VR.NEG (06 R158). -/
  | vrNeg (k : Fin 72) (u : Upset)
  /-- VR_DIV: VR.DIV (06 R158). -/
  | vrDiv (k : Fin 72) (u : Upset)
  /-- VR_SQRT: VR.SQRT (06 R158). -/
  | vrSqrt (k : Fin 72) (u : Upset)
  /-- VR_EXP2: VR.EXP2 (06 R158). -/
  | vrExp2 (k : Fin 72) (u : Upset)
  /-- VR_LOG2: VR.LOG2 (06 R158). -/
  | vrLog2 (k : Fin 72) (u : Upset)
  /-- VR_CMP: VR.CMP (06 R158). -/
  | vrCmp (k : Fin 72) (u : Upset)
  /-- VR_SEL: VR.SEL (06 R158). -/
  | vrSel (k : Fin 72) (u : Upset)
  /-- VR_LOGIC: VR.LOGIC (06 R158). -/
  | vrLogic (k : Fin 72) (u : Upset)
  /-- VR_CVT: VR.CVT (06 R158). -/
  | vrCvt (k : Fin 72) (u : Upset)
  /-- VR_COMPRESS: VR.COMPRESS (06 R158). -/
  | vrCompress (k : Fin 72) (u : Upset)
  /-- VR_EXPAND: VR.EXPAND (06 R158). -/
  | vrExpand (k : Fin 72) (u : Upset)
  /-- VR_RED: VR.RED (06 R158). -/
  | vrRed (k : Fin 72) (u : Upset)
  /-- VR_LACC: VR.LACC (06 R158). -/
  | vrLacc (k : Fin 72) (u : Upset)
  /-- VR_LRND: VR.LRND (06 R158). -/
  | vrLrnd (k : Fin 72) (u : Upset)
  /-- VR_MOV: VR.MOV (06 R158). -/
  | vrMov (k : Fin 72) (u : Upset)
  /-- VR_SLICE: SLICE by its register-mode opcode (06 R155). -/
  | vrSlice (k : Fin 72) (u : Upset)
  /-- VR_RECOMB: RECOMB by its register-mode opcode (06 R155). -/
  | vrRecomb (k : Fin 72) (u : Upset)
  /-- VR_LD: VR.LD (06 R159). -/
  | vrLd (k : Fin 72) (u : Upset)
  /-- VR_ST: VR.ST (06 R159). -/
  | vrSt (k : Fin 72) (u : Upset)
  /-- CH_ARM: CH.ARM (08 R206); opcodes 0x85 to 0x8F fail with FORMAT here. -/
  | chArm (k : Fin 72)
  /-- CH_REARM: CH.REARM (08 R225). -/
  | chRearm (k : Fin 72)
  /-- CH_HALT: CH.HALT (08 R207, R210). -/
  | chHalt (k : Fin 72)
  /-- CH_RESUME: CH.RESUME (08 R207). -/
  | chResume (k : Fin 72)
  /-- CH_CREDIT: CH.CREDIT (08 R208). -/
  | chCredit (k : Fin 72)
  /-- CONVOY_CREDIT: The credit in packet `i` arrives (08 R227). -/
  | convoyCredit (i : Nat)
  /-- TOKEN_GAIN: A BOUNDED stream gains a token (08 R216). -/
  | tokenGain (k : Fin 72) (i : Fin 32)
  /-- TRANSFER_ISSUE: The fetch engine makes one step (08 R215). -/
  | transferIssue (k : Fin 72) (u : Upset)
  /-- LANDING: The data in packet `i` lands (08 R221). -/
  | landing (i : Nat)
  /-- TRANSFER_ACK: The acknowledgement in packet `i` arrives (08 R213). -/
  | transferAck (i : Nat)
  /-- RESUME: STRM_CTL.RESUME (08 R209). -/
  | resume (k : Fin 72) (i : Fin 32)
  /-- CANCEL: STRM_CTL.CANCEL (08 R209). -/
  | cancel (k : Fin 72) (i : Fin 32)
  /-- STREAM_DEADLINE: A stream's deadline passes (08 R230). -/
  | streamDeadline (k : Fin 72) (i : Fin 32)
  /-- MSG_SEND: NCX.ISSUE of a MSG.SEND (09 R241). -/
  | msgSend (k : Fin 72) (h : Bool)
  /-- MSG_REPLY: NCX.ISSUE of a MSG.REPLY (09 R241). -/
  | msgReply (k : Fin 72) (h : Bool)
  /-- SHORT_MULTICAST: NCX.ISSUE of a MSG.MCAST with BULK 0 (09 R254). -/
  | shortMulticast (k : Fin 72) (h : Bool)
  /-- BULK_MULTICAST: NCX.ISSUE of a MSG.MCAST with BULK 1 (09 R255). -/
  | bulkMulticast (k : Fin 72) (h : Bool)
  /-- BULK_PACKET: The next packet of a bulk multicast goes (09 R255). -/
  | bulkPacket (k : Fin 72) (u : Upset)
  /-- MEMBER_ACK: The member's acknowledgement in packet `i` arrives (09 R255). -/
  | memberAck (i : Nat)
  /-- MSG_COMB: NCX.ISSUE of a MSG.COMB (09 R257). -/
  | msgComb (k : Fin 72) (h : Bool)
  /-- REQUEST_ARRIVAL: The request in packet `i` arrives (09 R246). -/
  | requestArrival (i : Nat)
  /-- REPLY_ARRIVAL: The reply in packet `i` arrives (09 R248). -/
  | replyArrival (i : Nat)
  /-- ADMISSION_ACK: The admission acknowledgement in packet `i` arrives (09 R242). -/
  | admissionAck (i : Nat)
  /-- REFUSAL: The refusal in packet `i` arrives (09 R246). -/
  | refusal (i : Nat)
  /-- CHANNEL_WAKE: The wake in packet `i` arrives (09 R246). -/
  | channelWake (i : Nat)
  /-- CHANNEL_ENABLE: CH_CFG.EN goes from 0 to 1 (09 R235). -/
  | channelEnable (r : ChanRef) (v : Word)
  /-- CHANNEL_RESET: CH_CFG.RESET (09 R235). -/
  | channelReset (r : ChanRef)
  /-- ARM: CN_CTL.ARM (09 R256). -/
  | arm (c : Fin 32)
  /-- CN_CANCEL: CN_CTL.CANCEL (09 R259). -/
  | cnCancel (c : Fin 32)
  /-- CONTRIBUTION: Combining node `c` takes a contribution (09 R257). -/
  | contribution (c : Fin 32) (i : Nat)
  /-- RESULT_ACK: The result acknowledgement in packet `i` arrives (09 R258). -/
  | resultAck (i : Nat)
  /-- UZODAL_FRAME: A frame from the stack (11 R289). -/
  | uzodalFrame (p : Fin 20) (frame : List Byte)
  /-- TX_FRAME: A frame to the stack (11 R288). -/
  | txFrame (p : Fin 20)
  /-- MEMORY_REQUEST: The request in packet `i` reaches its port (11 R297). -/
  | memoryRequest (i : Nat)
  /-- PARITY_DELTA: The delta in packet `i` reaches the parity port (11 R305). -/
  | parityDelta (i : Nat)
  /-- REBUILD_DONE: Rebuild `j` of port `p` ends (11 R306). -/
  | rebuildDone (p : Fin 20) (j : Nat)
  /-- SCRUB: The scrubber's next block (11 R304). -/
  | scrub (p : Fin 20)
  /-- TRAINING_DONE: A memory port's training ends (11 R294). -/
  | trainingDone (p : Fin 20) (ok : Bool) (badRx : List Nat) (badTx : List Nat)
  /-- LANE_SWAP: A lane is replaced by a spare (11 R295, 13 R350). -/
  | laneSwap (r : PortRef) (tx : Bool) (lane : Nat)
  /-- MP_LOSE: MP_CTL.LOSE (11 R306). -/
  | mpLose (p : Fin 20)
  /-- MP_RETRAIN: MP_CTL.RETRAIN (11 R294). -/
  | mpRetrain (p : Fin 20)
  /-- WALK_COMPLETE: The walk for a stream ends (11 R309). -/
  | walkComplete (k : Fin 72) (i : Fin 32)
  /-- XL_INV: XL_INV.GO, with the register's fields (11 R311). -/
  | xlInv (v : Word)
  /-- INVALIDATION_DONE: The invalidation is complete (11 R311). -/
  | invalidationDone
  /-- XF_RING_ENABLE: A write of XF_RING (11 R315). -/
  | xfRingEnable (v : Word)
  /-- XF_RP: A write of XF_PTR.RP (11 R312). -/
  | xfRp (rp : Nat)
  /-- STAGE: STAGE (12 R320), or a reserved NOP: it starts, and runs on by up to `m` units. -/
  | stage (n : Fin 20) (m : Nat) (u : Upset)
  /-- MV: MV (12 R326): it starts, and runs on by up to `m` units. -/
  | mv (n : Fin 20) (m : Nat) (u : Upset)
  /-- SGD: SGD (12 R329): it starts, and runs on by up to `m` units. -/
  | sgd (n : Fin 20) (m : Nat) (u : Upset)
  /-- EMB: EMB (12 R332): it starts, and runs on by up to `m` units. -/
  | emb (n : Fin 20) (m : Nat) (u : Upset)
  /-- SCAN: SCAN (12 R333): it starts, and runs on by up to `m` units. -/
  | scan (n : Fin 20) (m : Nat) (u : Upset)
  /-- CVT: CVT (12 R335): it starts, and runs on by up to `m` units. -/
  | cvt (n : Fin 20) (m : Nat) (u : Upset)
  /-- IRED: IRED (12 R336): it starts, and runs on by up to `m` units. -/
  | ired (n : Fin 20) (m : Nat) (u : Upset)
  /-- GATHER: GATHER (12 R334): it starts, and runs on by up to `m` units. -/
  | gather (n : Fin 20) (m : Nat) (u : Upset)
  /-- SCATTER: SCATTER (12 R334): it starts, and runs on by up to `m` units. -/
  | scatter (n : Fin 20) (m : Nat) (u : Upset)
  /-- TAGRES: TAGRES (13 R362). -/
  | tagres (n : Fin 20)
  /-- TAGRET: TAGRET (12 R341). -/
  | tagret (n : Fin 20)
  /-- NMU_COMPLETE: The running command, or the tag in a slot, completes (12 R324). -/
  | nmuComplete (n : Fin 20) (tag : Option Nat)
  /-- SCOUT_REPORT: The scout report in packet `i` arrives (12 R331). -/
  | scoutReport (i : Nat)
  /-- ABORT_FLEET: NMU_CTL.ABORT_FLEET (12 R325). -/
  | abortFleet (n : Fin 20) (fleet : Fin 16)
  /-- ABORT_TAG: NMU_CTL.ABORT_TAG (12 R325). -/
  | abortTag (n : Fin 20) (tag : Nat)
  /-- CONTRIB_SEND: Tag slot `e` sends its next block (13 R362). -/
  | contribSend (n : Fin 20) (e : Nat)
  /-- CONTRIB: The contribution in packet `i` arrives (12 R338). -/
  | contrib (i : Nat)
  /-- RESULT: The result in packet `i` arrives (13 R363). -/
  | result (i : Nat)
  /-- FILIC_FRAME: A Filic frame that is in order and good (13 R348): its 3 968 bytes and the 128 of its FEC, as the lanes carried them. -/
  | filicFrame (l : Fin 8) (fec : List Byte) (frame : List Byte)
  /-- RD_WAKE: RD_STAT.WAKE (13 R364). -/
  | rdWake (e : Fin 64)
  /-- FL_TRAINING_DONE: A Filic training ends (13 R349). -/
  | flTrainingDone (l : Fin 8) (ok : Bool) (node : Nat) (badRx : List Nat) (badTx : List Nat)
  /-- FL_LOSE: FL_CTL.LOSE (13 R351). -/
  | flLose (l : Fin 8)
  /-- FL_RETRAIN: FL_CTL.RETRAIN (13 R349). -/
  | flRetrain (l : Fin 8)
  /-- ADMIT: RK_CMD ADMIT (14 R380). -/
  | admitPassage
  /-- RELEASE: RK_CMD RELEASE (14 R389). -/
  | release (pid : Nat)
  /-- RUN_DEADLINE: The deadline of passage entry `q` (14 R388). -/
  | runDeadline (q : Fin 32)
  /-- RT: RK_CTL.RT (14 R390). -/
  | rt (on : Bool)
  /-- PACE_WINDOW: A pace window ends (14 R375). -/
  | paceWindow (n : Fin 100) (steps : Nat) (tj : Nat)
  /-- SAG_CLEAR: PACE_Pn.SAG is written 1 (14 R376). -/
  | sagClear (n : Fin 100)
  /-- PACE_LOST: Three pace reports are missing (17 R447). -/
  | paceLost (n : Fin 100)
  /-- GRANT_REQUEST: A governor asks for power (15 R398). -/
  | grantRequest (n : Fin 100) (classes : Nat)
  /-- GRANT: Compass grants (15 R399). -/
  | grant
  /-- GRANT_RELEASE: Idle classes release their quanta (15 R399). -/
  | grantRelease (n : Fin 100) (classes : Nat)
  /-- LOAD: ZN_CMD LOAD (16 R420). -/
  | load
  /-- LOAD_COMPLETE: The image is read and checked; `src`: what the flash or host memory gave (16 R420). -/
  | loadComplete (src : Option (List Byte))
  /-- APPLY: ZN_CMD APPLY (16 R426). -/
  | apply
  /-- STAGE_WARM: ZN_CMD STAGE_WARM (16 R430). -/
  | stageWarm
  /-- ZN_ABORT: ZN_CMD ABORT (16 R427). -/
  | znAbort
  /-- DISCARD: ZN_CMD DISCARD (16 R430). -/
  | discard
  /-- SLUICE_CLOSURE: The next polders close at their sluices (16 R422). -/
  | sluiceClosure
  /-- SLUICE: The closed polders have drained (16 R422). -/
  | sluice
  /-- DRAIN_OVERRUN: A drain takes longer than 1.0 us (16 R423). -/
  | drainOverrun
  /-- DEFERRED_CHANGE_RESUME: A deferred change goes on (16 R424). -/
  | deferredChangeResume
  /-- RELIEVE: RP_CTL RELIEVE (17 R443). -/
  | relieve (id : Fin 64)
  /-- COPY_PASS_DONE: A copy pass ends (17 R443). -/
  | copyPassDone
  /-- RELIEF_COMMIT: The relief commits (17 R444). -/
  | reliefCommit
  /-- SOUND: RP_CTL SOUND (17 R439). -/
  | sound (n : Fin 100)
  /-- SOUNDING_ROTATION: The next sounding or relief of a sector falls due (17 R441). -/
  | soundingRotation (sec : Fin 8) (polder : Bool)
  /-- SOUNDING_RETRY: Waiting work `i` is tried again (17 R441). -/
  | soundingRetry (i : Nat)
  /-- SOUNDING_DONE: A sounding ends (17 R439). -/
  | soundingDone (n : Fin 100) (found : Found)
  /-- QUARANTINE: RP_CTL QUARANTINE (17 R448). -/
  | quarantine (n : Fin 100)
  /-- UNQUARANTINE: RP_CTL UNQUARANTINE (17 R451). -/
  | unquarantine (n : Fin 100)
  /-- DIKE_TIMEOUT: A dike handshake is unanswered (17 R447). -/
  | dikeTimeout (n : Fin 100)
  /-- REPAIR_MAP_WRITE: The repair map is written (17 R435). -/
  | repairMapWrite
  /-- WEAR_LEDGER: The wear ledger record is written (15 R408). -/
  | wearLedger
  /-- LOGBOOK_RECORD: Report `i` enters the Logbook (17 R457). -/
  | logbookRecord (i : Nat)
  /-- LOGBOOK_BATCH: A batch of records is persisted (15 R406). -/
  | logbookBatch
  /-- DOWN: SEM_CMD DOWN of agent `a` (17 R452). -/
  | down (a : Fin 9) (owner : Nat) (sem : Fin 256)
  /-- UP: SEM_CMD UP of agent `a` (17 R452). -/
  | up (a : Fin 9) (owner : Nat) (sem : Fin 256)
  /-- INIT: SEM_CMD INIT of agent `a` (17 R452). -/
  | init (a : Fin 9) (sem : Fin 256) (v : Nat)
  /-- DRS_RD: DRS_RD (18 R462). -/
  | drsRd (owner : Bool) (fleet : Nat) (tag : Nat) (off : Nat) (n : Nat)
  /-- DRS_WR: DRS_WR (18 R462). -/
  | drsWr (owner : Bool) (fleet : Nat) (off : Nat) (bytes : List Byte) (b : BootIn)
  /-- EM_RD: EM_RD (18 R462). -/
  | emRd (owner : Bool) (fleet : Nat) (tag : Nat) (addr : Nat) (n : Nat)
  /-- EM_WR: EM_WR (18 R462). -/
  | emWr (owner : Bool) (fleet : Nat) (addr : Nat) (bytes : List Byte)
  /-- HPUT: HPUT (18 R462). -/
  | hput (owner : Bool) (fleet : Nat) (core : Nat) (addr : Nat) (tally : Option Nat) (bytes : List Byte)
  /-- FLUSH: FLUSH (18 R462). -/
  | flush (tag : Nat)
  /-- CPL: An inbound completion (18 R462). -/
  | cpl (tag : Nat) (status : Nat) (bytes : List Byte)
  /-- HOST_TIMEOUT: An outbound access times out (18 R465). -/
  | hostTimeout (tag : Nat)
  /-- HOST_CORE_ACCESS: An access of a host core (18 R467, R468). -/
  | hostCoreAccess (a : Fin 8) (addr : Nat) (op : HostOp) (evict : List Nat) (b : BootIn)
  /-- SEND: HCS_GO.SEND (18 R470). -/
  | send (a : Fin 8)
  /-- PUT: HCS_GO.PUT (18 R470). -/
  | put (a : Fin 8)
  /-- VERIFY: HC_FWCMD.VERIFY (18 R472). -/
  | verify
  /-- RESTART: HC_CTL.RESTART (18 R472). -/
  | restart (mask : Nat)
  /-- PROG_KEY: OTP_CMD PROG_KEY (18 R484). -/
  | progKey (slot : Fin 4)
  /-- REVOKE_KEY: OTP_CMD REVOKE (18 R484). -/
  | revokeKey (slot : Fin 4)
  /-- SET_DEBUG: OTP_CMD SET_DEBUG (18 R484). -/
  | setDebug
  /-- SET_MFR: OTP_CMD SET_MFR (18 R484). -/
  | setMfr (v : Nat)
  /-- PHY_REFCLK_RETURN: PHY_REFCLK returns (19 R492). -/
  | phyRefclkReturn
  /-- FL_TX_FRAME: A frame of a Filic port (13 R355). -/
  | flTxFrame (l : Fin 8)
  /-- FRAME_DISCARDED: A Filic frame that is not (13 R348), its bytes as above. -/
  | frameDiscarded (l : Fin 8) (fec : List Byte) (frame : List Byte)
  /-- OUTBOUND_CREDIT_RETURN: The wrapper returns credits (18 R463). -/
  | outboundCreditReturn (pw : Nat) (npr : Nat)
  /-- MALFORMED_PACKET: An inbound packet that is not taken (18 R462, R465). -/
  | malformedPacket (ch : Nat) (op : Nat) (tag : Nat) (parity : Bool) (hdr : Bool)
  /-- VR_SAVE_DONE: A register-file save or restore completes (06 R166). -/
  | vrSaveDone (k : Fin 72)
  deriving DecidableEq, Repr

end Sys2Proof
end

