-- ==== Sys2Proof/Decode.lean ====
section
/-!
DEFINITION. Decode.lean: the opcode table of this block gives none of its rows any bits: its commands are events on registers,
pins and ports, and words that the block itself reads (control-core instructions, queue commands, frames, images) are decoded where
it reads them. So no word spells a command.
-/

namespace Sys2Proof

/-- The command that a word spells by the table's bits: none. -/
def decodeTableWord (_nbits _w : Nat) : Option Instr := none

end Sys2Proof
end

