-- ==== Sys2Proof/Machine/Crc.lean ====
section
/-!
DEFINITION. Machine/Crc.lean: CRC-32C (11 R288, 15 R409), and the block check code over GF(2^16) (11 R303).
-/

namespace Sys2Proof.Machine

/-! ## CRC-32C -/

/-- One bit of the reflected CRC, `n` times. -/
def crcBits : Nat → Nat → Nat
  | 0, c => c
  | n + 1, c => crcBits n (if c % 2 = 1 then c / 2 ^^^ 0x82F63B78 else c / 2)

/-- CRC-32C of bytes: reflected, initial value and final XOR all ones. -/
def crc32c (bs : List Byte) : Nat :=
  bs.foldl (fun c b => crcBits 8 (c ^^^ b.toNat)) 0xFFFFFFFF ^^^ 0xFFFFFFFF

/-! ## The block check (11 R303) -/

/-- Times alpha, a root of x^16 + x^12 + x^3 + x + 1. -/
def gfAlpha (a : Nat) : Nat := if 32768 ≤ a then (2 * a) % 65536 ^^^ 0x100B else 2 * a
/-- Over alpha. -/
def gfUnalpha (a : Nat) : Nat := if a % 2 = 1 then a / 2 ^^^ 0x8805 else a / 2

def gfMulAux : Nat → Nat → Nat → Nat
  | 0, _, _ => 0
  | n + 1, a, b => (if b % 2 = 1 then a else 0) ^^^ gfMulAux n (gfAlpha a) (b / 2)
/-- The product in GF(2^16). -/
def gfMul (a b : Nat) : Nat := gfMulAux 16 a b

/-- `n` times a function. -/
def iter {α : Type} (f : α → α) : Nat → α → α
  | 0, a => a
  | n + 1, a => iter f n (f a)

/-- The symbols of a block, first to last. -/
def blockSyms (bs : List Byte) : List Nat := (List.range 128).map (fun s => leNat ((bs.drop (2 * s)).take 2))

/-- CHECK: the remainder by (x - a)(x - a^2)(x - a^3), p0 lowest. -/
def blockCheck (bs : List Byte) : Nat :=
  let r := (blockSyms bs).reverse.foldl (fun (r : Nat × Nat × Nat) d =>
    let f := d ^^^ r.1
    (r.2.1 ^^^ gfMul f 14, r.2.2 ^^^ gfMul f 56, gfMul f 64)) (0, 0, 0)
  r.2.2 + 2 ^ 16 * r.2.1 + 2 ^ 32 * r.1

/-- The codeword's coefficients, lowest power first. -/
def codeword (bs : List Byte) (check : Nat) : List Nat := [bits check 0 16, bits check 16 16, bits check 32 16] ++ blockSyms bs

/-- The codeword at alpha to the `i`. -/
def syndrome (cw : List Nat) (i : Nat) : Nat := cw.foldr (fun c a => c ^^^ iter gfAlpha i a) 0

/-- What the check finds: a good block, one corrected, or none. -/
inductive EccRes where
  | good
  | corrected (bs : List Byte)
  | bad
  deriving DecidableEq, Repr

/-- The position whose error explains the syndromes, among `n`; `p` counts up with alpha to the `p` applied. -/
def findErr : Nat → Nat → Nat → Nat → Nat → Option Nat
  | 0, _, _, _, _ => none
  | n + 1, p, a1, a2, t =>
    -- a1 = S1 alpha^p, a2 = S2 alpha^p; t packs S2 and S3
    if a1 = t / 65536 ∧ a2 = t % 65536 then some p else findErr n (p + 1) (gfAlpha a1) (gfAlpha a2) t

/-- Check a block: any one symbol in error is corrected (R303). -/
def eccCheck (bs : List Byte) (check : Nat) : EccRes :=
  let cw := codeword bs check
  let s1 := syndrome cw 1
  let s2 := syndrome cw 2
  let s3 := syndrome cw 3
  if s1 = 0 ∧ s2 = 0 ∧ s3 = 0 then .good
  else if s1 = 0 then .bad
  else
    match findErr 131 0 s1 s2 (s2 * 65536 + s3) with
    | none => .bad
    | some j =>
      let e := iter gfUnalpha j s1
      if j < 3 then .corrected bs
      else
        let i := j - 3
        .corrected (bs.take (2 * i) ++ natLE 2 (leNat ((bs.drop (2 * i)).take 2) ^^^ e) ++ bs.drop (2 * i + 2))

end Sys2Proof.Machine
end

