-- ==== Sys2Proof/Machine/Fec.lean ====
section
/-!
DEFINITION. Machine/Fec.lean: what the lanes carry for a frame: Reed-Solomon codewords RS(128, 124) over GF(2^8) and scrambling by
lane (11 R289, 13 R346). The 32 codewords of a frame are computed together: byte `c` of a row of 32 bytes belongs to codeword `c`.

The spec gives the field, the position of each byte and the seeds. DESIGN CHOICE (log entry 42), after the block check of 11 R303: the
codeword is the sum of d_s x^(s+4) over positions s and of p_i x^i over its parity bytes, p_0 first, and is divisible by (x - α) to
(x - α^4); a scrambler's register holds its next 31 bits, the next one lowest, and starts at the seed; bit 0 of a unit is its first.
-/

namespace Sys2Proof.Machine

/-- Bytes of a frame before its parity, and in all (11 R288). -/
def frameBytes : Nat := 3968
def wireBytes : Nat := 4096

/-! ## Rows of 32 bytes -/

/-- A byte repeated in a row. -/
def fecRow (b : Nat) : Nat := b * ((2 ^ 256 - 1) / 255)
/-- Each byte of a row times α, a root of x^8 + x^4 + x^3 + x^2 + 1. -/
def rowAlpha (v : Nat) : Nat := ((v &&& fecRow 0x7F) <<< 1) ^^^ ((v >>> 7 &&& fecRow 1) * 0x1D)

def rowTimesAux : Nat → Nat → Nat → Nat → Nat
  | 0, _, _, acc => acc
  | n + 1, g, v, acc => rowTimesAux n (g / 2) (rowAlpha v) (if g % 2 = 1 then acc ^^^ v else acc)
/-- Each byte of a row times a constant. -/
def rowTimes (g v : Nat) : Nat := rowTimesAux 8 g v 0

/-- Move each byte of a row `k` places up, round its end. -/
def rowTurn (k v : Nat) : Nat := (v <<< (8 * (k % 32)) ||| v >>> (256 - 8 * (k % 32))) % 2 ^ 256

/-- The rows of 32 bytes from row `r` on, `n` of them, each byte at the place of its codeword: byte `b` belongs to codeword
`(b + b / 64) mod 32`, and its position there is `b / 32` (R289). -/
def rowsFrom : Nat → Nat → List Byte → List Nat
  | 0, _, _ => []
  | n + 1, r, f => rowTurn (r / 2) (leNat (f.take 32)) :: rowsFrom n (r + 1) (f.drop 32)
/-- The bytes that rows stand for, from row `r` on. -/
def rowsData : Nat → List Nat → List Byte
  | _, [] => []
  | r, v :: vs => natLE 32 (rowTurn (32 - r / 2 % 32) v) ++ rowsData (r + 1) vs

/-- The rows of a frame before its parity. -/
def dataRows (f : List Byte) : List Nat := rowsFrom 124 0 f

/-! ## Parity -/

/-- One step of the division by (x - α)(x - α^2)(x - α^3)(x - α^4) = x^4 + 0x1E x^3 + 0xD8 x^2 + 0xE7 x + 0x74. -/
def parityStep (p : Nat × Nat × Nat × Nat) (d : Nat) : Nat × Nat × Nat × Nat :=
  let f := d ^^^ p.2.2.2
  (rowTimes 0x74 f, p.1 ^^^ rowTimes 0xE7 f, p.2.1 ^^^ rowTimes 0xD8 f, p.2.2.1 ^^^ rowTimes 0x1E f)

/-- The parity of every codeword, as rows p_0 to p_3. -/
def parityRows (rows : List Nat) : Nat × Nat × Nat × Nat := rows.reverse.foldl parityStep (0, 0, 0, 0)

/-- Byte `c` of a row. -/
def rowByte (v c : Nat) : Byte := BitVec.ofNat 8 (v >>> (8 * c))

/-- The 128 parity bytes: those of codeword `c` from byte `4 * c` on. -/
def parityBytes (p : Nat × Nat × Nat × Nat) : List Byte :=
  (List.range 32).flatMap (fun c => [rowByte p.1 c, rowByte p.2.1 c, rowByte p.2.2.1 c, rowByte p.2.2.2 c])

/-- A frame with its parity. -/
def withParity (f : List Byte) : List Byte := f ++ parityBytes (parityRows (dataRows f))

/-! ## Correction -/

/-- Row `i` of the parity bytes. -/
def parityRow (ps : List Byte) (i : Nat) : Nat := leNat ((List.range 32).map (fun c => ps.getD (4 * c + i) 0))

/-- The coefficients of every codeword, lowest power first. -/
def wordRows (f : List Byte) : List Nat := (List.range 4).map (parityRow (f.drop frameBytes)) ++ dataRows f

/-- Every codeword at α^i. -/
def rowSyndrome (rows : List Nat) (i : Nat) : Nat := rows.foldr (fun c a => c ^^^ iter rowAlpha i a) 0

/-- GF(2^8). -/
def gf8Alpha (a : Nat) : Nat := if 128 ≤ a then (2 * a) % 256 ^^^ 0x1D else 2 * a
def gf8MulAux : Nat → Nat → Nat → Nat
  | 0, _, _ => 0
  | n + 1, a, b => (if b % 2 = 1 then a else 0) ^^^ gf8MulAux n (gf8Alpha a) (b / 2)
def gf8Mul (a b : Nat) : Nat := gf8MulAux 8 a b
/-- The inverse, a^254. -/
def gf8Inv (a : Nat) : Nat := iter (fun x => gf8Mul (gf8Mul x x) a) 6 a |> fun x => gf8Mul x x
def gf8Pow (i : Nat) : Nat := iter gf8Alpha i 1

/-- The errors of one codeword by its syndromes, as (power, value): at most two; none where no two explain them. -/
def findErrors (s1 s2 s3 s4 : Nat) : Option (List (Nat × Nat)) :=
  if s1 = 0 ∧ s2 = 0 ∧ s3 = 0 ∧ s4 = 0 then some []
  else
    let det := gf8Mul s2 s2 ^^^ gf8Mul s1 s3
    if det = 0 then
      let x := gf8Mul s2 (gf8Inv s1)
      match (List.range 128).find? (fun p => gf8Pow p == x) with
      | some p => if s1 ≠ 0 ∧ gf8Mul s2 x = s3 ∧ gf8Mul s3 x = s4 then some [(p, gf8Mul s1 (gf8Inv x))] else none
      | none => none
    else
      let d := gf8Inv det
      let a := gf8Mul (gf8Mul s1 s4 ^^^ gf8Mul s2 s3) d
      let b := gf8Mul (gf8Mul s2 s4 ^^^ gf8Mul s3 s3) d
      match (List.range 128).filter (fun p => let x := gf8Pow p; gf8Mul x x ^^^ gf8Mul a x ^^^ b == 0) with
      | [p, q] =>
        let x := gf8Pow p
        let y := gf8Pow q
        let e := gf8Mul (s2 ^^^ gf8Mul y s1) (gf8Inv (gf8Mul x (x ^^^ y)))
        some [(p, e), (q, gf8Mul (s1 ^^^ gf8Mul e x) (gf8Inv y))]
      | _ => none

/-- The errors of all codewords, as (codeword, power, value). A codeword that cannot be corrected is left as it came. -/
def frameErrors (f : List Byte) : List (Nat × Nat × Nat) :=
  let rows := wordRows f
  let s := (List.range 4).map (fun i => rowSyndrome rows (i + 1))
  if s.all (· == 0) then []
  else
    let at_ := fun (i c : Nat) => (rowByte (s.getD i 0) c).toNat
    (List.range 32).flatMap (fun c => ((findErrors (at_ 0 c) (at_ 1 c) (at_ 2 c) (at_ 3 c)).getD []).map (fun e => (c, e)))

/-- The bytes of a frame after FEC decoding, and whether the FEC corrected it. -/
def fecDecode (f : List Byte) : List Byte × Bool :=
  match frameErrors f with
  | [] => (f.take frameBytes, false)
  | es => (rowsData 0 ((dataRows f).zipIdx.map (fun x =>
      es.foldl (fun v e => if e.2.1 = x.2 + 4 then v ^^^ (e.2.2 <<< (8 * e.1)) else v) x.1)), true)

/-! ## Scrambling -/

/-- The next 16 bits of PRBS31, x^31 + x^28 + 1, and the register after them. -/
def prbs16 (t : Nat) : Nat × Nat :=
  let w := (t ^^^ t >>> 3) % 65536
  (w, t >>> 16 ||| w <<< 15)

/-- The words that `n` rounds of the lanes are scrambled with; `ts` are the lanes' registers. -/
def scrambleWords : Nat → List Nat → List Nat
  | 0, _ => []
  | n + 1, ts => ts.map (fun t => (prbs16 t).1) ++ scrambleWords n (ts.map (fun t => (prbs16 t).2))

/-- What a frame's bytes are XORed with on `l` working lanes: unit `u`, bytes `2 * u` and `2 * u + 1`, goes on lane `u mod l`. -/
def scrambler (l : Nat) : List Byte :=
  (scrambleWords (2048 / l) ((List.range l).map (fun i => 0x5A5A0000 + i))).flatMap (natLE 2)

/-- Scramble, or unscramble, a frame on `l` lanes. -/
def scramble (l : Nat) (f : List Byte) : List Byte := List.zipWith (· ^^^ ·) f (scrambler l)

/-- The 4 096 bytes that `l` lanes carry for a frame. -/
def toWire (l : Nat) (f : List Byte) : List Byte := scramble l (withParity f)
/-- The frame that `l` lanes have carried, after FEC decoding, and whether the FEC corrected it. -/
def fromWire (l : Nat) (w : List Byte) : List Byte × Bool := fecDecode (scramble l w)

end Sys2Proof.Machine
end

