-- ==== Sys2Proof/Machine/Num.lean ====
section
/-!
DEFINITION. Machine/Num.lean: number formats, exact values, the one rounding of every operation, and conversions
(02 R35 to R66, 06 R146 to R147). Every operation forms an exact value and rounds once.
-/

namespace Sys2Proof.Machine

/-- Rounding modes, in the order of their two-bit codes (R49). -/
inductive RMode where
  | rne | rtz | rdn | rup
  deriving DecidableEq, Repr

/-- The two-bit RM field (R49). -/
def RMode.ofCode (c : Nat) : RMode := match c % 4 with | 0 => .rne | 1 => .rtz | 2 => .rdn | _ => .rup

/-- A binary interchange format: exponent bits and fraction bits (R38). -/
structure FFmt where
  ebits : Nat
  fbits : Nat
  deriving DecidableEq, Repr

def fp16 : FFmt := ⟨5, 10⟩
def bf16 : FFmt := ⟨8, 7⟩
def fp32 : FFmt := ⟨8, 23⟩
def fp64 : FFmt := ⟨11, 52⟩

namespace FFmt
/-- Width in bits. -/
def width (f : FFmt) : Nat := 1 + f.ebits + f.fbits
/-- Exponent bias (R38). -/
def bias (f : FFmt) : Nat := 2 ^ (f.ebits - 1) - 1
/-- Largest biased exponent, that of infinities and NaNs. -/
def emax (f : FFmt) : Nat := 2 ^ f.ebits - 1
/-- The canonical NaN (R38): quiet, sign 0. -/
def canonNaN (f : FFmt) : Nat := f.emax * 2 ^ f.fbits + 2 ^ (f.fbits - 1)
/-- Infinity of a sign. -/
def infinity (f : FFmt) (neg : Bool) : Nat := b01 neg * 2 ^ (f.width - 1) + f.emax * 2 ^ f.fbits
/-- The largest finite value of a sign. -/
def maxFinite (f : FFmt) (neg : Bool) : Nat := b01 neg * 2 ^ (f.width - 1) + f.emax * 2 ^ f.fbits - 1
/-- Zero of a sign. -/
def zero (f : FFmt) (neg : Bool) : Nat := b01 neg * 2 ^ (f.width - 1)
end FFmt

/-- An exact value: `fin neg m e` is `(-1)^neg * m * 2^e`; a zero keeps its sign. -/
inductive Val where
  | nan
  | inf (neg : Bool)
  | fin (neg : Bool) (m : Nat) (e : Int)
  deriving DecidableEq, Repr

/-- The value a pattern stands for (R38); subnormals included (R39). -/
def decodeF (f : FFmt) (w : Nat) : Val :=
  let neg := bit w (f.width - 1)
  let e := bits w f.fbits f.ebits
  let m := bits w 0 f.fbits
  if e = f.emax then (if m = 0 then .inf neg else .nan)
  else if e = 0 then .fin neg m (1 - (f.bias : Int) - (f.fbits : Int))
  else .fin neg (m + 2 ^ f.fbits) ((e : Int) - (f.bias : Int) - (f.fbits : Int))

/-- An integer as an exact value; zero is +0. -/
def valOfInt (i : Int) : Val := .fin (decide (i < 0)) i.natAbs 0

/-- Is the value a zero? -/
def Val.isZero : Val → Bool
  | .fin _ m _ => m == 0
  | _ => false

def Val.isFinite : Val → Bool
  | .fin _ _ _ => true
  | _ => false

/-- Does rounding of magnitude `n + rest` go up to `n + 1`? `cmp` orders the rest against one half; `rest` says it is
not zero (R49). -/
def roundsUp (rm : RMode) (neg : Bool) (n : Nat) (rest : Bool) (cmp : Ordering) : Bool :=
  match rm with
  | .rne => match cmp with | .lt => false | .gt => true | .eq => n % 2 == 1
  | .rtz => false
  | .rdn => neg && rest
  | .rup => !neg && rest

/-- The magnitude `m * 2^e` (a little more where `sticky`) in units of `2^q`, rounded once. Where `sticky` is set the
caller gives `e < q`. -/
def roundMag (rm : RMode) (neg : Bool) (m : Nat) (e q : Int) (sticky : Bool) : Nat :=
  if q ≤ e then
    let n := m * 2 ^ (e - q).toNat
    if roundsUp rm neg n sticky .lt then n + 1 else n
  else
    let d := (q - e).toNat
    let n := m / 2 ^ d
    let r := m % 2 ^ d
    let h := 2 ^ (d - 1)
    let cmp : Ordering := if r < h then .lt else if r = h && !sticky then .eq else .gt
    if roundsUp rm neg n (r != 0 || sticky) cmp then n + 1 else n

/-- The result of an overflow (R51). -/
def overflowF (f : FFmt) (rm : RMode) (neg : Bool) : Nat :=
  match rm with
  | .rne => f.infinity neg
  | .rtz => f.maxFinite neg
  | .rdn => if neg then f.infinity neg else f.maxFinite neg
  | .rup => if neg then f.maxFinite neg else f.infinity neg

/-- Round `(-1)^neg * m * 2^e` (and a little more where `sticky`) once into a format. -/
def roundF (f : FFmt) (rm : RMode) (neg : Bool) (m : Nat) (e : Int) (sticky : Bool := false) : Nat :=
  if m = 0 && !sticky then f.zero neg
  else
    let emin : Int := 1 - (f.bias : Int)
    let top : Int := e + (Nat.log2 m : Int)
    let q : Int := max top emin - (f.fbits : Int)
    let n := roundMag rm neg m e q sticky
    let carried := n ≥ 2 ^ (f.fbits + 1)
    let q' : Int := if carried then q + 1 else q
    let n' := if carried then n / 2 else n
    if n' < 2 ^ f.fbits then b01 neg * 2 ^ (f.width - 1) + n'
    else
      let be : Int := q' + (f.fbits : Int) + (f.bias : Int)
      if be ≥ (f.emax : Int) then overflowF f rm neg
      else b01 neg * 2 ^ (f.width - 1) + be.toNat * 2 ^ f.fbits + (n' - 2 ^ f.fbits)

/-- Round an exact value into a format; NaNs become the canonical NaN (R40). -/
def encodeF (f : FFmt) (rm : RMode) : Val → Nat
  | .nan => f.canonNaN
  | .inf neg => f.infinity neg
  | .fin neg m e => roundF f rm neg m e

/-- Is a pattern a NaN or an infinity? -/
def nonFiniteF (f : FFmt) (w : Nat) : Bool := bits w f.fbits f.ebits == f.emax

/-- Is a pattern a nonzero subnormal? -/
def subnormalF (f : FFmt) (w : Nat) : Bool := bits w f.fbits f.ebits == 0 && bits w 0 f.fbits != 0

/-! ## Exact arithmetic on values -/

/-- A finite value as an integer count of `2^e`, for `e` at or below its own exponent. -/
def scaleTo (neg : Bool) (m : Nat) (e0 e : Int) : Int :=
  let a : Int := ((m * 2 ^ (e0 - e).toNat : Nat) : Int)
  if neg then -a else a

/-- `a + b`, exact; the sign of an exact zero sum by R146. -/
def Val.add (rm : RMode) : Val → Val → Val
  | .nan, _ => .nan
  | _, .nan => .nan
  | .inf a, .inf b => if a = b then .inf a else .nan
  | .inf a, .fin .. => .inf a
  | .fin .., .inf b => .inf b
  | .fin na ma ea, .fin nb mb eb =>
    let e := min ea eb
    let t := scaleTo na ma ea e + scaleTo nb mb eb e
    if t = 0 then
      (if na = nb then .fin na 0 0 else .fin (decide (rm = .rdn)) 0 0)
    else .fin (decide (t < 0)) t.natAbs e

def Val.neg : Val → Val
  | .nan => .nan
  | .inf a => .inf (!a)
  | .fin a m e => .fin (!a) m e

def Val.abs : Val → Val
  | .nan => .nan
  | .inf _ => .inf false
  | .fin _ m e => .fin false m e

/-- `a * b`, exact (R146). -/
def Val.mul : Val → Val → Val
  | .nan, _ => .nan
  | _, .nan => .nan
  | .inf a, .inf b => .inf (a != b)
  | .inf a, .fin b m _ => if m = 0 then .nan else .inf (a != b)
  | .fin a m _, .inf b => if m = 0 then .nan else .inf (a != b)
  | .fin a ma ea, .fin b mb eb => .fin (a != b) (ma * mb) (ea + eb)

/-- The order of values without NaNs, -0 below +0 (R146, R152). -/
def Val.cmp : Val → Val → Ordering
  | .nan, _ => .eq
  | _, .nan => .eq
  | .inf a, .inf b => if a = b then .eq else if a then .lt else .gt
  | .inf a, .fin .. => if a then .lt else .gt
  | .fin .., .inf b => if b then .gt else .lt
  | .fin na ma ea, .fin nb mb eb =>
    let e := min ea eb
    let x := scaleTo na ma ea e
    let y := scaleTo nb mb eb e
    if x < y then .lt else if y < x then .gt
    else if ma = 0 && na != nb then (if na then .lt else .gt) else .eq

/-! ## Division, root, exponential and logarithm, correctly rounded (R146) -/

/-- Structural integer square root: the largest `r < 2^k * (r0 / 2^k + 1)` built from `r0` with `r*r ≤ n`. -/
def isqrtFrom (n : Nat) : Nat → Nat → Nat
  | 0, r => r
  | k + 1, r => if (r + 2 ^ k) * (r + 2 ^ k) ≤ n then isqrtFrom n k (r + 2 ^ k) else isqrtFrom n k r

/-- The floor of a square root. -/
def isqrt (n : Nat) : Nat := isqrtFrom n (Nat.log2 n / 2 + 1) 0

/-- `a / b` in a format. -/
def divF (f : FFmt) (rm : RMode) : Val → Val → Nat
  | .nan, _ => f.canonNaN
  | _, .nan => f.canonNaN
  | .inf _, .inf _ => f.canonNaN
  | .inf a, .fin b _ _ => f.infinity (a != b)
  | .fin a _ _, .inf b => f.zero (a != b)
  | .fin a ma ea, .fin b mb eb =>
    if mb = 0 then (if ma = 0 then f.canonNaN else f.infinity (a != b))
    else if ma = 0 then f.zero (a != b)
    else
      let n := ma * 2 ^ 140
      roundF f rm (a != b) (n / mb) (ea - eb - 140) (n % mb != 0)

/-- The square root in a format. -/
def sqrtF (f : FFmt) (rm : RMode) : Val → Nat
  | .nan => f.canonNaN
  | .inf false => f.infinity false
  | .inf true => f.canonNaN
  | .fin neg m e =>
    if m = 0 then f.zero neg
    else if neg then f.canonNaN
    else
      let sh : Nat := if e % 2 = 0 then 160 else 161
      let n := m * 2 ^ sh
      let r := isqrt n
      roundF f rm false r ((e - (sh : Int)) / 2) (r * r != n)

/-- Fraction bits kept by the exponential and the logarithm. -/
def fixBits : Nat := 512

/-- `2^(2^-1), 2^(2^-2), …` in fixed point, multiplied together where the fraction `frac / 2^len` has the bit. -/
def exp2Bits (frac : Nat) : Nat → Nat → Nat → Nat
  | 0, _, acc => acc
  | k + 1, root, acc =>
    let root' := isqrt (root * 2 ^ fixBits)
    exp2Bits frac k root' (if bit frac k then acc * root' / 2 ^ fixBits else acc)

/-- `2^a` in a format: the integer part is the exponent; the fraction's power is found with 512 fraction bits. -/
def exp2F (f : FFmt) (rm : RMode) : Val → Nat
  | .nan => f.canonNaN
  | .inf false => f.infinity false
  | .inf true => f.zero false
  | .fin neg m e =>
    if m = 0 then roundF f rm false 1 0
    else if e + (Nat.log2 m : Int) ≥ 12 then
      (if neg then roundF f rm false 1 (-5000) else overflowF f rm false)
    else
      let len := (-e).toNat
      let v : Int := if neg then -((m * 2 ^ e.toNat : Nat) : Int) else ((m * 2 ^ e.toNat : Nat) : Int)
      let n : Int := v / ((2 ^ len : Nat) : Int)
      let frac : Nat := (v % ((2 ^ len : Nat) : Int)).toNat
      if frac = 0 then roundF f rm false 1 n
      else roundF f rm false (exp2Bits frac len (2 * 2 ^ fixBits) (2 ^ fixBits)) (n - (fixBits : Int)) true

/-- Bits of `log2 x` for a fixed-point `x` in [1, 2): square, and take a bit where the square reaches 2. -/
def log2Bits : Nat → Nat → Nat → Nat
  | 0, _, acc => acc
  | k + 1, x, acc =>
    let y := x * x / 2 ^ fixBits
    if y ≥ 2 * 2 ^ fixBits then log2Bits k (y / 2) (2 * acc + 1) else log2Bits k y (2 * acc)

/-- Fraction bits of the logarithm found. -/
def logBits : Nat := 200

/-- `log2 a` in a format. -/
def log2F (f : FFmt) (rm : RMode) : Val → Nat
  | .nan => f.canonNaN
  | .inf false => f.infinity false
  | .inf true => f.canonNaN
  | .fin neg m e =>
    if m = 0 then f.infinity true
    else if neg then f.canonNaN
    else
      let k := Nat.log2 m
      let top : Int := e + (k : Int)
      if m = 2 ^ k then encodeF f rm (valOfInt top)
      else
        let t : Int := top * ((2 ^ logBits : Nat) : Int) + (log2Bits logBits (m * 2 ^ (fixBits - k)) 0 : Nat)
        if t ≥ 0 then roundF f rm false t.natAbs (-(logBits : Int)) true
        else roundF f rm true (t.natAbs - 1) (-(logBits : Int)) true

/-! ## Integers -/

/-- Round an exact finite value to an integer. -/
def roundToInt (rm : RMode) (neg : Bool) (m : Nat) (e : Int) : Int :=
  let n := roundMag rm neg m e 0 false
  if neg then -(n : Int) else (n : Int)

/-! ## Conversions (R48 to R52, R65) -/

/-- One converted element: the code, its flags, and the magnitude that goes to the scouts (none where not finite). -/
structure Conv where
  code : Nat
  nf : Bool
  rng : Bool
  mag : Option Nat
  deriving DecidableEq, Repr

/-- `|RNE_FP32(r)|` where it is finite (R61). -/
def scoutMag : Val → Option Nat
  | .fin _ m e => let w := roundF fp32 .rne false m e; if nonFiniteF fp32 w then none else some w
  | _ => none

/-- The value of a source pattern, a subnormal read as zero in DN-16 mode (R65). -/
def decodeSrc (dn16 : Bool) (f : FFmt) (w : Nat) : Val :=
  if dn16 && subnormalF f w then .fin (bit w (f.width - 1)) 0 0 else decodeF f w

/-- `r × scale`; a NaN or infinite scale gives NaN (R48). -/
def scaleBy (r s : Val) : Val := if s.isFinite then r.mul s else .nan

/-- `r` of an integer source: +0 for 0, whatever the signs of the finite scales (R48). -/
def scaleInt (q : Int) (scales : List Val) : Val :=
  if scales.all Val.isFinite then
    (if q = 0 then .fin false 0 0 else scales.foldl Val.mul (valOfInt q))
  else .nan

/-- Into an integer range `[lo, hi]`, saturating (R50); `r` is what the scout sees. DESIGN CHOICE (log entry 39): where a multiplier Q
is NaN or infinite R48 makes the converted value NaN, and the scout still sees the `r` before Q, finite or not (R61, 06 R160). -/
def convInt (rm : RMode) (lo hi : Int) (w : Nat) (r v : Val) : Conv :=
  match v with
  | .nan => ⟨0, true, false, scoutMag r⟩
  | .inf neg => ⟨wrapInt w (if neg then lo else hi), true, false, scoutMag r⟩
  | .fin neg m e =>
    let n := roundToInt rm neg m e
    if n < lo then ⟨wrapInt w lo, false, true, scoutMag r⟩
    else if n > hi then ⟨wrapInt w hi, false, true, scoutMag r⟩
    else ⟨wrapInt w n, false, false, scoutMag r⟩

/-- Into a floating-point format (R51); in DN-16 mode a subnormal result becomes a zero of the sign of `r` (R65). -/
def convFloat (dn16 : Bool) (rm : RMode) (f : FFmt) (v : Val) : Conv :=
  let w := encodeF f rm v
  let w' := if dn16 && subnormalF f w then f.zero (bit w (f.width - 1)) else w
  ⟨w', nonFiniteF f w', false, scoutMag v⟩

/-- The range of conversions into INT8 (R37, R65). -/
def int8Lo (dn16 : Bool) : Int := if dn16 then -128 else -127
/-- The range of conversions into INT4 (R37, R65). -/
def int4Lo (dn16 : Bool) : Int := if dn16 then -8 else -7

/-- `SCALE_FROM(m, qmax)`, on FP32 patterns (R44). -/
def scaleFrom (m : Nat) (qmax : Nat) : Nat × Nat :=
  let v := decodeF fp32 m
  match v with
  | .fin _ 0 _ => (0x3F800000, 0x3F800000)
  | .fin _ _ _ => (divF fp32 .rne v (valOfInt qmax), divF fp32 .rne (valOfInt qmax) v)
  | _ => (0x3F800000, 0x3F800000)

/-- Keep the larger 31-bit magnitude (R61). -/
def scoutMax (cur : Nat) : Option Nat → Nat
  | none => cur
  | some m => if m > cur then m else cur

end Sys2Proof.Machine
end

