-- ==== Sys2Proof/Config.lean ====
section
/-!
DEFINITION. Config.lean: what an implementation fixes, and the free values: constants without a body, so that a claim
about one holds for every value of it.
-/

namespace Sys2Proof

/-- Design-time options of a macro (00 R1 to R3). -/
structure Options where
  lanes64 : Bool
  memPorts : Nat
  linkPorts : Nat
  hostCores : Nat
  deriving DecidableEq, Repr

/-- DN-64/M, every option at its maximum. -/
def Options.dn64m : Options := ⟨true, 20, 8, 8⟩

/-- FREE VALUE. A byte of a Tile Store that no write has reached since warm reset number `gen` (18 R477: undefined);
`slot` and `addr` say which byte. Log entry 2. -/
opaque Config.freeTileByte : Nat → Nat → Nat → Byte

/-- FREE VALUE. A byte of a sector pool after warm reset number `gen` (18 R477). Log entry 2. -/
opaque Config.freePoolByte : Nat → Nat → Nat → Byte

/-- FREE VALUE. Byte `i` of the body of wear ledger record number `seq`, which the spec does not lay out (15 R408). Log
entry 2. -/
opaque Config.freeLedgerByte : Nat → Nat → Byte

/-- FREE VALUE. Does an image whose FILIC_LINK body is `b` open link `l` to partner accesses? The image opens links (11 R313),
and 16 R416 gives no field that does. Log entry 2. -/
opaque Config.linkOpen : List Byte → Nat → Bool

/-- FREE VALUE. The `n`-th value the spec leaves open, for the uses that log entry 2 lists. -/
opaque Config.freeWord : Nat → Word

end Sys2Proof
end

