-- ==== Sys2Proof/Machine/Regs.lean ====
section
/-!
DEFINITION. Machine/Regs.lean: the Device Register Space (00 R5 to R10, 01 R26): the offset of every register of the
spec's register maps, the place of every field, and the table of each register's fields with access code and reset
value. The tables follow the register maps of the rule files row by row; a field reset to NV, IMG or PIN starts at 0 (R7).
-/

namespace Sys2Proof.Machine

/-- Access codes (R8). -/
inductive Access where
  | rw | ro | w1c | w1s | rc | wo | rsv
  deriving DecidableEq, Repr

/-- A field's place: its lowest bit and its length. -/
structure Fld where
  lo : Nat
  len : Nat
  deriving DecidableEq, Repr

/-- One row of a register map. -/
structure RegField where
  lo : Nat
  len : Nat
  acc : Access
  reset : Nat
  deriving DecidableEq, Repr

/-- A register, or a run of `count` registers `stride` bytes apart, and its map. -/
structure RegDef where
  base : Nat
  count : Nat
  stride : Nat
  fields : List RegField
  deriving DecidableEq, Repr

/-- The window of physical slot `k % 9` of sector `k / 9` (R26); `k` is also the polder number (R16). -/
def slotBase (k : Nat) : Nat := 0x1000000 + 0x200000 * (k / 9) + 0x20000 + 0x20000 * (k % 9)
/-- The window of memory port and NMU `p` (R26). -/
def portBase (p : Nat) : Nat := 0x200000 + 0x8000 * p
/-- The window of Filic link port `l` (R26). -/
def linkBase (l : Nat) : Nat := 0x300000 + 0x20000 * l

namespace Reg

/-- NUM_STAT (R58). -/
def NUM_STAT (k : Nat) : Nat := slotBase k + 0x1000
/-- SCOUT0 (R60). -/
def SCOUT0 (k : Nat) : Nat := slotBase k + 0x1008
/-- SCOUT1 (R60). -/
def SCOUT1 (k : Nat) : Nat := slotBase k + 0x1010
/-- ARRAY_STAT (R94). -/
def ARRAY_STAT (k : Nat) : Nat := slotBase k + 0x1040
/-- ARRAY_UPD (R95). -/
def ARRAY_UPD (k : Nat) : Nat := slotBase k + 0x1048
/-- ARRAY_STALL (R95). -/
def ARRAY_STALL (k : Nat) : Nat := slotBase k + 0x1050
/-- TILE_CTL (R135). -/
def TILE_CTL (k : Nat) : Nat := slotBase k + 0x1080
/-- TILE_SAVE (R135). -/
def TILE_SAVE (k : Nat) : Nat := slotBase k + 0x1088
/-- TILE_STAT (R135). -/
def TILE_STAT (k : Nat) : Nat := slotBase k + 0x1090
/-- OF_INUSE (R135). -/
def OF_INUSE (k : Nat) : Nat := slotBase k + 0x1098
/-- OPC_HIT (R135). -/
def OPC_HIT (k : Nat) : Nat := slotBase k + 0x10a0
/-- VE_STAT (R166). -/
def VE_STAT (k : Nat) : Nat := slotBase k + 0x10c0
/-- VE_SUM (R166). -/
def VE_SUM (k : Nat) : Nat := slotBase k + 0x10c8
/-- VR_SAVE (R166). -/
def VR_SAVE (k : Nat) : Nat := slotBase k + 0x10d0
/-- VE_ELEM (R498). -/
def VE_ELEM (k : Nat) : Nat := slotBase k + 0x10d8
/-- CC_STAT (R195). -/
def CC_STAT (k : Nat) : Nat := slotBase k + 0x1100
/-- CC_CTL (R195). -/
def CC_CTL (k : Nat) : Nat := slotBase k + 0x1108
/-- CC_TIMECMP (R195). -/
def CC_TIMECMP (k : Nat) : Nat := slotBase k + 0x1110
/-- TRAP_INFO (R195). -/
def TRAP_INFO (k : Nat) : Nat := slotBase k + 0x1118
/-- XQ_STAT (R195). -/
def XQ_STAT (k : Nat) : Nat := slotBase k + 0x1120
/-- FQ_STAT (R195). -/
def FQ_STAT (k : Nat) : Nat := slotBase k + 0x1128
/-- XQ_HEAD_HI (R195). -/
def XQ_HEAD_HI (k : Nat) : Nat := slotBase k + 0x1130
/-- XQ_HEAD_LO (R195). -/
def XQ_HEAD_LO (k : Nat) : Nat := slotBase k + 0x1138
/-- FQ_HEAD_HI (R195). -/
def FQ_HEAD_HI (k : Nat) : Nat := slotBase k + 0x1140
/-- FQ_HEAD_LO (R195). -/
def FQ_HEAD_LO (k : Nat) : Nat := slotBase k + 0x1148
/-- WPT_STAT (R195). -/
def WPT_STAT (k : Nat) : Nat := slotBase k + 0x1150
/-- KL_REC (R195). -/
def KL_REC (k n : Nat) : Nat := slotBase k + 0x1180 + 0x8 * n
/-- KL_CTL (R195). -/
def KL_CTL (k : Nat) : Nat := slotBase k + 0x11c0
/-- KL_STAT (R195). -/
def KL_STAT (k : Nat) : Nat := slotBase k + 0x11c8
/-- KL_DONE (R195). -/
def KL_DONE (k : Nat) : Nat := slotBase k + 0x11d0
/-- FE_STAT (R232). -/
def FE_STAT (k : Nat) : Nat := slotBase k + 0x1200
/-- FE_PERF (R232). -/
def FE_PERF (k : Nat) : Nat := slotBase k + 0x1208
/-- FE_XFER (R232). -/
def FE_XFER (k : Nat) : Nat := slotBase k + 0x1210
/-- FE_MERGED (R232). -/
def FE_MERGED (k : Nat) : Nat := slotBase k + 0x1218
/-- STRM_STAT (R232). -/
def STRM_STAT (k t : Nat) : Nat := slotBase k + 0x2000 + 0x40 * t
/-- STRM_CTL (R232). -/
def STRM_CTL (k t : Nat) : Nat := slotBase k + 0x2008 + 0x40 * t
/-- STRM_SRC (R232). -/
def STRM_SRC (k t : Nat) : Nat := slotBase k + 0x2010 + 0x40 * t
/-- STRM_DST (R232). -/
def STRM_DST (k t : Nat) : Nat := slotBase k + 0x2018 + 0x40 * t
/-- STRM_LC12 (R232). -/
def STRM_LC12 (k t : Nat) : Nat := slotBase k + 0x2020 + 0x40 * t
/-- STRM_LC34 (R232). -/
def STRM_LC34 (k t : Nat) : Nat := slotBase k + 0x2028 + 0x40 * t
/-- STRM_LC56 (R232). -/
def STRM_LC56 (k t : Nat) : Nat := slotBase k + 0x2030 + 0x40 * t
/-- STRM_CV (R232). -/
def STRM_CV (k t : Nat) : Nat := slotBase k + 0x2038 + 0x40 * t
/-- MU_STAT (R261). -/
def MU_STAT (k : Nat) : Nat := slotBase k + 0x3000
/-- SB_HEAD_M (R261). -/
def SB_HEAD_M (k : Nat) : Nat := slotBase k + 0x3008
/-- SB_HEAD_H (R261). -/
def SB_HEAD_H (k : Nat) : Nat := slotBase k + 0x3010
/-- MU_RX (R261). -/
def MU_RX (k : Nat) : Nat := slotBase k + 0x3018
/-- CH_CFG (R261). -/
def CH_CFG (k c : Nat) : Nat := slotBase k + 0x3100 + 0x40 * c
/-- CH_RPA (R261). -/
def CH_RPA (k c : Nat) : Nat := slotBase k + 0x3108 + 0x40 * c
/-- CH_PTR (R261). -/
def CH_PTR (k c : Nat) : Nat := slotBase k + 0x3110 + 0x40 * c
/-- CH_STAT (R261). -/
def CH_STAT (k c : Nat) : Nat := slotBase k + 0x3118 + 0x40 * c
/-- CH_HEAD (R261). -/
def CH_HEAD (k c : Nat) : Nat := slotBase k + 0x3120 + 0x40 * c
/-- CH_LAST (R261). -/
def CH_LAST (k c : Nat) : Nat := slotBase k + 0x3128 + 0x40 * c
/-- TALLY (R279). -/
def TALLY (k t : Nat) : Nat := slotBase k + 0x3800 + 0x8 * t
/-- SCK_CTL (R283). -/
def SCK_CTL (k : Nat) : Nat := slotBase k + 0x3880
/-- SCK_STAT (R283). -/
def SCK_STAT (k : Nat) : Nat := slotBase k + 0x3888
/-- CN_CFG (R261). -/
def CN_CFG (c : Nat) : Nat := 0x110000 + 0x100 * c
/-- CN_SESS (R261). -/
def CN_SESS (c : Nat) : Nat := 0x110008 + 0x100 * c
/-- CN_DEST (R261). -/
def CN_DEST (c : Nat) : Nat := 0x110010 + 0x100 * c
/-- CN_CTL (R261). -/
def CN_CTL (c : Nat) : Nat := 0x110018 + 0x100 * c
/-- CN_STAT (R261). -/
def CN_STAT (c : Nat) : Nat := 0x110020 + 0x100 * c
/-- CN_COUNT (R261). -/
def CN_COUNT (c : Nat) : Nat := 0x110028 + 0x100 * c
/-- CN_HEAD (R261). -/
def CN_HEAD (c : Nat) : Nat := 0x110030 + 0x100 * c
/-- MG_CORES (R261). -/
def MG_CORES (g : Nat) : Nat := 0x120000 + 0x20 * g
/-- MG_CFG (R261). -/
def MG_CFG (g : Nat) : Nat := 0x120008 + 0x20 * g
/-- MG_LAND (R261). -/
def MG_LAND (g : Nat) : Nat := 0x120010 + 0x20 * g
/-- RD_CFG (R370). -/
def RD_CFG (e : Nat) : Nat := 0x130000 + 0x20 * e
/-- RD_BASE (R370). -/
def RD_BASE (e : Nat) : Nat := 0x130008 + 0x20 * e
/-- RD_LEN (R370). -/
def RD_LEN (e : Nat) : Nat := 0x130010 + 0x20 * e
/-- RD_STAT (R370). -/
def RD_STAT (e : Nat) : Nat := 0x130018 + 0x20 * e
/-- MP_STAT (R314). -/
def MP_STAT (p : Nat) : Nat := portBase p + 0x0
/-- MP_CTL (R314). -/
def MP_CTL (p : Nat) : Nat := portBase p + 0x8
/-- MP_LANES (R314). -/
def MP_LANES (p : Nat) : Nat := portBase p + 0x10
/-- MP_ERR (R314). -/
def MP_ERR (p : Nat) : Nat := portBase p + 0x18
/-- MP_RD (R314). -/
def MP_RD (p : Nat) : Nat := portBase p + 0x20
/-- MP_WR (R314). -/
def MP_WR (p : Nat) : Nat := portBase p + 0x28
/-- MR_BASE (R314). -/
def MR_BASE (p r : Nat) : Nat := portBase p + 0x100 + 0x10 * r
/-- MR_MAP (R314). -/
def MR_MAP (p r : Nat) : Nat := portBase p + 0x108 + 0x10 * r
/-- NMU_STAT (R343). -/
def NMU_STAT (p : Nat) : Nat := portBase p + 0x4000
/-- NMU_CTL (R343). -/
def NMU_CTL (p : Nat) : Nat := portBase p + 0x4008
/-- NMU_ARRIVE (R343). -/
def NMU_ARRIVE (p : Nat) : Nat := portBase p + 0x4010
/-- NMU_SCOUT (R343). -/
def NMU_SCOUT (p : Nat) : Nat := portBase p + 0x4018
/-- NMU_ERR (R343). -/
def NMU_ERR (p : Nat) : Nat := portBase p + 0x4020
/-- NMU_MAC (R343). -/
def NMU_MAC (p : Nat) : Nat := portBase p + 0x4028
/-- NMU_RDB (R343). -/
def NMU_RDB (p : Nat) : Nat := portBase p + 0x4030
/-- NMU_HEAD_HI (R343). -/
def NMU_HEAD_HI (p : Nat) : Nat := portBase p + 0x4038
/-- NMU_HEAD_LO (R343). -/
def NMU_HEAD_LO (p : Nat) : Nat := portBase p + 0x4040
/-- NMU_TAG (R343). -/
def NMU_TAG (p : Nat) : Nat := portBase p + 0x4048
/-- FL_STAT (R369). -/
def FL_STAT (l : Nat) : Nat := linkBase l + 0x0
/-- FL_CTL (R369). -/
def FL_CTL (l : Nat) : Nat := linkBase l + 0x8
/-- FL_LANES (R369). -/
def FL_LANES (l : Nat) : Nat := linkBase l + 0x10
/-- FL_ERR (R369). -/
def FL_ERR (l : Nat) : Nat := linkBase l + 0x18
/-- FL_TXS (R369). -/
def FL_TXS (l : Nat) : Nat := linkBase l + 0x20
/-- FL_RXS (R369). -/
def FL_RXS (l : Nat) : Nat := linkBase l + 0x28
/-- FL_CRED (R369). -/
def FL_CRED (l : Nat) : Nat := linkBase l + 0x30
/-- XL_PTBASE (R315). -/
def XL_PTBASE (f : Nat) : Nat := 0x6000 + 0x8 * f
/-- XL_INV (R315). -/
def XL_INV : Nat := 0x6080
/-- XF_RING (R315). -/
def XF_RING : Nat := 0x6088
/-- XF_PTR (R315). -/
def XF_PTR : Nat := 0x6090
/-- RK_CTL (R393). -/
def RK_CTL : Nat := 0x5000
/-- RK_CMD (R393). -/
def RK_CMD : Nat := 0x5008
/-- RK_RESULT (R393). -/
def RK_RESULT : Nat := 0x5010
/-- RK_STAT (R393). -/
def RK_STAT : Nat := 0x5018
/-- RK_DESC (R393). -/
def RK_DESC (n : Nat) : Nat := 0x5100 + 0x8 * n
/-- PT_ID (R393). -/
def PT_ID (q : Nat) : Nat := 0x5400 + 0x20 * q
/-- PT_TIME (R393). -/
def PT_TIME (q : Nat) : Nat := 0x5408 + 0x20 * q
/-- PT_START (R393). -/
def PT_START (q : Nat) : Nat := 0x5410 + 0x20 * q
/-- PACE_P (R393). -/
def PACE_P (n : Nat) : Nat := 0x5800 + 0x8 * n
/-- CP_CFG (R412). -/
def CP_CFG : Nat := 0x4000
/-- CP_STAT (R412). -/
def CP_STAT : Nat := 0x4008
/-- CP_FLEET (R412). -/
def CP_FLEET (f : Nat) : Nat := 0x4100 + 0x8 * f
/-- CP_P (R412). -/
def CP_P (n : Nat) : Nat := 0x4800 + 0x8 * n
/-- NV_STAT (R412). -/
def NV_STAT : Nat := 0x4400
/-- BERM_LAST (R412). -/
def BERM_LAST : Nat := 0x4408
/-- ZN_SRC (R432). -/
def ZN_SRC : Nat := 0x3000
/-- ZN_ADDR (R432). -/
def ZN_ADDR : Nat := 0x3008
/-- ZN_CMD (R432). -/
def ZN_CMD : Nat := 0x3010
/-- ZN_STAT (R432). -/
def ZN_STAT : Nat := 0x3018
/-- ZN_EPOCH (R432). -/
def ZN_EPOCH : Nat := 0x3020
/-- ZN_PROG (R432). -/
def ZN_PROG : Nat := 0x3028
/-- ZN_COMPAT (R432). -/
def ZN_COMPAT : Nat := 0x3030
/-- ZN_PEP (R432). -/
def ZN_PEP (n : Nat) : Nat := 0x3400 + 0x8 * n
/-- RP_CTL (R459). -/
def RP_CTL : Nat := 0x7000
/-- RP_STAT (R459). -/
def RP_STAT : Nat := 0x7008
/-- DK_P (R459). -/
def DK_P (n : Nat) : Nat := 0x7400 + 0x8 * n
/-- RAS_P (R459). -/
def RAS_P (n : Nat) : Nat := 0x7800 + 0x8 * n
/-- SEM_V (R459). -/
def SEM_V (n : Nat) : Nat := 0x9000 + 0x8 * n
/-- SEM_CMD (R459). -/
def SEM_CMD (a : Nat) : Nat := 0x9800 + 0x10 * a
/-- SEM_RES (R459). -/
def SEM_RES (a : Nat) : Nat := 0x9808 + 0x10 * a
/-- LB_NEXT (R459). -/
def LB_NEXT : Nat := 0xa000
/-- LB_SEL (R459). -/
def LB_SEL : Nat := 0xa008
/-- LB_STAT (R459). -/
def LB_STAT : Nat := 0xa010
/-- LB_REC (R459). -/
def LB_REC (n : Nat) : Nat := 0xa040 + 0x8 * n
/-- NV_OFF (R459). -/
def NV_OFF : Nat := 0xa100
/-- NV_DATA (R459). -/
def NV_DATA : Nat := 0xa108
/-- ID0 (R485). -/
def ID0 : Nat := 0x0
/-- ID1 (R485). -/
def ID1 : Nat := 0x8
/-- ID2 (R485). -/
def ID2 : Nat := 0x10
/-- RST_CTL (R485). -/
def RST_CTL : Nat := 0x100
/-- RST_STAT (R485). -/
def RST_STAT : Nat := 0x108
/-- BT_HADDR (R485). -/
def BT_HADDR : Nat := 0x110
/-- BT_CTL (R485). -/
def BT_CTL : Nat := 0x118
/-- AL_STAT (R485). -/
def AL_STAT : Nat := 0x1000
/-- AL_ROUTE (R485). -/
def AL_ROUTE : Nat := 0x1008
/-- AL_HA_ADDR (R485). -/
def AL_HA_ADDR : Nat := 0x1010
/-- KD_PEND (R485). -/
def KD_PEND : Nat := 0x1018
/-- HA_RIGHTS (R485). -/
def HA_RIGHTS (f : Nat) : Nat := 0x2000 + 0x8 * f
/-- OTP_KEY (R485). -/
def OTP_KEY (k j : Nat) : Nat := 0x2100 + 0x40 * k + 8 * j
/-- OTP_STAGE (R485). -/
def OTP_STAGE (j : Nat) : Nat := 0x2200 + 0x8 * j
/-- OTP_STAT (R485). -/
def OTP_STAT : Nat := 0x2240
/-- OTP_CMD (R485). -/
def OTP_CMD : Nat := 0x2248
/-- PMB_DEV (R481). -/
def PMB_DEV (n : Nat) : Nat := 0x2300 + 0x8 * n
/-- HA_STAT (R485). -/
def HA_STAT : Nat := 0x400000
/-- HA_ERR (R485). -/
def HA_ERR : Nat := 0x400008
/-- HA_CFG (R485). -/
def HA_CFG : Nat := 0x400010
/-- HC_CTL (R485). -/
def HC_CTL : Nat := 0x400100
/-- HC_ENTRY (R485). -/
def HC_ENTRY : Nat := 0x400108
/-- HC_FWADDR (R485). -/
def HC_FWADDR : Nat := 0x400110
/-- HC_FWCMD (R485). -/
def HC_FWCMD : Nat := 0x400118
/-- HC_IP (R471). -/
def HC_IP (a : Nat) : Nat := 0x400200 + 0x10 * a
/-- HC_IE (R471). -/
def HC_IE (a : Nat) : Nat := 0x400208 + 0x10 * a
/-- HCH_CFG (R469). -/
def HCH_CFG (c : Nat) : Nat := 0x401000 + 0x40 * c
/-- HCH_RPA (R469). -/
def HCH_RPA (c : Nat) : Nat := 0x401008 + 0x40 * c
/-- HCH_PTR (R261). -/
def HCH_PTR (c : Nat) : Nat := 0x401010 + 0x40 * c
/-- HCH_STAT (R261). -/
def HCH_STAT (c : Nat) : Nat := 0x401018 + 0x40 * c
/-- HCH_HEAD (R261). -/
def HCH_HEAD (c : Nat) : Nat := 0x401020 + 0x40 * c
/-- HCH_LAST (R261). -/
def HCH_LAST (c : Nat) : Nat := 0x401028 + 0x40 * c
/-- IO_STAT (R497). -/
def IO_STAT : Nat := 0xb000
/-- HCS_HI (R470). -/
def HCS_HI (a : Nat) : Nat := 0x402000 + 0x80 * a
/-- HCS_LO (R470). -/
def HCS_LO (a : Nat) : Nat := 0x402008 + 0x80 * a
/-- HCS_PAY0 (R470). -/
def HCS_PAY0 (a : Nat) : Nat := 0x402010 + 0x80 * a
/-- HCS_PAY1 (R470). -/
def HCS_PAY1 (a : Nat) : Nat := 0x402018 + 0x80 * a
/-- HCS_PAY2 (R470). -/
def HCS_PAY2 (a : Nat) : Nat := 0x402020 + 0x80 * a
/-- HCS_PAY3 (R470). -/
def HCS_PAY3 (a : Nat) : Nat := 0x402028 + 0x80 * a
/-- HCS_SRC (R470). -/
def HCS_SRC (a : Nat) : Nat := 0x402030 + 0x80 * a
/-- HCS_GO (R470). -/
def HCS_GO (a : Nat) : Nat := 0x402038 + 0x80 * a

end Reg

namespace F

abbrev NUM_STAT_NF : Fld := ⟨63, 1⟩
abbrev NUM_STAT_WRAP : Fld := ⟨62, 1⟩
abbrev NUM_STAT_RNG : Fld := ⟨61, 1⟩
abbrev NUM_STAT_NF_SRC : Fld := ⟨57, 3⟩
abbrev NUM_STAT_WRAP_SRC : Fld := ⟨54, 3⟩
abbrev NUM_STAT_RNG_SRC : Fld := ⟨51, 3⟩
abbrev NUM_STAT_NF_POS : Fld := ⟨32, 16⟩
abbrev NUM_STAT_WRAP_POS : Fld := ⟨16, 16⟩
abbrev NUM_STAT_RNG_POS : Fld := ⟨0, 16⟩
abbrev SCOUT0_MAX : Fld := ⟨0, 31⟩
abbrev SCOUT1_MAX : Fld := ⟨0, 31⟩
abbrev ARRAY_STAT_UPD_OVF : Fld := ⟨63, 1⟩
abbrev ARRAY_STAT_STL_OVF : Fld := ⟨62, 1⟩
abbrev ARRAY_STAT_OVF_AE : Fld := ⟨61, 1⟩
abbrev ARRAY_STAT_INFLIGHT : Fld := ⟨32, 6⟩
abbrev ARRAY_STAT_RBUSY : Fld := ⟨16, 16⟩
abbrev ARRAY_STAT_DRN_BUSY : Fld := ⟨7, 1⟩
abbrev ARRAY_STAT_ASW_WAIT : Fld := ⟨6, 1⟩
abbrev ARRAY_STAT_ALAY_WAIT : Fld := ⟨5, 1⟩
abbrev ARRAY_STAT_ACTIVE : Fld := ⟨3, 1⟩
abbrev ARRAY_STAT_LAYOUT : Fld := ⟨0, 2⟩
abbrev ARRAY_UPD_COUNT : Fld := ⟨0, 64⟩
abbrev ARRAY_STALL_COUNT : Fld := ⟨0, 64⟩
abbrev TILE_CTL_FULL_SAVE : Fld := ⟨7, 1⟩
abbrev TILE_CTL_RESTORE : Fld := ⟨3, 1⟩
abbrev TILE_CTL_SAVE : Fld := ⟨2, 1⟩
abbrev TILE_CTL_HALT : Fld := ⟨0, 1⟩
abbrev TILE_SAVE_ADDR : Fld := ⟨0, 32⟩
abbrev TILE_STAT_OPC_OVF : Fld := ⟨63, 1⟩
abbrev TILE_STAT_OPC_AE : Fld := ⟨62, 1⟩
abbrev TILE_STAT_SR_STATUS : Fld := ⟨40, 8⟩
abbrev TILE_STAT_LDL_PEND : Fld := ⟨32, 8⟩
abbrev TILE_STAT_ACC_INUSE : Fld := ⟨8, 2⟩
abbrev TILE_STAT_FLAG_ERR : Fld := ⟨4, 1⟩
abbrev TILE_STAT_SR_STATE : Fld := ⟨2, 2⟩
abbrev TILE_STAT_HALTED : Fld := ⟨1, 1⟩
abbrev TILE_STAT_HALTING : Fld := ⟨0, 1⟩
abbrev OF_INUSE_FLAGS : Fld := ⟨0, 64⟩
abbrev OPC_HIT_COUNT : Fld := ⟨0, 64⟩
abbrev VE_STAT_ELEM_OVF : Fld := ⟨63, 1⟩
abbrev VE_STAT_ELEM_AE : Fld := ⟨62, 1⟩
abbrev VE_STAT_LAST_ERR : Fld := ⟨40, 8⟩
abbrev VE_STAT_LAST_OP : Fld := ⟨32, 8⟩
abbrev VE_STAT_REGMODE : Fld := ⟨7, 1⟩
abbrev VE_STAT_LANES64 : Fld := ⟨6, 1⟩
abbrev VE_STAT_VR_BUSY : Fld := ⟨1, 1⟩
abbrev VE_STAT_VS_BUSY : Fld := ⟨0, 1⟩
abbrev VE_SUM_ADDR : Fld := ⟨4, 19⟩
abbrev VR_SAVE_STATUS : Fld := ⟨56, 8⟩
abbrev VR_SAVE_STATE : Fld := ⟨48, 2⟩
abbrev VR_SAVE_RESTORE : Fld := ⟨33, 1⟩
abbrev VR_SAVE_SAVE : Fld := ⟨32, 1⟩
abbrev VR_SAVE_ADDR : Fld := ⟨0, 32⟩
abbrev VE_ELEM_COUNT : Fld := ⟨0, 64⟩
abbrev CC_STAT_HPEND : Fld := ⟨16, 16⟩
abbrev CC_STAT_HRUN : Fld := ⟨3, 1⟩
abbrev CC_STAT_WFI : Fld := ⟨2, 1⟩
abbrev CC_STAT_WAITQ : Fld := ⟨1, 1⟩
abbrev CC_STAT_ISTALL : Fld := ⟨0, 1⟩
abbrev CC_CTL_SWI : Fld := ⟨0, 1⟩
abbrev CC_TIMECMP_CMP : Fld := ⟨0, 64⟩
abbrev TRAP_INFO_VALID : Fld := ⟨63, 1⟩
abbrev TRAP_INFO_CTX : Fld := ⟨62, 1⟩
abbrev TRAP_INFO_INTR : Fld := ⟨61, 1⟩
abbrev TRAP_INFO_CAUSE : Fld := ⟨48, 8⟩
abbrev TRAP_INFO_EPC : Fld := ⟨0, 32⟩
abbrev XQ_STAT_STOP : Fld := ⟨63, 1⟩
abbrev XQ_STAT_STOP_STATUS : Fld := ⟨48, 8⟩
abbrev XQ_STAT_STOP_OP : Fld := ⟨40, 8⟩
abbrev XQ_STAT_SPILLED : Fld := ⟨16, 17⟩
abbrev XQ_STAT_HEAD_VALID : Fld := ⟨7, 1⟩
abbrev XQ_STAT_ONCHIP : Fld := ⟨0, 7⟩
abbrev FQ_STAT_STOP : Fld := ⟨63, 1⟩
abbrev FQ_STAT_STOP_STATUS : Fld := ⟨48, 8⟩
abbrev FQ_STAT_STOP_OP : Fld := ⟨40, 8⟩
abbrev FQ_STAT_SPILLED : Fld := ⟨16, 17⟩
abbrev FQ_STAT_HEAD_VALID : Fld := ⟨7, 1⟩
abbrev FQ_STAT_ONCHIP : Fld := ⟨0, 7⟩
abbrev XQ_HEAD_HI_WORD : Fld := ⟨0, 64⟩
abbrev XQ_HEAD_LO_WORD : Fld := ⟨0, 64⟩
abbrev FQ_HEAD_HI_WORD : Fld := ⟨0, 64⟩
abbrev FQ_HEAD_LO_WORD : Fld := ⟨0, 64⟩
abbrev WPT_STAT_FE_WAIT : Fld := ⟨63, 1⟩
abbrev WPT_STAT_ISSUED : Fld := ⟨32, 16⟩
abbrev WPT_STAT_PASSED : Fld := ⟨16, 16⟩
abbrev WPT_STAT_AWAITED : Fld := ⟨0, 16⟩
abbrev KL_REC_REC : Fld := ⟨0, 64⟩
abbrev KL_CTL_ABORT : Fld := ⟨1, 1⟩
abbrev KL_CTL_GO : Fld := ⟨0, 1⟩
abbrev KL_STAT_STATUS : Fld := ⟨56, 8⟩
abbrev KL_STAT_ABORT_RESULT : Fld := ⟨48, 8⟩
abbrev KL_STAT_STATE : Fld := ⟨32, 2⟩
abbrev KL_STAT_KID : Fld := ⟨0, 32⟩
abbrev KL_DONE_END_TIME : Fld := ⟨0, 64⟩
abbrev FE_STAT_BUSY : Fld := ⟨32, 32⟩
abbrev FE_STAT_RATE_SUM : Fld := ⟨25, 7⟩
abbrev FE_STAT_RSV_SUM : Fld := ⟨16, 9⟩
abbrev FE_STAT_OT_USED : Fld := ⟨0, 10⟩
abbrev FE_PERF_XFER_OVF : Fld := ⟨63, 1⟩
abbrev FE_PERF_MRG_OVF : Fld := ⟨62, 1⟩
abbrev FE_PERF_OVF_AE : Fld := ⟨61, 1⟩
abbrev FE_XFER_COUNT : Fld := ⟨0, 64⟩
abbrev FE_MERGED_COUNT : Fld := ⟨0, 64⟩
abbrev STRM_STAT_STATUS : Fld := ⟨56, 8⟩
abbrev STRM_STAT_STATE : Fld := ⟨53, 3⟩
abbrev STRM_STAT_MISS : Fld := ⟨52, 1⟩
abbrev STRM_STAT_PERSIST : Fld := ⟨51, 1⟩
abbrev STRM_STAT_BOUNDED : Fld := ⟨50, 1⟩
abbrev STRM_STAT_CONVOY : Fld := ⟨49, 1⟩
abbrev STRM_STAT_PC : Fld := ⟨44, 4⟩
abbrev STRM_STAT_DEPTH : Fld := ⟨41, 3⟩
abbrev STRM_STAT_OT : Fld := ⟨30, 10⟩
abbrev STRM_STAT_CV_ERR : Fld := ⟨29, 1⟩
abbrev STRM_CTL_CANCEL : Fld := ⟨2, 1⟩
abbrev STRM_CTL_RESUME : Fld := ⟨1, 1⟩
abbrev STRM_SRC_CURSOR : Fld := ⟨0, 64⟩
abbrev STRM_DST_CURSOR : Fld := ⟨0, 64⟩
abbrev STRM_LC12_CNT_HI : Fld := ⟨32, 32⟩
abbrev STRM_LC12_CNT_LO : Fld := ⟨0, 32⟩
abbrev STRM_LC34_CNT_HI : Fld := ⟨32, 32⟩
abbrev STRM_LC34_CNT_LO : Fld := ⟨0, 32⟩
abbrev STRM_LC56_CNT_HI : Fld := ⟨32, 32⟩
abbrev STRM_LC56_CNT_LO : Fld := ⟨0, 32⟩
abbrev STRM_CV_FREED : Fld := ⟨40, 20⟩
abbrev STRM_CV_CLIM : Fld := ⟨20, 20⟩
abbrev STRM_CV_NEXT_TILE : Fld := ⟨0, 20⟩
abbrev MU_STAT_FAIL : Fld := ⟨63, 1⟩
abbrev MU_STAT_RX_OVF : Fld := ⟨62, 1⟩
abbrev MU_STAT_RX_AE : Fld := ⟨61, 1⟩
abbrev MU_STAT_FAIL_STATUS : Fld := ⟨48, 8⟩
abbrev MU_STAT_FAIL_OP : Fld := ⟨40, 8⟩
abbrev MU_STAT_M_OCC : Fld := ⟨12, 4⟩
abbrev MU_STAT_H_OCC : Fld := ⟨8, 4⟩
abbrev MU_STAT_M_WAIT : Fld := ⟨7, 1⟩
abbrev SB_HEAD_M_WORD : Fld := ⟨0, 64⟩
abbrev SB_HEAD_H_WORD : Fld := ⟨0, 64⟩
abbrev MU_RX_COUNT : Fld := ⟨0, 64⟩
abbrev CH_CFG_EN : Fld := ⟨63, 1⟩
abbrev CH_CFG_KIND : Fld := ⟨62, 1⟩
abbrev CH_CFG_DISP : Fld := ⟨61, 1⟩
abbrev CH_CFG_RESET : Fld := ⟨60, 1⟩
abbrev CH_CFG_FLEET : Fld := ⟨56, 4⟩
abbrev CH_CFG_SIZE : Fld := ⟨52, 4⟩
abbrev CH_CFG_BASE : Fld := ⟨0, 32⟩
abbrev CH_RPA_RPADDR : Fld := ⟨0, 32⟩
abbrev CH_PTR_WP : Fld := ⟨32, 32⟩
abbrev CH_PTR_RP : Fld := ⟨0, 32⟩
abbrev CH_STAT_RP_ERR : Fld := ⟨63, 1⟩
abbrev CH_STAT_ORPHAN : Fld := ⟨62, 1⟩
abbrev CH_STAT_CFG_ERR : Fld := ⟨61, 1⟩
abbrev CH_STAT_REF_SAT : Fld := ⟨60, 1⟩
abbrev CH_STAT_PEND : Fld := ⟨59, 1⟩
abbrev CH_STAT_WAITERS : Fld := ⟨40, 8⟩
abbrev CH_STAT_RSVN : Fld := ⟨16, 16⟩
abbrev CH_STAT_REFUSALS : Fld := ⟨0, 16⟩
abbrev CH_HEAD_HDR : Fld := ⟨0, 64⟩
abbrev CH_LAST_HDR : Fld := ⟨0, 64⟩
abbrev TALLY_COUNT : Fld := ⟨0, 64⟩
abbrev SCK_CTL_EN : Fld := ⟨0, 1⟩
abbrev SCK_STAT_MIS_SAT : Fld := ⟨63, 1⟩
abbrev SCK_STAT_OUT_SAT : Fld := ⟨62, 1⟩
abbrev SCK_STAT_REL_SCOPE : Fld := ⟨54, 2⟩
abbrev SCK_STAT_ACQ_SCOPE : Fld := ⟨52, 2⟩
abbrev SCK_STAT_REL_SRC : Fld := ⟨46, 6⟩
abbrev SCK_STAT_LOC : Fld := ⟨45, 1⟩
abbrev SCK_STAT_TALLY : Fld := ⟨41, 4⟩
abbrev SCK_STAT_OUTSIDE : Fld := ⟨16, 16⟩
abbrev SCK_STAT_MISMATCH : Fld := ⟨0, 16⟩
abbrev CN_CFG_VALID : Fld := ⟨63, 1⟩
abbrev CN_CFG_FLEET : Fld := ⟨56, 4⟩
abbrev CN_SESS_AUTO : Fld := ⟨63, 1⟩
abbrev CN_SESS_ETYPE : Fld := ⟨62, 1⟩
abbrev CN_SESS_NCONTRIB : Fld := ⟨32, 16⟩
abbrev CN_SESS_LEN : Fld := ⟨0, 19⟩
abbrev CN_DEST_DKIND : Fld := ⟨62, 2⟩
abbrev CN_DEST_DID : Fld := ⟨56, 6⟩
abbrev CN_DEST_TALLY : Fld := ⟨52, 4⟩
abbrev CN_DEST_TALLY_EN : Fld := ⟨51, 1⟩
abbrev CN_DEST_ADDR : Fld := ⟨0, 32⟩
abbrev CN_CTL_CANCEL : Fld := ⟨1, 1⟩
abbrev CN_CTL_ARM : Fld := ⟨0, 1⟩
abbrev CN_STAT_STATE : Fld := ⟨61, 3⟩
abbrev CN_STAT_DISC_SAT : Fld := ⟨60, 1⟩
abbrev CN_STAT_INQ : Fld := ⟨48, 8⟩
abbrev CN_STAT_GEN : Fld := ⟨40, 8⟩
abbrev CN_STAT_STATUS : Fld := ⟨32, 8⟩
abbrev CN_STAT_DISCARDS : Fld := ⟨0, 16⟩
abbrev CN_COUNT_BYTES : Fld := ⟨0, 34⟩
abbrev CN_HEAD_SKIND : Fld := ⟨62, 2⟩
abbrev CN_HEAD_SID : Fld := ⟨56, 6⟩
abbrev CN_HEAD_GEN : Fld := ⟨48, 8⟩
abbrev CN_HEAD_OFF : Fld := ⟨30, 18⟩
abbrev CN_HEAD_LEN : Fld := ⟨21, 9⟩
abbrev MG_CORES_MEMBERS : Fld := ⟨0, 64⟩
abbrev MG_CFG_VALID : Fld := ⟨63, 1⟩
abbrev MG_CFG_FLEET : Fld := ⟨56, 4⟩
abbrev MG_CFG_CH : Fld := ⟨52, 4⟩
abbrev MG_CFG_NMUS : Fld := ⟨32, 20⟩
abbrev MG_LAND_TALLY : Fld := ⟨60, 4⟩
abbrev MG_LAND_TALLY_EN : Fld := ⟨59, 1⟩
abbrev MG_LAND_TS_BASE : Fld := ⟨32, 23⟩
abbrev MG_LAND_NMU_OFF : Fld := ⟨0, 22⟩
abbrev RD_CFG_VALID : Fld := ⟨63, 1⟩
abbrev RD_CFG_FLEET : Fld := ⟨56, 4⟩
abbrev RD_CFG_TYPE : Fld := ⟨54, 2⟩
abbrev RD_CFG_TAG : Fld := ⟨32, 16⟩
abbrev RD_CFG_NRM1 : Fld := ⟨20, 12⟩
abbrev RD_CFG_OWN : Fld := ⟨8, 12⟩
abbrev RD_BASE_OPA : Fld := ⟨0, 48⟩
abbrev RD_LEN_N : Fld := ⟨0, 27⟩
abbrev RD_STAT_FAULTED : Fld := ⟨63, 1⟩
abbrev RD_STAT_REF_SAT : Fld := ⟨62, 1⟩
abbrev RD_STAT_WAKE : Fld := ⟨60, 1⟩
abbrev RD_STAT_WAITERS : Fld := ⟨32, 13⟩
abbrev RD_STAT_REFUSALS : Fld := ⟨0, 16⟩
abbrev MP_STAT_RD_OVF : Fld := ⟨63, 1⟩
abbrev MP_STAT_WR_OVF : Fld := ⟨62, 1⟩
abbrev MP_STAT_OVF_AE : Fld := ⟨61, 1⟩
abbrev MP_STAT_SAT : Fld := ⟨57, 4⟩
abbrev MP_STAT_RD_OUT : Fld := ⟨32, 13⟩
abbrev MP_STAT_WR_OUT : Fld := ⟨12, 10⟩
abbrev MP_STAT_STATE : Fld := ⟨0, 3⟩
abbrev MP_CTL_SCRUB_H : Fld := ⟨32, 16⟩
abbrev MP_CTL_LOSE : Fld := ⟨2, 1⟩
abbrev MP_CTL_RETRAIN : Fld := ⟨1, 1⟩
abbrev MP_LANES_RXS0 : Fld := ⟨24, 8⟩
abbrev MP_LANES_RXS1 : Fld := ⟨16, 8⟩
abbrev MP_LANES_TXS0 : Fld := ⟨8, 8⟩
abbrev MP_LANES_TXS1 : Fld := ⟨0, 8⟩
abbrev MP_ERR_REPLAY : Fld := ⟨48, 16⟩
abbrev MP_ERR_CE : Fld := ⟨32, 16⟩
abbrev MP_ERR_UE : Fld := ⟨16, 16⟩
abbrev MP_ERR_POISON : Fld := ⟨0, 16⟩
abbrev MP_RD_COUNT : Fld := ⟨0, 64⟩
abbrev MP_WR_COUNT : Fld := ⟨0, 64⟩
abbrev MR_BASE_VALID : Fld := ⟨63, 1⟩
abbrev MR_BASE_MODE : Fld := ⟨60, 3⟩
abbrev MR_BASE_BASE : Fld := ⟨30, 18⟩
abbrev MR_MAP_LB : Fld := ⟨32, 32⟩
abbrev MR_MAP_EXT : Fld := ⟨0, 32⟩
abbrev NMU_STAT_MAC_OVF : Fld := ⟨63, 1⟩
abbrev NMU_STAT_RDB_OVF : Fld := ⟨62, 1⟩
abbrev NMU_STAT_OVF_AE : Fld := ⟨61, 1⟩
abbrev NMU_STAT_SAT : Fld := ⟨57, 4⟩
abbrev NMU_STAT_TAGS : Fld := ⟨40, 7⟩
abbrev NMU_STAT_SCALES : Fld := ⟨32, 5⟩
abbrev NMU_STAT_QOCC : Fld := ⟨16, 6⟩
abbrev NMU_STAT_WAITING : Fld := ⟨3, 1⟩
abbrev NMU_STAT_PREFETCH : Fld := ⟨2, 1⟩
abbrev NMU_STAT_RED_BUSY : Fld := ⟨1, 1⟩
abbrev NMU_STAT_OP_BUSY : Fld := ⟨0, 1⟩
abbrev NMU_CTL_TAG : Fld := ⟨8, 16⟩
abbrev NMU_CTL_FLEET : Fld := ⟨4, 4⟩
abbrev NMU_CTL_ABORT_TAG : Fld := ⟨1, 1⟩
abbrev NMU_CTL_ABORT_FLEET : Fld := ⟨0, 1⟩
abbrev NMU_ARRIVE_COUNT : Fld := ⟨0, 64⟩
abbrev NMU_SCOUT_MAX : Fld := ⟨0, 31⟩
abbrev NMU_ERR_REFUSALS : Fld := ⟨48, 16⟩
abbrev NMU_ERR_FAULTS : Fld := ⟨32, 16⟩
abbrev NMU_ERR_UNCORR : Fld := ⟨16, 16⟩
abbrev NMU_ERR_DUPS : Fld := ⟨0, 16⟩
abbrev NMU_MAC_COUNT : Fld := ⟨0, 64⟩
abbrev NMU_RDB_COUNT : Fld := ⟨0, 64⟩
abbrev NMU_HEAD_HI_WORD : Fld := ⟨0, 64⟩
abbrev NMU_HEAD_LO_WORD : Fld := ⟨0, 64⟩
abbrev NMU_TAG_OLDEST : Fld := ⟨48, 16⟩
abbrev NMU_TAG_LAST : Fld := ⟨32, 16⟩
abbrev NMU_TAG_ANY : Fld := ⟨31, 1⟩
abbrev FL_STAT_TX_OVF : Fld := ⟨63, 1⟩
abbrev FL_STAT_RX_OVF : Fld := ⟨62, 1⟩
abbrev FL_STAT_OVF_AE : Fld := ⟨61, 1⟩
abbrev FL_STAT_SAT : Fld := ⟨57, 4⟩
abbrev FL_STAT_MISWIRE : Fld := ⟨56, 1⟩
abbrev FL_STAT_PEER : Fld := ⟨44, 12⟩
abbrev FL_STAT_WIDTH : Fld := ⟨3, 2⟩
abbrev FL_STAT_STATE : Fld := ⟨0, 3⟩
abbrev FL_CTL_LOSE : Fld := ⟨2, 1⟩
abbrev FL_CTL_RETRAIN : Fld := ⟨1, 1⟩
abbrev FL_LANES_TXS : Fld := ⟨8, 8⟩
abbrev FL_LANES_RXS : Fld := ⟨0, 8⟩
abbrev FL_ERR_REPLAY : Fld := ⟨48, 16⟩
abbrev FL_ERR_CRC : Fld := ⟨32, 16⟩
abbrev FL_ERR_CORR : Fld := ⟨16, 16⟩
abbrev FL_ERR_PROTO : Fld := ⟨0, 16⟩
abbrev FL_TXS_COUNT : Fld := ⟨0, 64⟩
abbrev FL_RXS_COUNT : Fld := ⟨0, 64⟩
abbrev FL_CRED_REQ : Fld := ⟨27, 9⟩
abbrev FL_CRED_RPL : Fld := ⟨18, 9⟩
abbrev FL_CRED_RED : Fld := ⟨9, 9⟩
abbrev FL_CRED_CNV : Fld := ⟨0, 9⟩
abbrev XL_PTBASE_EN : Fld := ⟨63, 1⟩
abbrev XL_PTBASE_BASE : Fld := ⟨12, 36⟩
abbrev XL_INV_FLEET : Fld := ⟨60, 4⟩
abbrev XL_INV_ALL : Fld := ⟨59, 1⟩
abbrev XL_INV_COUNT : Fld := ⟨48, 11⟩
abbrev XL_INV_VA : Fld := ⟨16, 32⟩
abbrev XL_INV_BUSY : Fld := ⟨1, 1⟩
abbrev XL_INV_GO : Fld := ⟨0, 1⟩
abbrev XF_RING_SIZE : Fld := ⟨60, 4⟩
abbrev XF_RING_EN : Fld := ⟨59, 1⟩
abbrev XF_RING_BASE : Fld := ⟨12, 36⟩
abbrev XF_PTR_WP : Fld := ⟨32, 32⟩
abbrev XF_PTR_RP : Fld := ⟨0, 32⟩
abbrev RK_CTL_RT : Fld := ⟨0, 1⟩
abbrev RK_CMD_PID : Fld := ⟨32, 32⟩
abbrev RK_CMD_OP : Fld := ⟨0, 2⟩
abbrev RK_RESULT_BUSY : Fld := ⟨63, 1⟩
abbrev RK_RESULT_STATUS : Fld := ⟨48, 8⟩
abbrev RK_RESULT_REASON : Fld := ⟨44, 4⟩
abbrev RK_RESULT_SEG : Fld := ⟨40, 4⟩
abbrev RK_RESULT_PID : Fld := ⟨0, 32⟩
abbrev RK_STAT_MISS_SAT : Fld := ⟨63, 1⟩
abbrev RK_STAT_CMD_LOST : Fld := ⟨62, 1⟩
abbrev RK_STAT_HELD : Fld := ⟨48, 6⟩
abbrev RK_STAT_MISSES : Fld := ⟨0, 16⟩
abbrev RK_DESC_BYTES : Fld := ⟨0, 64⟩
abbrev PT_ID_STATE : Fld := ⟨62, 2⟩
abbrev PT_ID_AT_RISK : Fld := ⟨61, 1⟩
abbrev PT_ID_FLEET : Fld := ⟨56, 4⟩
abbrev PT_ID_LAST : Fld := ⟨48, 8⟩
abbrev PT_ID_RUNS : Fld := ⟨32, 16⟩
abbrev PT_ID_PID : Fld := ⟨0, 32⟩
abbrev PT_TIME_BOUND : Fld := ⟨32, 32⟩
abbrev PT_TIME_SLACK_USED : Fld := ⟨0, 32⟩
abbrev PT_START_T0 : Fld := ⟨0, 64⟩
abbrev PACE_P_SAG : Fld := ⟨63, 1⟩
abbrev PACE_P_HOT : Fld := ⟨62, 1⟩
abbrev PACE_P_TJ : Fld := ⟨48, 8⟩
abbrev PACE_P_MIN : Fld := ⟨38, 10⟩
abbrev PACE_P_MEAS : Fld := ⟨28, 10⟩
abbrev PACE_P_CERT : Fld := ⟨18, 10⟩
abbrev PACE_P_VSET : Fld := ⟨10, 8⟩
abbrev PACE_P_CLASS : Fld := ⟨8, 2⟩
abbrev CP_CFG_RAMP : Fld := ⟨32, 10⟩
abbrev CP_CFG_BUDGET : Fld := ⟨0, 13⟩
abbrev CP_STAT_VIN_WARN : Fld := ⟨63, 1⟩
abbrev CP_STAT_TRIP : Fld := ⟨62, 1⟩
abbrev CP_STAT_FROZEN : Fld := ⟨61, 1⟩
abbrev CP_STAT_QUEUED : Fld := ⟨40, 8⟩
abbrev CP_STAT_STANDING : Fld := ⟨16, 13⟩
abbrev CP_STAT_GRANTED : Fld := ⟨0, 13⟩
abbrev CP_FLEET_SHARE : Fld := ⟨32, 12⟩
abbrev CP_FLEET_USED : Fld := ⟨0, 12⟩
abbrev CP_P_THROTTLED : Fld := ⟨63, 1⟩
abbrev CP_P_WAITING : Fld := ⟨62, 1⟩
abbrev CP_P_REQ : Fld := ⟨32, 8⟩
abbrev CP_P_FLOOR : Fld := ⟨24, 8⟩
abbrev CP_P_STANDING : Fld := ⟨16, 8⟩
abbrev CP_P_GRANT : Fld := ⟨0, 8⟩
abbrev NV_STAT_NV_LOST : Fld := ⟨59, 5⟩
abbrev NV_STAT_BERM_FOUND : Fld := ⟨58, 1⟩
abbrev NV_STAT_BERM_CUT : Fld := ⟨57, 1⟩
abbrev NV_STAT_LOST_TAIL : Fld := ⟨0, 32⟩
abbrev BERM_LAST_TIME : Fld := ⟨0, 64⟩
abbrev ZN_SRC_KIND : Fld := ⟨0, 2⟩
abbrev ZN_ADDR_ADDR : Fld := ⟨0, 64⟩
abbrev ZN_CMD_OP : Fld := ⟨0, 3⟩
abbrev ZN_STAT_STATE : Fld := ⟨61, 3⟩
abbrev ZN_STAT_CMD_LOST : Fld := ⟨60, 1⟩
abbrev ZN_STAT_STATUS : Fld := ⟨48, 8⟩
abbrev ZN_STAT_REASON : Fld := ⟨44, 4⟩
abbrev ZN_STAT_SECTION : Fld := ⟨32, 8⟩
abbrev ZN_STAT_DEFER_PID : Fld := ⟨0, 32⟩
abbrev ZN_EPOCH_EPOCH : Fld := ⟨0, 64⟩
abbrev ZN_PROG_PHASE : Fld := ⟨40, 3⟩
abbrev ZN_PROG_NEXT : Fld := ⟨32, 7⟩
abbrev ZN_PROG_PENDING : Fld := ⟨0, 7⟩
abbrev ZN_COMPAT_PIN_DN16 : Fld := ⟨63, 1⟩
abbrev ZN_COMPAT_DN16 : Fld := ⟨62, 1⟩
abbrev ZN_COMPAT_IMG_DN16 : Fld := ⟨61, 1⟩
abbrev ZN_COMPAT_SVN_MIN : Fld := ⟨0, 16⟩
abbrev ZN_PEP_EPOCH : Fld := ⟨0, 64⟩
abbrev RP_CTL_POLDER : Fld := ⟨57, 7⟩
abbrev RP_CTL_LID : Fld := ⟨51, 6⟩
abbrev RP_CTL_OP : Fld := ⟨0, 3⟩
abbrev RP_STAT_BUSY : Fld := ⟨63, 1⟩
abbrev RP_STAT_CMD_LOST : Fld := ⟨62, 1⟩
abbrev RP_STAT_PHASE : Fld := ⟨59, 3⟩
abbrev RP_STAT_STATUS : Fld := ⟨48, 8⟩
abbrev RP_STAT_TARGET : Fld := ⟨41, 7⟩
abbrev RP_STAT_DIRTY : Fld := ⟨0, 17⟩
abbrev DK_P_STATE : Fld := ⟨61, 3⟩
abbrev DK_P_CAUSE : Fld := ⟨56, 5⟩
abbrev DK_P_LEASES : Fld := ⟨48, 8⟩
abbrev DK_P_SOUND : Fld := ⟨46, 2⟩
abbrev DK_P_SLOT : Fld := ⟨0, 8⟩
abbrev RAS_P_CE_SAT : Fld := ⟨63, 1⟩
abbrev RAS_P_UE_SAT : Fld := ⟨62, 1⟩
abbrev RAS_P_ROWS : Fld := ⟨32, 16⟩
abbrev RAS_P_CE : Fld := ⟨16, 16⟩
abbrev RAS_P_UE : Fld := ⟨0, 16⟩
abbrev SEM_V_ABANDONED : Fld := ⟨63, 1⟩
abbrev SEM_V_OWNED : Fld := ⟨62, 1⟩
abbrev SEM_V_OWNER : Fld := ⟨55, 7⟩
abbrev SEM_V_VALUE : Fld := ⟨0, 32⟩
abbrev SEM_CMD_OP : Fld := ⟨62, 2⟩
abbrev SEM_CMD_OWNER : Fld := ⟨55, 7⟩
abbrev SEM_CMD_SEM : Fld := ⟨40, 8⟩
abbrev SEM_CMD_VALUE : Fld := ⟨0, 32⟩
abbrev SEM_RES_DONE : Fld := ⟨63, 1⟩
abbrev SEM_RES_STATUS : Fld := ⟨48, 8⟩
abbrev SEM_RES_VALUE : Fld := ⟨0, 32⟩
abbrev LB_NEXT_SEQ : Fld := ⟨0, 64⟩
abbrev LB_SEL_SEQ : Fld := ⟨0, 64⟩
abbrev LB_STAT_VALID : Fld := ⟨63, 1⟩
abbrev LB_STAT_PENDING : Fld := ⟨0, 11⟩
abbrev LB_REC_BYTES : Fld := ⟨0, 64⟩
abbrev NV_OFF_OFF : Fld := ⟨0, 23⟩
abbrev NV_DATA_DATA : Fld := ⟨0, 64⟩
abbrev ID0_MINOR : Fld := ⟨40, 8⟩
abbrev ID0_MAJOR : Fld := ⟨32, 8⟩
abbrev ID0_DEV_ID : Fld := ⟨0, 32⟩
abbrev ID1_VE64 : Fld := ⟨4, 1⟩
abbrev ID1_HC8 : Fld := ⟨3, 1⟩
abbrev ID1_LINK8 : Fld := ⟨2, 1⟩
abbrev ID1_MPORTS : Fld := ⟨0, 2⟩
abbrev ID2_SERIAL : Fld := ⟨0, 64⟩
abbrev RST_CTL_KEY : Fld := ⟨48, 16⟩
abbrev RST_CTL_WARM : Fld := ⟨0, 1⟩
abbrev RST_STAT_CAUSE : Fld := ⟨62, 2⟩
abbrev RST_STAT_BOOTED : Fld := ⟨61, 1⟩
abbrev RST_STAT_PHASE : Fld := ⟨56, 5⟩
abbrev RST_STAT_STATUS : Fld := ⟨48, 8⟩
abbrev RST_STAT_SRC_PIN : Fld := ⟨46, 2⟩
abbrev RST_STAT_SRC_USED : Fld := ⟨44, 2⟩
abbrev BT_HADDR_ADDR : Fld := ⟨0, 64⟩
abbrev BT_CTL_GO : Fld := ⟨0, 1⟩
abbrev AL_STAT_CLASS : Fld := ⟨0, 13⟩
abbrev AL_ROUTE_PIN : Fld := ⟨48, 13⟩
abbrev AL_ROUTE_MGMT : Fld := ⟨32, 13⟩
abbrev AL_ROUTE_HA : Fld := ⟨16, 13⟩
abbrev AL_ROUTE_HART : Fld := ⟨13, 3⟩
abbrev AL_ROUTE_HC : Fld := ⟨0, 13⟩
abbrev AL_HA_ADDR_ADDR : Fld := ⟨0, 64⟩
abbrev KD_PEND_DONE : Fld := ⟨0, 64⟩
abbrev HA_RIGHTS_HPUT : Fld := ⟨2, 1⟩
abbrev HA_RIGHTS_EM : Fld := ⟨1, 1⟩
abbrev HA_RIGHTS_CORES : Fld := ⟨0, 1⟩
abbrev OTP_KEY_DIGEST : Fld := ⟨0, 64⟩
abbrev OTP_STAGE_DIGEST : Fld := ⟨0, 64⟩
abbrev OTP_STAT_BUSY : Fld := ⟨63, 1⟩
abbrev OTP_STAT_STATUS : Fld := ⟨48, 8⟩
abbrev OTP_STAT_MFR : Fld := ⟨16, 11⟩
abbrev OTP_STAT_DEBUG_OPEN : Fld := ⟨8, 1⟩
abbrev OTP_STAT_REVOKED : Fld := ⟨4, 4⟩
abbrev OTP_STAT_PROGRAMMED : Fld := ⟨0, 4⟩
abbrev OTP_CMD_VALUE : Fld := ⟨5, 11⟩
abbrev OTP_CMD_SLOT : Fld := ⟨3, 2⟩
abbrev OTP_CMD_OP : Fld := ⟨0, 3⟩
abbrev PMB_DEV_EN : Fld := ⟨63, 1⟩
abbrev PMB_DEV_ADDR : Fld := ⟨56, 7⟩
abbrev PMB_DEV_RAIL : Fld := ⟨53, 3⟩
abbrev PMB_DEV_VOUT : Fld := ⟨32, 16⟩
abbrev PMB_DEV_IOUT : Fld := ⟨16, 16⟩
abbrev PMB_DEV_STATUS : Fld := ⟨0, 16⟩
abbrev HA_STAT_SAT : Fld := ⟨60, 4⟩
abbrev HA_STAT_HM_OUT : Fld := ⟨32, 12⟩
abbrev HA_STAT_NPR_IN : Fld := ⟨8, 6⟩
abbrev HA_STAT_STATE : Fld := ⟨0, 2⟩
abbrev HA_ERR_PARITY : Fld := ⟨48, 16⟩
abbrev HA_ERR_DENIED : Fld := ⟨32, 16⟩
abbrev HA_ERR_TIMEOUT : Fld := ⟨16, 16⟩
abbrev HA_ERR_LATE : Fld := ⟨0, 16⟩
abbrev HA_CFG_TIMEOUT : Fld := ⟨0, 4⟩
abbrev HC_CTL_BUSY : Fld := ⟨63, 1⟩
abbrev HC_CTL_STATUS : Fld := ⟨48, 8⟩
abbrev HC_CTL_RESTART : Fld := ⟨8, 8⟩
abbrev HC_CTL_RUN : Fld := ⟨0, 8⟩
abbrev HC_ENTRY_PA : Fld := ⟨0, 48⟩
abbrev HC_FWADDR_PA : Fld := ⟨0, 48⟩
abbrev HC_FWCMD_BUSY : Fld := ⟨63, 1⟩
abbrev HC_FWCMD_STATUS : Fld := ⟨48, 8⟩
abbrev HC_FWCMD_REASON : Fld := ⟨44, 4⟩
abbrev HC_FWCMD_VERIFY : Fld := ⟨0, 1⟩
abbrev HC_IP_PEND : Fld := ⟨0, 64⟩
abbrev HC_IE_EN : Fld := ⟨0, 64⟩
abbrev HCH_CFG_EN : Fld := ⟨63, 1⟩
abbrev HCH_CFG_KIND : Fld := ⟨62, 1⟩
abbrev HCH_CFG_DISP : Fld := ⟨61, 1⟩
abbrev HCH_CFG_RESET : Fld := ⟨60, 1⟩
abbrev HCH_CFG_FLEET : Fld := ⟨56, 4⟩
abbrev HCH_CFG_SIZE : Fld := ⟨52, 4⟩
abbrev HCH_CFG_HART : Fld := ⟨48, 3⟩
abbrev HCH_CFG_BASE : Fld := ⟨0, 48⟩
abbrev HCH_RPA_RPADDR : Fld := ⟨0, 48⟩
abbrev HCH_PTR_WP : Fld := ⟨32, 32⟩
abbrev HCH_PTR_RP : Fld := ⟨0, 32⟩
abbrev HCH_STAT_RP_ERR : Fld := ⟨63, 1⟩
abbrev HCH_STAT_ORPHAN : Fld := ⟨62, 1⟩
abbrev HCH_STAT_CFG_ERR : Fld := ⟨61, 1⟩
abbrev HCH_STAT_REF_SAT : Fld := ⟨60, 1⟩
abbrev HCH_STAT_PEND : Fld := ⟨59, 1⟩
abbrev HCH_STAT_WAITERS : Fld := ⟨40, 8⟩
abbrev HCH_STAT_RSVN : Fld := ⟨16, 16⟩
abbrev HCH_STAT_REFUSALS : Fld := ⟨0, 16⟩
abbrev HCH_HEAD_HDR : Fld := ⟨0, 64⟩
abbrev HCH_LAST_HDR : Fld := ⟨0, 64⟩
abbrev IO_STAT_TB_LOST : Fld := ⟨63, 1⟩
abbrev IO_STAT_PHY_LOST : Fld := ⟨62, 1⟩
abbrev IO_STAT_TB_INT : Fld := ⟨61, 1⟩
abbrev IO_STAT_HA_CLK_RUN : Fld := ⟨60, 1⟩
abbrev IO_STAT_PWR_FAIL : Fld := ⟨59, 1⟩
abbrev IO_STAT_VKEEP_MV : Fld := ⟨32, 16⟩
abbrev IO_STAT_VIN_MV : Fld := ⟨16, 16⟩
abbrev HCS_HI_WORD : Fld := ⟨0, 64⟩
abbrev HCS_LO_WORD : Fld := ⟨0, 64⟩
abbrev HCS_PAY0_WORD : Fld := ⟨0, 64⟩
abbrev HCS_PAY1_WORD : Fld := ⟨0, 64⟩
abbrev HCS_PAY2_WORD : Fld := ⟨0, 64⟩
abbrev HCS_PAY3_WORD : Fld := ⟨0, 64⟩
abbrev HCS_SRC_ADDR : Fld := ⟨0, 64⟩
abbrev HCS_GO_BUSY : Fld := ⟨63, 1⟩
abbrev HCS_GO_STATUS : Fld := ⟨48, 8⟩
abbrev HCS_GO_PUT : Fld := ⟨1, 1⟩
abbrev HCS_GO_SEND : Fld := ⟨0, 1⟩

end F

/-- The register maps inside a physical slot window (R26), part 1. -/
def slotRegs1 : List RegDef := [
  -- NUM_STAT
  ⟨0x1000, 1, 8, [⟨63, 1, .w1c, 0x0⟩, ⟨62, 1, .w1c, 0x0⟩, ⟨61, 1, .w1c, 0x0⟩, ⟨57, 3, .ro, 0x0⟩, ⟨54, 3, .ro, 0x0⟩, ⟨51, 3, .ro, 0x0⟩, ⟨32, 16, .ro, 0x0⟩, ⟨16, 16, .ro, 0x0⟩, ⟨0, 16, .ro, 0x0⟩]⟩,
  -- SCOUT0
  ⟨0x1008, 1, 8, [⟨0, 31, .rw, 0x0⟩]⟩,
  -- SCOUT1
  ⟨0x1010, 1, 8, [⟨0, 31, .rw, 0x0⟩]⟩,
  -- ARRAY_STAT
  ⟨0x1040, 1, 8, [⟨63, 1, .w1c, 0x0⟩, ⟨62, 1, .w1c, 0x0⟩, ⟨61, 1, .rw, 0x0⟩, ⟨32, 6, .ro, 0x0⟩, ⟨16, 16, .ro, 0x0⟩, ⟨7, 1, .ro, 0x0⟩, ⟨6, 1, .ro, 0x0⟩, ⟨5, 1, .ro, 0x0⟩, ⟨3, 1, .ro, 0x0⟩, ⟨0, 2, .ro, 0x0⟩]⟩,
  -- ARRAY_UPD
  ⟨0x1048, 1, 8, [⟨0, 64, .rw, 0x0⟩]⟩,
  -- ARRAY_STALL
  ⟨0x1050, 1, 8, [⟨0, 64, .rw, 0x0⟩]⟩,
  -- TILE_CTL
  ⟨0x1080, 1, 8, [⟨7, 1, .rw, 0x0⟩, ⟨3, 1, .wo, 0x0⟩, ⟨2, 1, .wo, 0x0⟩, ⟨0, 1, .rw, 0x0⟩]⟩,
  -- TILE_SAVE
  ⟨0x1088, 1, 8, [⟨0, 32, .rw, 0x0⟩]⟩,
  -- TILE_STAT
  ⟨0x1090, 1, 8, [⟨63, 1, .w1c, 0x0⟩, ⟨62, 1, .rw, 0x0⟩, ⟨40, 8, .ro, 0x0⟩, ⟨32, 8, .ro, 0x0⟩, ⟨8, 2, .ro, 0x0⟩, ⟨4, 1, .w1c, 0x0⟩, ⟨2, 2, .ro, 0x0⟩, ⟨1, 1, .ro, 0x0⟩, ⟨0, 1, .ro, 0x0⟩]⟩,
  -- OF_INUSE
  ⟨0x1098, 1, 8, [⟨0, 64, .ro, 0x0⟩]⟩,
  -- OPC_HIT
  ⟨0x10a0, 1, 8, [⟨0, 64, .rw, 0x0⟩]⟩,
  -- VE_STAT
  ⟨0x10c0, 1, 8, [⟨63, 1, .w1c, 0x0⟩, ⟨62, 1, .rw, 0x0⟩, ⟨40, 8, .ro, 0x0⟩, ⟨32, 8, .ro, 0x0⟩, ⟨7, 1, .ro, 0x0⟩, ⟨6, 1, .ro, 0x1⟩, ⟨1, 1, .ro, 0x0⟩, ⟨0, 1, .ro, 0x0⟩]⟩,
  -- VE_SUM
  ⟨0x10c8, 1, 8, [⟨4, 19, .rw, 0x0⟩]⟩,
  -- VR_SAVE
  ⟨0x10d0, 1, 8, [⟨56, 8, .ro, 0x0⟩, ⟨48, 2, .ro, 0x0⟩, ⟨33, 1, .wo, 0x0⟩, ⟨32, 1, .wo, 0x0⟩, ⟨0, 32, .rw, 0x0⟩]⟩,
  -- VE_ELEM
  ⟨0x10d8, 1, 8, [⟨0, 64, .rw, 0x0⟩]⟩,
  -- CC_STAT
  ⟨0x1100, 1, 8, [⟨16, 16, .ro, 0x0⟩, ⟨3, 1, .ro, 0x0⟩, ⟨2, 1, .ro, 0x0⟩, ⟨1, 1, .ro, 0x0⟩, ⟨0, 1, .ro, 0x0⟩]⟩,
  -- CC_CTL
  ⟨0x1108, 1, 8, [⟨0, 1, .rw, 0x0⟩]⟩,
  -- CC_TIMECMP
  ⟨0x1110, 1, 8, [⟨0, 64, .rw, 0xffffffffffffffff⟩]⟩,
  -- TRAP_INFO
  ⟨0x1118, 1, 8, [⟨63, 1, .w1c, 0x0⟩, ⟨62, 1, .ro, 0x0⟩, ⟨61, 1, .ro, 0x0⟩, ⟨48, 8, .ro, 0x0⟩, ⟨0, 32, .ro, 0x0⟩]⟩,
  -- XQ_STAT
  ⟨0x1120, 1, 8, [⟨63, 1, .ro, 0x0⟩, ⟨48, 8, .ro, 0x0⟩, ⟨40, 8, .ro, 0x0⟩, ⟨16, 17, .ro, 0x0⟩, ⟨7, 1, .ro, 0x0⟩, ⟨0, 7, .ro, 0x0⟩]⟩,
  -- FQ_STAT
  ⟨0x1128, 1, 8, [⟨63, 1, .ro, 0x0⟩, ⟨48, 8, .ro, 0x0⟩, ⟨40, 8, .ro, 0x0⟩, ⟨16, 17, .ro, 0x0⟩, ⟨7, 1, .ro, 0x0⟩, ⟨0, 7, .ro, 0x0⟩]⟩,
  -- XQ_HEAD_HI
  ⟨0x1130, 1, 8, [⟨0, 64, .ro, 0x0⟩]⟩,
  -- XQ_HEAD_LO
  ⟨0x1138, 1, 8, [⟨0, 64, .ro, 0x0⟩]⟩,
  -- FQ_HEAD_HI
  ⟨0x1140, 1, 8, [⟨0, 64, .ro, 0x0⟩]⟩,
  -- FQ_HEAD_LO
  ⟨0x1148, 1, 8, [⟨0, 64, .ro, 0x0⟩]⟩,
  -- WPT_STAT
  ⟨0x1150, 1, 8, [⟨63, 1, .ro, 0x0⟩, ⟨32, 16, .ro, 0x0⟩, ⟨16, 16, .ro, 0x0⟩, ⟨0, 16, .ro, 0x0⟩]⟩,
  -- KL_REC
  ⟨0x1180, 8, 8, [⟨0, 64, .rw, 0x0⟩]⟩,
  -- KL_CTL
  ⟨0x11c0, 1, 8, [⟨1, 1, .wo, 0x0⟩, ⟨0, 1, .wo, 0x0⟩]⟩,
  -- KL_STAT
  ⟨0x11c8, 1, 8, [⟨56, 8, .ro, 0x0⟩, ⟨48, 8, .ro, 0x0⟩, ⟨32, 2, .ro, 0x0⟩, ⟨0, 32, .ro, 0x0⟩]⟩,
  -- KL_DONE
  ⟨0x11d0, 1, 8, [⟨0, 64, .ro, 0x0⟩]⟩]

/-- The register maps inside a physical slot window (R26), part 2. -/
def slotRegs2 : List RegDef := [
  -- FE_STAT
  ⟨0x1200, 1, 8, [⟨32, 32, .ro, 0x0⟩, ⟨25, 7, .ro, 0x0⟩, ⟨16, 9, .ro, 0x0⟩, ⟨0, 10, .ro, 0x0⟩]⟩,
  -- FE_PERF
  ⟨0x1208, 1, 8, [⟨63, 1, .w1c, 0x0⟩, ⟨62, 1, .w1c, 0x0⟩, ⟨61, 1, .rw, 0x0⟩]⟩,
  -- FE_XFER
  ⟨0x1210, 1, 8, [⟨0, 64, .rw, 0x0⟩]⟩,
  -- FE_MERGED
  ⟨0x1218, 1, 8, [⟨0, 64, .rw, 0x0⟩]⟩,
  -- STRM_STAT
  ⟨0x2000, 32, 64, [⟨56, 8, .ro, 0x0⟩, ⟨53, 3, .ro, 0x0⟩, ⟨52, 1, .w1c, 0x0⟩, ⟨51, 1, .ro, 0x0⟩, ⟨50, 1, .ro, 0x0⟩, ⟨49, 1, .ro, 0x0⟩, ⟨44, 4, .ro, 0x0⟩, ⟨41, 3, .ro, 0x0⟩, ⟨30, 10, .ro, 0x0⟩, ⟨29, 1, .w1c, 0x0⟩]⟩,
  -- STRM_CTL
  ⟨0x2008, 32, 64, [⟨2, 1, .wo, 0x0⟩, ⟨1, 1, .wo, 0x0⟩]⟩,
  -- STRM_SRC
  ⟨0x2010, 32, 64, [⟨0, 64, .rw, 0x0⟩]⟩,
  -- STRM_DST
  ⟨0x2018, 32, 64, [⟨0, 64, .rw, 0x0⟩]⟩,
  -- STRM_LC12
  ⟨0x2020, 32, 64, [⟨32, 32, .rw, 0x0⟩, ⟨0, 32, .rw, 0x0⟩]⟩,
  -- STRM_LC34
  ⟨0x2028, 32, 64, [⟨32, 32, .rw, 0x0⟩, ⟨0, 32, .rw, 0x0⟩]⟩,
  -- STRM_LC56
  ⟨0x2030, 32, 64, [⟨32, 32, .rw, 0x0⟩, ⟨0, 32, .rw, 0x0⟩]⟩,
  -- STRM_CV
  ⟨0x2038, 32, 64, [⟨40, 20, .ro, 0x0⟩, ⟨20, 20, .ro, 0x0⟩, ⟨0, 20, .ro, 0x0⟩]⟩,
  -- MU_STAT
  ⟨0x3000, 1, 8, [⟨63, 1, .w1c, 0x0⟩, ⟨62, 1, .w1c, 0x0⟩, ⟨61, 1, .rw, 0x0⟩, ⟨48, 8, .ro, 0x0⟩, ⟨40, 8, .ro, 0x0⟩, ⟨12, 4, .ro, 0x0⟩, ⟨8, 4, .ro, 0x0⟩, ⟨7, 1, .ro, 0x0⟩]⟩,
  -- SB_HEAD_M
  ⟨0x3008, 1, 8, [⟨0, 64, .ro, 0x0⟩]⟩,
  -- SB_HEAD_H
  ⟨0x3010, 1, 8, [⟨0, 64, .ro, 0x0⟩]⟩,
  -- MU_RX
  ⟨0x3018, 1, 8, [⟨0, 64, .rw, 0x0⟩]⟩,
  -- CH_CFG
  ⟨0x3100, 16, 64, [⟨63, 1, .rw, 0x0⟩, ⟨62, 1, .rw, 0x0⟩, ⟨61, 1, .rw, 0x0⟩, ⟨60, 1, .wo, 0x0⟩, ⟨56, 4, .rw, 0x0⟩, ⟨52, 4, .rw, 0x0⟩, ⟨0, 32, .rw, 0x0⟩]⟩,
  -- CH_RPA
  ⟨0x3108, 16, 64, [⟨0, 32, .rw, 0x0⟩]⟩,
  -- CH_PTR
  ⟨0x3110, 16, 64, [⟨32, 32, .ro, 0x0⟩, ⟨0, 32, .ro, 0x0⟩]⟩,
  -- CH_STAT
  ⟨0x3118, 16, 64, [⟨63, 1, .w1c, 0x0⟩, ⟨62, 1, .w1c, 0x0⟩, ⟨61, 1, .w1c, 0x0⟩, ⟨60, 1, .w1c, 0x0⟩, ⟨59, 1, .ro, 0x0⟩, ⟨40, 8, .ro, 0x0⟩, ⟨16, 16, .ro, 0x0⟩, ⟨0, 16, .rc, 0x0⟩]⟩,
  -- CH_HEAD
  ⟨0x3120, 16, 64, [⟨0, 64, .ro, 0x0⟩]⟩,
  -- CH_LAST
  ⟨0x3128, 16, 64, [⟨0, 64, .ro, 0x0⟩]⟩,
  -- TALLY
  ⟨0x3800, 16, 8, [⟨0, 64, .rw, 0x0⟩]⟩,
  -- SCK_CTL
  ⟨0x3880, 1, 8, [⟨0, 1, .rw, 0x0⟩]⟩,
  -- SCK_STAT
  ⟨0x3888, 1, 8, [⟨63, 1, .w1c, 0x0⟩, ⟨62, 1, .w1c, 0x0⟩, ⟨54, 2, .ro, 0x0⟩, ⟨52, 2, .ro, 0x0⟩, ⟨46, 6, .ro, 0x0⟩, ⟨45, 1, .ro, 0x0⟩, ⟨41, 4, .ro, 0x0⟩, ⟨16, 16, .rc, 0x0⟩, ⟨0, 16, .rc, 0x0⟩]⟩]

/-- The register maps inside a physical slot window (R26). -/
def slotRegs : List RegDef := slotRegs1 ++ slotRegs2

/-- The register maps at fixed offsets of the DRS, part 1. -/
def devRegs1 : List RegDef := [
  -- CN_CFG
  ⟨0x110000, 32, 256, [⟨63, 1, .ro, 0x0⟩, ⟨56, 4, .ro, 0x0⟩]⟩,
  -- CN_SESS
  ⟨0x110008, 32, 256, [⟨63, 1, .rw, 0x0⟩, ⟨62, 1, .rw, 0x0⟩, ⟨32, 16, .rw, 0x0⟩, ⟨0, 19, .rw, 0x0⟩]⟩,
  -- CN_DEST
  ⟨0x110010, 32, 256, [⟨62, 2, .rw, 0x0⟩, ⟨56, 6, .rw, 0x0⟩, ⟨52, 4, .rw, 0x0⟩, ⟨51, 1, .rw, 0x0⟩, ⟨0, 32, .rw, 0x0⟩]⟩,
  -- CN_CTL
  ⟨0x110018, 32, 256, [⟨1, 1, .wo, 0x0⟩, ⟨0, 1, .wo, 0x0⟩]⟩,
  -- CN_STAT
  ⟨0x110020, 32, 256, [⟨61, 3, .ro, 0x0⟩, ⟨60, 1, .w1c, 0x0⟩, ⟨48, 8, .ro, 0x0⟩, ⟨40, 8, .ro, 0x0⟩, ⟨32, 8, .ro, 0x0⟩, ⟨0, 16, .rc, 0x0⟩]⟩,
  -- CN_COUNT
  ⟨0x110028, 32, 256, [⟨0, 34, .ro, 0x0⟩]⟩,
  -- CN_HEAD
  ⟨0x110030, 32, 256, [⟨62, 2, .ro, 0x0⟩, ⟨56, 6, .ro, 0x0⟩, ⟨48, 8, .ro, 0x0⟩, ⟨30, 18, .ro, 0x0⟩, ⟨21, 9, .ro, 0x0⟩]⟩,
  -- MG_CORES
  ⟨0x120000, 64, 32, [⟨0, 64, .ro, 0x0⟩]⟩,
  -- MG_CFG
  ⟨0x120008, 64, 32, [⟨63, 1, .ro, 0x0⟩, ⟨56, 4, .ro, 0x0⟩, ⟨52, 4, .ro, 0x0⟩, ⟨32, 20, .ro, 0x0⟩]⟩,
  -- MG_LAND
  ⟨0x120010, 64, 32, [⟨60, 4, .ro, 0x0⟩, ⟨59, 1, .ro, 0x0⟩, ⟨32, 23, .ro, 0x0⟩, ⟨0, 22, .ro, 0x0⟩]⟩,
  -- RD_CFG
  ⟨0x130000, 64, 32, [⟨63, 1, .ro, 0x0⟩, ⟨56, 4, .ro, 0x0⟩, ⟨54, 2, .ro, 0x0⟩, ⟨32, 16, .ro, 0x0⟩, ⟨20, 12, .ro, 0x0⟩, ⟨8, 12, .ro, 0x0⟩]⟩,
  -- RD_BASE
  ⟨0x130008, 64, 32, [⟨0, 48, .ro, 0x0⟩]⟩,
  -- RD_LEN
  ⟨0x130010, 64, 32, [⟨0, 27, .ro, 0x0⟩]⟩,
  -- RD_STAT
  ⟨0x130018, 64, 32, [⟨63, 1, .w1c, 0x0⟩, ⟨62, 1, .w1c, 0x0⟩, ⟨60, 1, .wo, 0x0⟩, ⟨32, 13, .ro, 0x0⟩, ⟨0, 16, .rc, 0x0⟩]⟩,
  -- XL_PTBASE
  ⟨0x6000, 16, 8, [⟨63, 1, .rw, 0x0⟩, ⟨12, 36, .rw, 0x0⟩]⟩,
  -- XL_INV
  ⟨0x6080, 1, 8, [⟨60, 4, .rw, 0x0⟩, ⟨59, 1, .rw, 0x0⟩, ⟨48, 11, .rw, 0x0⟩, ⟨16, 32, .rw, 0x0⟩, ⟨1, 1, .ro, 0x0⟩, ⟨0, 1, .wo, 0x0⟩]⟩,
  -- XF_RING
  ⟨0x6088, 1, 8, [⟨60, 4, .rw, 0x0⟩, ⟨59, 1, .rw, 0x0⟩, ⟨12, 36, .rw, 0x0⟩]⟩,
  -- XF_PTR
  ⟨0x6090, 1, 8, [⟨32, 32, .ro, 0x0⟩, ⟨0, 32, .rw, 0x0⟩]⟩,
  -- RK_CTL
  ⟨0x5000, 1, 8, [⟨0, 1, .rw, 0x0⟩]⟩,
  -- RK_CMD
  ⟨0x5008, 1, 8, [⟨32, 32, .wo, 0x0⟩, ⟨0, 2, .wo, 0x0⟩]⟩,
  -- RK_RESULT
  ⟨0x5010, 1, 8, [⟨63, 1, .ro, 0x0⟩, ⟨48, 8, .ro, 0x0⟩, ⟨44, 4, .ro, 0x0⟩, ⟨40, 4, .ro, 0x0⟩, ⟨0, 32, .ro, 0x0⟩]⟩,
  -- RK_STAT
  ⟨0x5018, 1, 8, [⟨63, 1, .w1c, 0x0⟩, ⟨62, 1, .w1c, 0x0⟩, ⟨48, 6, .ro, 0x0⟩, ⟨0, 16, .rc, 0x0⟩]⟩,
  -- RK_DESC
  ⟨0x5100, 64, 8, [⟨0, 64, .rw, 0x0⟩]⟩,
  -- PT_ID
  ⟨0x5400, 32, 32, [⟨62, 2, .ro, 0x0⟩, ⟨61, 1, .w1c, 0x0⟩, ⟨56, 4, .ro, 0x0⟩, ⟨48, 8, .ro, 0x0⟩, ⟨32, 16, .ro, 0x0⟩, ⟨0, 32, .ro, 0x0⟩]⟩,
  -- PT_TIME
  ⟨0x5408, 32, 32, [⟨32, 32, .ro, 0x0⟩, ⟨0, 32, .ro, 0x0⟩]⟩,
  -- PT_START
  ⟨0x5410, 32, 32, [⟨0, 64, .ro, 0x0⟩]⟩,
  -- PACE_P
  ⟨0x5800, 100, 8, [⟨63, 1, .w1c, 0x0⟩, ⟨62, 1, .w1c, 0x0⟩, ⟨48, 8, .ro, 0x0⟩, ⟨38, 10, .ro, 0x0⟩, ⟨28, 10, .ro, 0x0⟩, ⟨18, 10, .ro, 0x0⟩, ⟨10, 8, .ro, 0x0⟩, ⟨8, 2, .ro, 0x0⟩]⟩,
  -- CP_CFG
  ⟨0x4000, 1, 8, [⟨32, 10, .ro, 0x0⟩, ⟨0, 13, .ro, 0x0⟩]⟩,
  -- CP_STAT
  ⟨0x4008, 1, 8, [⟨63, 1, .w1c, 0x0⟩, ⟨62, 1, .ro, 0x0⟩, ⟨61, 1, .ro, 0x0⟩, ⟨40, 8, .ro, 0x0⟩, ⟨16, 13, .ro, 0x0⟩, ⟨0, 13, .ro, 0x0⟩]⟩,
  -- CP_FLEET
  ⟨0x4100, 16, 8, [⟨32, 12, .ro, 0x0⟩, ⟨0, 12, .ro, 0x0⟩]⟩]

/-- The register maps at fixed offsets of the DRS, part 2. -/
def devRegs2 : List RegDef := [
  -- CP_P
  ⟨0x4800, 100, 8, [⟨63, 1, .w1c, 0x0⟩, ⟨62, 1, .ro, 0x0⟩, ⟨32, 8, .ro, 0x0⟩, ⟨24, 8, .ro, 0x0⟩, ⟨16, 8, .ro, 0x0⟩, ⟨0, 8, .ro, 0x0⟩]⟩,
  -- NV_STAT
  ⟨0x4400, 1, 8, [⟨59, 5, .w1c, 0x0⟩, ⟨58, 1, .ro, 0x0⟩, ⟨57, 1, .ro, 0x0⟩, ⟨0, 32, .ro, 0x0⟩]⟩,
  -- BERM_LAST
  ⟨0x4408, 1, 8, [⟨0, 64, .ro, 0x0⟩]⟩,
  -- ZN_SRC
  ⟨0x3000, 1, 8, [⟨0, 2, .rw, 0x0⟩]⟩,
  -- ZN_ADDR
  ⟨0x3008, 1, 8, [⟨0, 64, .rw, 0x0⟩]⟩,
  -- ZN_CMD
  ⟨0x3010, 1, 8, [⟨0, 3, .wo, 0x0⟩]⟩,
  -- ZN_STAT
  ⟨0x3018, 1, 8, [⟨61, 3, .ro, 0x0⟩, ⟨60, 1, .w1c, 0x0⟩, ⟨48, 8, .ro, 0x0⟩, ⟨44, 4, .ro, 0x0⟩, ⟨32, 8, .ro, 0x0⟩, ⟨0, 32, .ro, 0x0⟩]⟩,
  -- ZN_EPOCH
  ⟨0x3020, 1, 8, [⟨0, 64, .ro, 0x0⟩]⟩,
  -- ZN_PROG
  ⟨0x3028, 1, 8, [⟨40, 3, .ro, 0x0⟩, ⟨32, 7, .ro, 0x0⟩, ⟨0, 7, .ro, 0x0⟩]⟩,
  -- ZN_COMPAT
  ⟨0x3030, 1, 8, [⟨63, 1, .ro, 0x0⟩, ⟨62, 1, .ro, 0x0⟩, ⟨61, 1, .ro, 0x0⟩, ⟨0, 16, .ro, 0x0⟩]⟩,
  -- ZN_PEP
  ⟨0x3400, 100, 8, [⟨0, 64, .ro, 0x0⟩]⟩,
  -- RP_CTL
  ⟨0x7000, 1, 8, [⟨57, 7, .wo, 0x0⟩, ⟨51, 6, .wo, 0x0⟩, ⟨0, 3, .wo, 0x0⟩]⟩,
  -- RP_STAT
  ⟨0x7008, 1, 8, [⟨63, 1, .ro, 0x0⟩, ⟨62, 1, .w1c, 0x0⟩, ⟨59, 3, .ro, 0x0⟩, ⟨48, 8, .ro, 0x0⟩, ⟨41, 7, .ro, 0x0⟩, ⟨0, 17, .ro, 0x0⟩]⟩,
  -- DK_P
  ⟨0x7400, 100, 8, [⟨61, 3, .ro, 0x1⟩, ⟨56, 5, .ro, 0x0⟩, ⟨48, 8, .ro, 0x0⟩, ⟨46, 2, .ro, 0x0⟩, ⟨0, 8, .ro, 0x0⟩]⟩,
  -- RAS_P
  ⟨0x7800, 100, 8, [⟨63, 1, .w1c, 0x0⟩, ⟨62, 1, .w1c, 0x0⟩, ⟨32, 16, .ro, 0x0⟩, ⟨16, 16, .rc, 0x0⟩, ⟨0, 16, .rc, 0x0⟩]⟩,
  -- SEM_V
  ⟨0x9000, 256, 8, [⟨63, 1, .ro, 0x0⟩, ⟨62, 1, .ro, 0x0⟩, ⟨55, 7, .ro, 0x0⟩, ⟨0, 32, .ro, 0x0⟩]⟩,
  -- SEM_CMD
  ⟨0x9800, 9, 16, [⟨62, 2, .wo, 0x0⟩, ⟨55, 7, .wo, 0x0⟩, ⟨40, 8, .wo, 0x0⟩, ⟨0, 32, .wo, 0x0⟩]⟩,
  -- SEM_RES
  ⟨0x9808, 9, 16, [⟨63, 1, .ro, 0x0⟩, ⟨48, 8, .ro, 0x0⟩, ⟨0, 32, .ro, 0x0⟩]⟩,
  -- LB_NEXT
  ⟨0xa000, 1, 8, [⟨0, 64, .ro, 0x0⟩]⟩,
  -- LB_SEL
  ⟨0xa008, 1, 8, [⟨0, 64, .rw, 0x0⟩]⟩,
  -- LB_STAT
  ⟨0xa010, 1, 8, [⟨63, 1, .ro, 0x0⟩, ⟨0, 11, .ro, 0x0⟩]⟩,
  -- LB_REC
  ⟨0xa040, 8, 8, [⟨0, 64, .ro, 0x0⟩]⟩,
  -- NV_OFF
  ⟨0xa100, 1, 8, [⟨0, 23, .rw, 0x0⟩]⟩,
  -- NV_DATA
  ⟨0xa108, 1, 8, [⟨0, 64, .ro, 0x0⟩]⟩,
  -- ID0
  ⟨0x0, 1, 8, [⟨40, 8, .ro, 0x0⟩, ⟨32, 8, .ro, 0x1⟩, ⟨0, 32, .ro, 0x4e570264⟩]⟩,
  -- ID1
  ⟨0x8, 1, 8, [⟨4, 1, .ro, 0x1⟩, ⟨3, 1, .ro, 0x1⟩, ⟨2, 1, .ro, 0x1⟩, ⟨0, 2, .ro, 0x2⟩]⟩,
  -- ID2
  ⟨0x10, 1, 8, [⟨0, 64, .ro, 0x0⟩]⟩,
  -- RST_CTL
  ⟨0x100, 1, 8, [⟨48, 16, .wo, 0x0⟩, ⟨0, 1, .wo, 0x0⟩]⟩,
  -- RST_STAT
  ⟨0x108, 1, 8, [⟨62, 2, .ro, 0x0⟩, ⟨61, 1, .ro, 0x0⟩, ⟨56, 5, .ro, 0x0⟩, ⟨48, 8, .ro, 0x0⟩, ⟨46, 2, .ro, 0x0⟩, ⟨44, 2, .ro, 0x3⟩]⟩,
  -- BT_HADDR
  ⟨0x110, 1, 8, [⟨0, 64, .rw, 0x0⟩]⟩]

/-- The register maps at fixed offsets of the DRS, part 3. -/
def devRegs3 : List RegDef := [
  -- BT_CTL
  ⟨0x118, 1, 8, [⟨0, 1, .wo, 0x0⟩]⟩,
  -- AL_STAT
  ⟨0x1000, 1, 8, [⟨0, 13, .w1c, 0x0⟩]⟩,
  -- AL_ROUTE
  ⟨0x1008, 1, 8, [⟨48, 13, .rw, 0x1b00⟩, ⟨32, 13, .rw, 0x0⟩, ⟨16, 13, .rw, 0x0⟩, ⟨13, 3, .rw, 0x0⟩, ⟨0, 13, .rw, 0x1fff⟩]⟩,
  -- AL_HA_ADDR
  ⟨0x1010, 1, 8, [⟨0, 64, .rw, 0x0⟩]⟩,
  -- KD_PEND
  ⟨0x1018, 1, 8, [⟨0, 64, .w1c, 0x0⟩]⟩,
  -- HA_RIGHTS
  ⟨0x2000, 16, 8, [⟨2, 1, .rw, 0x0⟩, ⟨1, 1, .rw, 0x0⟩, ⟨0, 1, .rw, 0x0⟩]⟩,
  -- OTP_KEY
  ⟨0x2100, 6, 8, [⟨0, 64, .ro, 0x0⟩]⟩,
  -- OTP_KEY
  ⟨0x2140, 6, 8, [⟨0, 64, .ro, 0x0⟩]⟩,
  -- OTP_KEY
  ⟨0x2180, 6, 8, [⟨0, 64, .ro, 0x0⟩]⟩,
  -- OTP_KEY
  ⟨0x21c0, 6, 8, [⟨0, 64, .ro, 0x0⟩]⟩,
  -- OTP_STAGE
  ⟨0x2200, 6, 8, [⟨0, 64, .rw, 0x0⟩]⟩,
  -- OTP_STAT
  ⟨0x2240, 1, 8, [⟨63, 1, .ro, 0x0⟩, ⟨48, 8, .ro, 0x0⟩, ⟨16, 11, .ro, 0x0⟩, ⟨8, 1, .ro, 0x0⟩, ⟨4, 4, .ro, 0x0⟩, ⟨0, 4, .ro, 0x0⟩]⟩,
  -- OTP_CMD
  ⟨0x2248, 1, 8, [⟨5, 11, .wo, 0x0⟩, ⟨3, 2, .wo, 0x0⟩, ⟨0, 3, .wo, 0x0⟩]⟩,
  -- PMB_DEV
  ⟨0x2300, 8, 8, [⟨63, 1, .rw, 0x0⟩, ⟨56, 7, .rw, 0x0⟩, ⟨53, 3, .rw, 0x0⟩, ⟨32, 16, .ro, 0x0⟩, ⟨16, 16, .ro, 0x0⟩, ⟨0, 16, .ro, 0x0⟩]⟩,
  -- HA_STAT
  ⟨0x400000, 1, 8, [⟨60, 4, .w1c, 0x0⟩, ⟨32, 12, .ro, 0x0⟩, ⟨8, 6, .ro, 0x0⟩, ⟨0, 2, .ro, 0x0⟩]⟩,
  -- HA_ERR
  ⟨0x400008, 1, 8, [⟨48, 16, .rc, 0x0⟩, ⟨32, 16, .rc, 0x0⟩, ⟨16, 16, .rc, 0x0⟩, ⟨0, 16, .rc, 0x0⟩]⟩,
  -- HA_CFG
  ⟨0x400010, 1, 8, [⟨0, 4, .rw, 0xd⟩]⟩,
  -- HC_CTL
  ⟨0x400100, 1, 8, [⟨63, 1, .ro, 0x0⟩, ⟨48, 8, .ro, 0x0⟩, ⟨8, 8, .wo, 0x0⟩, ⟨0, 8, .ro, 0x0⟩]⟩,
  -- HC_ENTRY
  ⟨0x400108, 1, 8, [⟨0, 48, .rw, 0x0⟩]⟩,
  -- HC_FWADDR
  ⟨0x400110, 1, 8, [⟨0, 48, .rw, 0x0⟩]⟩,
  -- HC_FWCMD
  ⟨0x400118, 1, 8, [⟨63, 1, .ro, 0x0⟩, ⟨48, 8, .ro, 0x0⟩, ⟨44, 4, .ro, 0x0⟩, ⟨0, 1, .wo, 0x0⟩]⟩,
  -- HC_IP
  ⟨0x400200, 8, 16, [⟨0, 64, .w1c, 0x0⟩]⟩,
  -- HC_IE
  ⟨0x400208, 8, 16, [⟨0, 64, .rw, 0x0⟩]⟩,
  -- HCH_CFG
  ⟨0x401000, 32, 64, [⟨63, 1, .rw, 0x0⟩, ⟨62, 1, .rw, 0x0⟩, ⟨61, 1, .rw, 0x0⟩, ⟨60, 1, .wo, 0x0⟩, ⟨56, 4, .rw, 0x0⟩, ⟨52, 4, .rw, 0x0⟩, ⟨48, 3, .rw, 0x0⟩, ⟨0, 48, .rw, 0x0⟩]⟩,
  -- HCH_RPA
  ⟨0x401008, 32, 64, [⟨0, 48, .rw, 0x0⟩]⟩,
  -- HCH_PTR
  ⟨0x401010, 32, 64, [⟨32, 32, .ro, 0x0⟩, ⟨0, 32, .ro, 0x0⟩]⟩,
  -- HCH_STAT
  ⟨0x401018, 32, 64, [⟨63, 1, .w1c, 0x0⟩, ⟨62, 1, .w1c, 0x0⟩, ⟨61, 1, .w1c, 0x0⟩, ⟨60, 1, .w1c, 0x0⟩, ⟨59, 1, .ro, 0x0⟩, ⟨40, 8, .ro, 0x0⟩, ⟨16, 16, .ro, 0x0⟩, ⟨0, 16, .rc, 0x0⟩]⟩,
  -- HCH_HEAD
  ⟨0x401020, 32, 64, [⟨0, 64, .ro, 0x0⟩]⟩,
  -- HCH_LAST
  ⟨0x401028, 32, 64, [⟨0, 64, .ro, 0x0⟩]⟩,
  -- IO_STAT
  ⟨0xb000, 1, 8, [⟨63, 1, .w1c, 0x0⟩, ⟨62, 1, .w1c, 0x0⟩, ⟨61, 1, .ro, 0x0⟩, ⟨60, 1, .ro, 0x0⟩, ⟨59, 1, .ro, 0x0⟩, ⟨32, 16, .ro, 0x0⟩, ⟨16, 16, .ro, 0x0⟩]⟩]

/-- The register maps at fixed offsets of the DRS, part 4. DESIGN CHOICE (log entry 52): HCS_HI, HCS_LO, HCS_PAY0 to HCS_PAY3 and HCS_SRC
are RW; 18 R470 gives them no access code. -/
def devRegs4 : List RegDef := [
  -- HCS_HI
  ⟨0x402000, 8, 128, [⟨0, 64, .rw, 0x0⟩]⟩,
  -- HCS_LO
  ⟨0x402008, 8, 128, [⟨0, 64, .rw, 0x0⟩]⟩,
  -- HCS_PAY0
  ⟨0x402010, 8, 128, [⟨0, 64, .rw, 0x0⟩]⟩,
  -- HCS_PAY1
  ⟨0x402018, 8, 128, [⟨0, 64, .rw, 0x0⟩]⟩,
  -- HCS_PAY2
  ⟨0x402020, 8, 128, [⟨0, 64, .rw, 0x0⟩]⟩,
  -- HCS_PAY3
  ⟨0x402028, 8, 128, [⟨0, 64, .rw, 0x0⟩]⟩,
  -- HCS_SRC
  ⟨0x402030, 8, 128, [⟨0, 64, .rw, 0x0⟩]⟩,
  -- HCS_GO
  ⟨0x402038, 8, 128, [⟨63, 1, .ro, 0x0⟩, ⟨48, 8, .ro, 0x0⟩, ⟨1, 1, .wo, 0x0⟩, ⟨0, 1, .wo, 0x0⟩]⟩]

/-- The register maps at fixed offsets of the DRS. -/
def devRegs : List RegDef := devRegs1 ++ devRegs2 ++ devRegs3 ++ devRegs4

/-- The register maps inside a memory port window, part 1. -/
def portRegs1 : List RegDef := [
  -- MP_STAT
  ⟨0x0, 1, 8, [⟨63, 1, .w1c, 0x0⟩, ⟨62, 1, .w1c, 0x0⟩, ⟨61, 1, .rw, 0x0⟩, ⟨57, 4, .w1c, 0x0⟩, ⟨32, 13, .ro, 0x0⟩, ⟨12, 10, .ro, 0x0⟩, ⟨0, 3, .ro, 0x0⟩]⟩,
  -- MP_CTL
  ⟨0x8, 1, 8, [⟨32, 16, .rw, 0x18⟩, ⟨2, 1, .wo, 0x0⟩, ⟨1, 1, .wo, 0x0⟩]⟩,
  -- MP_LANES
  ⟨0x10, 1, 8, [⟨24, 8, .ro, 0x0⟩, ⟨16, 8, .ro, 0x0⟩, ⟨8, 8, .ro, 0x0⟩, ⟨0, 8, .ro, 0x0⟩]⟩,
  -- MP_ERR
  ⟨0x18, 1, 8, [⟨48, 16, .rc, 0x0⟩, ⟨32, 16, .rc, 0x0⟩, ⟨16, 16, .rc, 0x0⟩, ⟨0, 16, .rc, 0x0⟩]⟩,
  -- MP_RD
  ⟨0x20, 1, 8, [⟨0, 64, .rw, 0x0⟩]⟩,
  -- MP_WR
  ⟨0x28, 1, 8, [⟨0, 64, .rw, 0x0⟩]⟩,
  -- MR_BASE
  ⟨0x100, 8, 16, [⟨63, 1, .ro, 0x0⟩, ⟨60, 3, .ro, 0x0⟩, ⟨30, 18, .ro, 0x0⟩]⟩,
  -- MR_MAP
  ⟨0x108, 8, 16, [⟨32, 32, .ro, 0x0⟩, ⟨0, 32, .ro, 0x0⟩]⟩,
  -- NMU_STAT
  ⟨0x4000, 1, 8, [⟨63, 1, .w1c, 0x0⟩, ⟨62, 1, .w1c, 0x0⟩, ⟨61, 1, .rw, 0x0⟩, ⟨57, 4, .w1c, 0x0⟩, ⟨40, 7, .ro, 0x0⟩, ⟨32, 5, .ro, 0x0⟩, ⟨16, 6, .ro, 0x0⟩, ⟨3, 1, .ro, 0x0⟩, ⟨2, 1, .ro, 0x0⟩, ⟨1, 1, .ro, 0x0⟩, ⟨0, 1, .ro, 0x0⟩]⟩,
  -- NMU_CTL
  ⟨0x4008, 1, 8, [⟨8, 16, .rw, 0x0⟩, ⟨4, 4, .rw, 0x0⟩, ⟨1, 1, .wo, 0x0⟩, ⟨0, 1, .wo, 0x0⟩]⟩,
  -- NMU_ARRIVE
  ⟨0x4010, 1, 8, [⟨0, 64, .rw, 0x0⟩]⟩,
  -- NMU_SCOUT
  ⟨0x4018, 1, 8, [⟨0, 31, .rw, 0x0⟩]⟩,
  -- NMU_ERR
  ⟨0x4020, 1, 8, [⟨48, 16, .rc, 0x0⟩, ⟨32, 16, .rc, 0x0⟩, ⟨16, 16, .rc, 0x0⟩, ⟨0, 16, .rc, 0x0⟩]⟩,
  -- NMU_MAC
  ⟨0x4028, 1, 8, [⟨0, 64, .rw, 0x0⟩]⟩,
  -- NMU_RDB
  ⟨0x4030, 1, 8, [⟨0, 64, .rw, 0x0⟩]⟩,
  -- NMU_HEAD_HI
  ⟨0x4038, 1, 8, [⟨0, 64, .ro, 0x0⟩]⟩,
  -- NMU_HEAD_LO
  ⟨0x4040, 1, 8, [⟨0, 64, .ro, 0x0⟩]⟩,
  -- NMU_TAG
  ⟨0x4048, 1, 8, [⟨48, 16, .ro, 0x0⟩, ⟨32, 16, .ro, 0x0⟩, ⟨31, 1, .ro, 0x0⟩]⟩]

/-- The register maps inside a memory port window. -/
def portRegs : List RegDef := portRegs1

/-- The register maps inside a link port window, part 1. -/
def linkRegs1 : List RegDef := [
  -- FL_STAT
  ⟨0x0, 1, 8, [⟨63, 1, .w1c, 0x0⟩, ⟨62, 1, .w1c, 0x0⟩, ⟨61, 1, .rw, 0x0⟩, ⟨57, 4, .w1c, 0x0⟩, ⟨56, 1, .w1c, 0x0⟩, ⟨44, 12, .ro, 0x0⟩, ⟨3, 2, .ro, 0x0⟩, ⟨0, 3, .ro, 0x0⟩]⟩,
  -- FL_CTL
  ⟨0x8, 1, 8, [⟨2, 1, .wo, 0x0⟩, ⟨1, 1, .wo, 0x0⟩]⟩,
  -- FL_LANES
  ⟨0x10, 1, 8, [⟨8, 8, .ro, 0x0⟩, ⟨0, 8, .ro, 0x0⟩]⟩,
  -- FL_ERR
  ⟨0x18, 1, 8, [⟨48, 16, .rc, 0x0⟩, ⟨32, 16, .rc, 0x0⟩, ⟨16, 16, .rc, 0x0⟩, ⟨0, 16, .rc, 0x0⟩]⟩,
  -- FL_TXS
  ⟨0x20, 1, 8, [⟨0, 64, .rw, 0x0⟩]⟩,
  -- FL_RXS
  ⟨0x28, 1, 8, [⟨0, 64, .rw, 0x0⟩]⟩,
  -- FL_CRED
  ⟨0x30, 1, 8, [⟨27, 9, .ro, 0x0⟩, ⟨18, 9, .ro, 0x0⟩, ⟨9, 9, .ro, 0x0⟩, ⟨0, 9, .ro, 0x0⟩]⟩]

/-- The register maps inside a link port window. -/
def linkRegs : List RegDef := linkRegs1

/-- The register map that covers an offset, if any does (R10: undefined offsets are reserved). -/
def findReg (off : Nat) : List RegDef → Option RegDef
  | [] => none
  | r :: rs =>
    if r.base ≤ off ∧ off < r.base + r.count * r.stride ∧ (off - r.base) % r.stride = 0 then some r else findReg off rs

/-- The register map of a DRS offset outside the logical-core windows (R26). -/
def regAt (off : Nat) : Option RegDef :=
  if off < 0x200000 then findReg off devRegs
  else if off < 0x2A0000 then findReg ((off - 0x200000) % 0x8000) portRegs
  else if off < 0x300000 then none
  else if off < 0x400000 then findReg ((off - 0x300000) % 0x20000) linkRegs
  else if off < 0x1000000 then findReg off devRegs
  else if off < 0x2000000 then
    let w := (off - 0x1000000) % 0x200000
    if w < 0x20000 ∨ 0x140000 ≤ w then none else findReg ((w - 0x20000) % 0x20000) slotRegs
  else none

/-- The Reset column of a register map as one word (R7). -/
def RegDef.reset (r : RegDef) : Nat := r.fields.foldl (fun a f => a + f.reset * 2 ^ f.lo) 0

/-- What a register reads right after cold reset; 0 where no map defines the offset. -/
def resetWord (off : Nat) : Word := match regAt off with | none => 0 | some r => BitVec.ofNat 64 r.reset

/-- A field of a word. -/
def getF (w : Word) (f : Fld) : Nat := bits w.toNat f.lo f.len

/-- A word with one field replaced by the low bits of `v`. -/
def putF (w : Word) (f : Fld) (v : Nat) : Word :=
  BitVec.ofNat 64 (w.toNat - bits w.toNat f.lo f.len * 2 ^ f.lo + v % 2 ^ f.len * 2 ^ f.lo)

/-- A word with the field's bits replaced where a write of `new` by its access code changes them (R8). -/
def writeField (old new : Word) (f : RegField) : Word :=
  let o := bits old.toNat f.lo f.len
  let n := bits new.toNat f.lo f.len
  match f.acc with
  | .rw => putF old ⟨f.lo, f.len⟩ n
  | .wo => if f.len = 1 then old else putF old ⟨f.lo, f.len⟩ n
  | .w1c => putF old ⟨f.lo, f.len⟩ (o &&& (2 ^ f.len - 1 - n))
  | .w1s => putF old ⟨f.lo, f.len⟩ (o ||| n)
  | _ => old

end Sys2Proof.Machine
end

