-- ==== Sys2Proof/Machine/State.lean ====
section
/-!
DEFINITION. Machine/State.lean: the state of the block as plain data, the reasons a step can stop, and the state right
after reset. Registers of the register maps stand in `drs` by DRS offset; whatever the spec describes as a queue, a
buffer, a table or a memory has a field of its own, and register fields that report it are computed from it.
-/

namespace Sys2Proof.Machine

/-! ## Packets on the planes of the spine (01 R18, R19; 09 R244) -/

/-- Who sends or receives a packet (01 R18, 09 R236). Cores are named by logical id. -/
inductive Endpoint where
  | core (id : Nat)
  | host (a : Nat)
  | nmu (n : Nat)
  | cn (c : Nat)
  | port (p : Nat)
  | link (l : Nat)
  | sector (sec : Nat)
  | attach
  | keep
  deriving DecidableEq, Repr

/-- The three planes (01 R18). -/
inductive Plane where
  | data | request | reply
  deriving DecidableEq, Repr

/-- A message in flight (09 R236, R241). `kind` and `sid` name the sender; `cx` is its context (0 main, 1 handler) and
`entry` its send-buffer entry; `op` is the opcode of the command. -/
structure Msg where
  type : Nat
  pay : List Word
  rq : Bool
  rch : Nat
  kind : Nat
  sid : Nat
  cx : Nat
  fleet : Nat
  status : Nat
  tag : Nat
  user : Nat
  entry : Nat
  op : Nat
  retry : Bool
  deriving DecidableEq, Repr

/-- A request to a memory port controller (11 R297): part of one 256-byte block at a physical address. `alloc` asks the
sector to allocate the line at virtual address `va` (08 R218); `pass` is the passage that a BOUNDED request is metered for
(14 R384). -/
structure MemReq where
  write : Bool
  pa : Nat
  va : Nat
  len : Nat
  bytes : List Byte
  prio : Nat
  bounded : Bool
  fleet : Nat
  alloc : Bool
  pass : Nat
  deriving DecidableEq, Repr

/-- What a packet carries. -/
inductive Payload where
  /-- Data of a fetch or local copy, on its way to the write port of the core (08 R213): the bytes, or a status. -/
  | xferData (xid : Nat) (status : Nat) (bytes : List Byte)
  /-- A put or convoy put (08 R197): bytes for the destination's Tile Store, and its tally. -/
  | put (xid addr : Nat) (bytes : List Byte) (tally : Option Nat)
  /-- A write-out or read on its way to a memory port (08 R197, 11 R297). -/
  | mem (xid : Nat) (req : MemReq)
  /-- The delta of a PROTECTED write, on its way to the parity port; `xid` names the write that `to_` waits for
  (11 R305). -/
  | delta (to_ : Endpoint) (xid blk : Nat) (bytes : List Byte)
  /-- The far end's acknowledgement of a put or write-out (08 R213). -/
  | xferAck (xid status : Nat)
  /-- A convoy credit (08 R208). -/
  | credit (slot count : Nat)
  /-- REL signals (10 R272). `ks`, `q` and `t` name the kernel run, the queue and the ticket of the REL. -/
  | tallySig (ks q t scope tally value : Nat)
  | wordSig (ks q t scope space addr value : Nat)
  /-- A message, its acknowledgement, refusal and wake (09 R246, R247). -/
  | msg (ch : Nat) (m : Msg)
  | admission (ch entry : Nat)
  | refusal (ch entry : Nat) (final : Nat) (m : Msg)
  | wake (ch : Nat)
  /-- A bulk multicast packet for one member and its acknowledgement (09 R255). -/
  | bulk (xid addr : Nat) (bytes : List Byte) (tally : Option Nat)
  | bulkAck (xid status : Nat)
  /-- A contribution to a combining node, and a result packet and its acknowledgement (09 R257, R258). -/
  | contrib (gen off : Nat) (bytes : List Byte)
  | result (gen addr : Nat) (bytes : List Byte) (tally : Option Nat)
  | resultAck (gen : Nat)
  /-- Bytes an NMU, host core or host attach port delivers into a Tile Store, and the tally it advances (12 R323, 18 R462). -/
  | deliver (tag addr : Nat) (bytes : List Byte) (tally : Option Nat)
  /-- Its acknowledgement, with the count of its bytes. -/
  | deliverAck (tag status n : Nat)
  /-- An SGD scout report on its way to the home NMU: fleet, tag, parity, the address of the record and the value (12 R331). -/
  | scout (fleet tag par scale value : Nat)
  /-- A contribution or result from a Filic link, with its node, tag and block and the physical address of the block (13 R363). -/
  | red (isResult : Bool) (snode tag g pa : Nat) (bytes : List Byte)
  deriving DecidableEq, Repr

/-- One packet in flight; packets of one source, destination and plane arrive in order (01 R19). -/
structure Packet where
  plane : Plane
  src : Endpoint
  dst : Endpoint
  body : Payload
  deriving DecidableEq, Repr

/-! ## Core slots -/

/-- A hardware context of a control core (07 R171): its pc and x1 to x31. -/
structure Ctx where
  pc : Word
  x : Sparse Word
  deriving DecidableEq, Repr

/-- The machine-mode CSRs of the main context (07 R170); mip is computed. -/
structure Csrs where
  mie : Bool
  mpie : Bool
  mtvec : Word
  mieMask : Nat
  mepc : Word
  mcause : Word
  mtval : Word
  mscratch : Word
  instret : Word
  deriving DecidableEq, Repr

/-- How far an accepted command has come (07 R184, R187; 10 R271, R276). -/
inductive Phase where
  /-- Accepted and checked, and its effect not yet made: it waits for earlier commands (03 R91, 05 R117, R118, 06 R138, 10 R265). -/
  | waiting
  /-- Its effect is made; completion is to be counted; `elems` is added to VE_ELEM then (06 R498). -/
  | working (elems : Nat)
  /-- A pass marker not yet passed (07 R187). -/
  | marker (w : Nat)
  /-- A REL whose wait set is not met; `streams` lists the (slot, arm serial) pairs an FQ REL waits for (10 R271). -/
  | rel (streams : List (Nat × Nat))
  /-- A REL whose signal is sent and not acknowledged; `walk` is the status of the last failed walk, 0 for none (10 R278). -/
  | relSent (walk : Nat)
  /-- A TWAIT or ACQ holding the queue, with the descriptor it has read; `walk` as above (10 R273, R276). -/
  | held (walk : Nat) (desc : List Byte)
  /-- A TWAIT or ACQ whose condition has held, with its descriptor; it completes next (10 R276). -/
  | met (desc : List Byte)
  | done
  deriving DecidableEq, Repr

/-- An entry of a queue: its ticket, its word and, for a WPT, its waypoint number (07 R179, R186). -/
structure Entry where
  ticket : Nat
  word : Cmd
  wpt : Nat
  deriving DecidableEq, Repr

/-- An accepted entry. -/
structure Inflight where
  entry : Entry
  phase : Phase
  deriving DecidableEq, Repr

/-- The execute queue or the fetch queue (07 R181 to R185). STOP, STOP_STATUS and STOP_OP are held in XQ_STAT and
FQ_STAT. -/
structure Queue where
  onchip : List Entry
  ringHead : Nat
  ringLen : Nat
  issued : Nat
  wptIn : Nat
  inflight : List Inflight
  done : Nat
  deriving DecidableEq, Repr

def Queue.empty : Queue := ⟨[], 0, 0, 0, 0, [], 0⟩

/-- Tile halt (05 R125, R129). -/
inductive HaltPhase where
  | running | halting | halted
  deriving DecidableEq, Repr

/-- How the present kernel is ending (07 R194, R195): not at all, by NCX.KEND, or as an abort would, with a status;
`byAbort` tells a written ABORT from an end by a trap. -/
inductive Ending where
  | no
  | kend (status : Nat)
  | stop (status : Nat) (byAbort : Bool)
  deriving DecidableEq, Repr

/-- The drain's held parameters (03 R87): the 32-byte block and the scale values, FP32 patterns; one for TILE
granularity, 128 for LANE, none where the scale is disabled. -/
structure Held where
  block : List Byte
  dr : List Nat
  dc : List Nat
  deriving DecidableEq, Repr

/-- R72's defaults: both scales disabled, Q = 1.0, SUM_EN = 0. -/
def Held.default : Held := ⟨List.replicate 8 0 ++ [0, 0, 0x80, 0x3F] ++ List.replicate 20 0, [], []⟩

/-- The tag of an operand-cache line (05 R120). -/
inductive OpcTag where
  | ts (line : Nat)
  | of (line : Nat)
  deriving DecidableEq, Repr

/-- Stream states (08 R209). -/
inductive StreamState where
  | idle | running | halting | halted | faulted | done
  deriving DecidableEq, Repr

/-- A stream's position (08 R202): `cnt` holds the open levels' counts, outermost first; `skip` is how many bytes of the
XFER at `pc` were issued before a halt split it. -/
structure Pos where
  pc : Nat
  src : Word
  dst : Word
  cnt : List Nat
  skip : Nat
  deriving DecidableEq, Repr

/-- A transfer emitted and not yet issued: where the chart stood, its addresses, its length and the byte count of the
run before it. -/
structure Emit where
  pos : Pos
  src : Word
  dst : Word
  len : Nat
  off : Nat
  deriving DecidableEq, Repr

/-- A stream slot (08 R196, R200, R209). `ser` is the serial number of the arm or re-arm that this run belongs to. -/
structure Stream where
  state : StreamState
  ser : Nat
  insts : List Word
  bases : List Word
  header : List Byte
  pos : Pos
  stop : Bool
  emitted : List Emit
  emittedBytes : Nat
  issuedBytes : Nat
  tokens : Nat
  clim : Nat
  freed : Nat
  prevTiles : Nat
  arrBase : Word
  deadline : Nat
  late : Bool
  walking : Bool
  fault : Nat
  shut : List Nat
  deriving DecidableEq, Repr

def Pos.zero : Pos := ⟨0, 0, 0, [], 0⟩
def Stream.idle : Stream := ⟨.idle, 0, [], [], [], Pos.zero, false, [], 0, 0, 0, 0, 0, 0, 0, 0, false, false, 0, []⟩

/-- The kinds of transfer (08 R197). -/
inductive XferKind where
  | fetch | copy | put | writeOut
  deriving DecidableEq, Repr

/-- A transfer outstanding (08 R213): its identity, its stream and run (32 and 33: the EM write of an XQ or FQ REL with
that ticket; 34 and 35: the EM read of an ACQ), the Tile Store address it lands at or the far
end, the tally its landing or acknowledgement advances at the own core, the narrowest scope whose FQ REL waits for it
(10 R269), whether returning data is dropped (08 R212), and the translation it uses: the size of its page (0: none), its fleet and
virtual address, whether an invalidation removed it since (11 R311), and of a BOUNDED transfer its passage, else 0 (14 R391). -/
structure Out where
  id : Nat
  stream : Nat
  ser : Nat
  kind : XferKind
  len : Nat
  dst : Nat
  tally : Option Nat
  scope : Nat
  far : Endpoint
  dropped : Bool
  xl : Nat
  fleet : Nat
  va : Nat
  inv : Bool
  pass : Nat
  deriving DecidableEq, Repr

/-- An entry of a send buffer (09 R242): the command, its payload, the destinations (core and channel, or the like) whose
acknowledgement is awaited, the copies refused and held for a wake, and those of them whose wake has come while the sender still
awaits an answer from the same channel. -/
structure SendEntry where
  id : Nat
  word : Cmd
  msg : Msg
  waiting : List (Endpoint × Nat)
  refused : List (Endpoint × Nat)
  woken : List (Endpoint × Nat)
  deriving DecidableEq, Repr

/-- A bulk multicast (09 R255): bytes injected so far, packets not yet acknowledged by every member, and whether one
was dropped. -/
structure Bulk where
  id : Nat
  cx : Nat
  word : Cmd
  pos : Nat
  out : List (Nat × List Endpoint)
  failed : Bool
  deriving DecidableEq, Repr

/-- The scope checker's record of a releasing REL (10 R283). -/
structure SckRec where
  scope : Nat
  src : Nat
  deriving DecidableEq, Repr

/-- One physical core slot (01 R15, R16). `opc` and `opcB` are the operand cache's lines fetched for the A and the B side (05 R120,
R121), `latchA` and `latchB` the bytes that the row and the column feeders drove last; `tails0` and `tails1` what the element groups
of the converting commands in progress may still bring to SCOUT0 and SCOUT1 (02 R64), largest first, and `tailBy` each such command's,
by its ticket and its scout (true: SCOUT1); `notes` the conditions, by ticket, that wait for an earlier command before they are recorded
in NUM_STAT (R59); `begun` the commands that had begun when the tile halt was requested (06 R164); `hwait` tells that the handler
context may have no instruction ready (07 R172), `cycle` is the counter of 07 R167. -/
structure Slot where
  ts : Sparse Byte
  tsGen : Nat
  imem : Sparse Byte
  acc0 : Sparse (BitVec 33)
  acc1 : Sparse (BitVec 33)
  active : Bool
  layout : Nat
  held : Held
  ofBytes : Sparse Byte
  ofBad : List Nat
  ofUse : BitVec 64
  acc0Use : Bool
  acc1Use : Bool
  opc : List OpcTag
  opcB : List OpcTag
  latchA : Sparse Byte
  latchB : Sparse Byte
  tails0 : List Nat
  tails1 : List Nat
  tailBy : List (Nat × Bool × List Nat)
  notes : List (Nat × Word)
  begun : List Nat
  halt : HaltPhase
  haltByKernel : Bool
  firstFull : Bool
  save : Nat
  vrSave : Nat
  v : Sparse Byte
  main : Ctx
  hand : Ctx
  hrun : Bool
  hwait : Bool
  cycle : Word
  csrs : Csrs
  istall : Bool
  waitq : Bool
  wfi : Bool
  resvMain : Option Nat
  resvHand : Option Nat
  kl : List Word
  kser : Nat
  passage : Nat
  ending : Ending
  xq : Queue
  fq : Queue
  wptIssued : Nat
  hpend : Sparse Nat
  streams : Sparse Stream
  outs : List Out
  nextXfer : Nat
  nextSer : Nat
  rrLast : Sparse Nat
  sendM : List SendEntry
  sendH : List SendEntry
  nextEntry : Nat
  bulks : List Bulk
  chWait : Sparse (List (Nat × Nat))
  sckTally : Sparse SckRec
  sckWord : List (Nat × SckRec)
  deriving DecidableEq, Repr

def Csrs.reset : Csrs := ⟨false, false, 0, 0, 0, 0, 0, 0, 0⟩
def Ctx.reset : Ctx := ⟨0, []⟩

/-- A slot after cold reset (03 R72, 05 R111, 06 R137, 07 R183, 08 R196). -/
def Slot.reset : Slot where
  ts := []
  tsGen := 0
  imem := []
  acc0 := []
  acc1 := []
  active := false
  layout := 0
  held := Held.default
  ofBytes := []
  ofBad := []
  ofUse := 0
  acc0Use := false
  acc1Use := false
  opc := []
  opcB := []
  latchA := []
  latchB := []
  tails0 := []
  tails1 := []
  tailBy := []
  notes := []
  begun := []
  halt := .running
  haltByKernel := false
  firstFull := false
  save := 0
  vrSave := 0
  v := []
  main := Ctx.reset
  hand := Ctx.reset
  hrun := false
  hwait := false
  cycle := 0
  csrs := Csrs.reset
  istall := false
  waitq := false
  wfi := false
  resvMain := none
  resvHand := none
  kl := []
  kser := 0
  passage := 0
  ending := .no
  xq := Queue.empty
  fq := Queue.empty
  wptIssued := 0
  hpend := []
  streams := []
  outs := []
  nextXfer := 0
  nextSer := 1
  rrLast := []
  sendM := []
  sendH := []
  nextEntry := 0
  bulks := []
  chWait := []
  sckTally := []
  sckWord := []

/-! ## Sectors -/

/-- A line of a sector cache (08 R219). -/
structure CacheLine where
  fleet : Nat
  line : Nat
  bytes : List Byte
  deriving DecidableEq, Repr

/-- A translation held by a translation cache (11 R310): fleet, page number, page size code and page-table entry. -/
structure TlbEntry where
  fleet : Nat
  vpn : Nat
  big : Bool
  pte : Word
  deriving DecidableEq, Repr

/-- A sector polder (01 R16): pool, the warm reset that
left each of its MiB undefined (18 R477; 0 for none), words in uncorrectable error (17 R437; number = address / 8), sector cache
with the most recently used line of a set first, and translation cache. -/
structure Sector where
  pool : Sparse Byte
  poolGen : Sparse Nat
  bad : List Nat
  cache : Sparse (List CacheLine)
  tlb : Sparse (List TlbEntry)
  deriving DecidableEq, Repr

def Sector.reset : Sector := ⟨[], [], [], [], []⟩

/-- A combining node (09 R256 to R259): accumulation buffer, queued contributions, bytes delivered and result packets
not acknowledged, and the polders that contributed in the current generation. -/
structure CombNode where
  buf : Sparse Byte
  queue : List (Nat × Nat × Nat × Nat × List Byte)
  outstanding : Nat
  contributors : List Nat
  deriving DecidableEq, Repr

def CombNode.reset : CombNode := ⟨[], [], 0, []⟩

/-! ## Memory ports (11) -/

/-- For whom a port reads a block from its stack: a transfer (the endpoint that asked, its number, the bytes wanted, and the
sector, fleet and line to fill), a unit that waits for the block (a walker, a Near-Memory Unit, the host side, a partial write),
the prefetch of a Near-Memory Unit (12 R323), or the scrubber. -/
inductive ReadFor where
  | xfer (to_ : Endpoint) (xid lo len : Nat) (fill : Option (Nat × Nat × Nat))
  | unit
  | pre (n blk : Nat)
  | scrub
  deriving DecidableEq, Repr

/-- A read queued for the stack since time `at_`, or outstanding there (11 R292, R299): its class code (by class before ageing: 0
BOUNDED, 1 walker and parity, 2 to 5 by priority, 6 scrub; a BOUNDED one carries its priority and passage too) and passage; `replays` counts the replays on its path (14 R391). -/
structure PRead where
  tag : Nat
  blk : Nat
  cls : Nat
  pass : Nat
  at_ : Nat
  replays : Nat
  who : ReadFor
  deriving DecidableEq, Repr

/-- A write queued for the stack since time `at_`, or sent and not yet reported complete (11 R290, R293): its block's bytes before
and after it, its class and passage as of a read. -/
structure PWrite where
  tag : Nat
  blk : Nat
  old : List Byte
  bytes : List Byte
  cls : Nat
  pass : Nat
  at_ : Nat
  deriving DecidableEq, Repr

/-- An entry of a walk cache (11 R310): the entry of a level-1 to level-3 table. -/
structure WalkEntry where
  fleet : Nat
  level : Nat
  index : Nat
  pte : Word
  deriving DecidableEq, Repr

/-- A lane swap announced and not yet in effect (11 R295, 13 R350): direction, spare, lane, the frame it takes effect at. -/
structure Swap where
  tx : Bool
  spare : Nat
  lane : Nat
  atSeq : Nat
  deriving DecidableEq, Repr

/-- A memory port: its link, its controller and its walker. `rxSeq` is the last frame received in order; `kept` holds the
last frames sent, `wire` what the lanes carried last; `wrHeld` are writes that wait for their delta (11 R305), `swaps` lane swaps to
announce, `moves` those announced; `halfRx` and `halfTx` the directions at half width (11 R296); `meter` holds, by passage, the
bytes it may read and write now and the time they were counted (14 R384). -/
structure Port where
  nextTag : Nat
  wire : List Byte
  txSeq : Nat
  rxSeq : Nat
  nak : Bool
  kept : List (Nat × List Byte)
  resend : List Nat
  rdQ : List PRead
  rdOut : List PRead
  wrQ : List PWrite
  wrOut : List PWrite
  wrHeld : List PWrite
  rebuilds : List (Nat × ReadFor)
  swaps : List Swap
  moves : List Swap
  halfRx : Bool
  halfTx : Bool
  meter : Sparse (Nat × Nat × Nat)
  fails : Nat
  fast : Bool
  scrub : Nat
  wcache : List WalkEntry
  deriving DecidableEq, Repr

/-- A port after reset; the first frame sent has SEQ 0 (11 R294). -/
def Port.reset : Port where
  nextTag := 0
  wire := []
  txSeq := 0
  rxSeq := 1023
  nak := false
  kept := []
  resend := []
  rdQ := []
  rdOut := []
  wrQ := []
  wrOut := []
  wrHeld := []
  rebuilds := []
  swaps := []
  moves := []
  halfRx := false
  halfTx := false
  meter := []
  fails := 0
  fast := false
  scrub := 0
  wcache := []

/-! ## Requests that leave the block -/

/-- The translation that an access uses: the size of its page (0: none), its fleet and virtual address (11 R311). -/
structure XlUse where
  size : Nat
  fleet : Nat
  va : Nat
  deriving DecidableEq, Repr

def XlUse.none : XlUse := ⟨0, 0, 0⟩

/-- A host-memory access waiting for credits or its completion (18 R462 to R465): the transfer it serves, which wants `want`
bytes from byte `lo` on; of a read the sector, fleet and line to fill, of a write the sector, fleet and address of the copy to
update (08 R219); its translation, and whether an invalidation removed that since (11 R311). -/
structure HmReq where
  write : Bool
  addr : Nat
  len : Nat
  bytes : List Byte
  core : Nat
  xid : Nat
  lo : Nat
  want : Nat
  fill : Option (Nat × Nat × Nat)
  sent : Bool
  tag : Nat
  due : Nat
  xl : XlUse
  inv : Bool
  deriving DecidableEq, Repr

/-- An access to a PARTNER page waiting for a Filic frame, or for its answer (11 R313, 13 R358); `fill`, `xl` and `inv` as of a
host-memory access. -/
structure RemoteReq where
  node : Nat
  link : Nat
  write : Bool
  cnv : Bool
  pa : Nat
  len : Nat
  bytes : List Byte
  core : Nat
  xid : Nat
  fill : Option (Nat × Nat × Nat)
  sent : Bool
  tag : Nat
  xl : XlUse
  inv : Bool
  deriving DecidableEq, Repr

/-! ## Filic links (13) -/

/-- A slot of a Filic frame waiting to be sent, or carried: TYPE, nodes, the low 36 bits of its descriptor, its data (13 R352),
and the port whose buffer it occupies while it waits to be forwarded (13 R356). -/
structure LSlot where
  type : Nat
  dnode : Nat
  snode : Nat
  low : Nat
  data : List Byte
  via : Option Nat
  deriving DecidableEq, Repr

/-- A WR entry received and not yet matched by its WDATA slot (13 R353). -/
structure WrEntry where
  snode : Nat
  pa : Nat
  off : Nat
  len : Nat
  deriving DecidableEq, Repr

/-- A remote access that this cluster serves (13 R356): its number at the memory port, the node, whether it is a write, the tag and
class of a read, and how it ended. -/
structure Serve where
  xid : Nat
  snode : Nat
  write : Bool
  tag : Nat
  cnv : Bool
  ended : Option Nat
  deriving DecidableEq, Repr

/-- A Filic port (13 R344 to R358). The queues hold slots by virtual channel (0 REQ, 1 RPL, 2 RED, 3 CNV); `owed` is the
buffer space to return, `deficit` and `turn` the round robin's state; `ctl` holds control entries for nodes, `wack` the writes
completed and not yet reported, `wackBad` those refused; `wrIn` WR entries whose data has not come; `serve` the remote accesses at
the memory ports, numbered from `nextXid`; `swaps` and `moves` lane swaps to announce and announced, `halfRx` and `halfTx` the
directions at half width (13 R350); `fresh`: it has not carried a frame since reset. -/
structure Link where
  wire : List Byte
  txSeq : Nat
  rxSeq : Nat
  nak : Bool
  kept : List (Nat × List Byte)
  resend : List Nat
  queue : Sparse (List LSlot)
  owed : Sparse Nat
  deficit : Sparse Nat
  ctl : List (Nat × Word)
  wack : Sparse Nat
  wackBad : Sparse Nat
  wrIn : List WrEntry
  serve : List Serve
  nextXid : Nat
  swaps : List Swap
  moves : List Swap
  halfRx : Bool
  halfTx : Bool
  fails : Nat
  fresh : Bool
  turn : Nat
  deriving DecidableEq, Repr

def Link.reset : Link where
  wire := []
  txSeq := 0
  rxSeq := 1023
  nak := false
  kept := []
  resend := []
  queue := []
  owed := []
  deficit := []
  ctl := []
  wack := []
  wackBad := []
  wrIn := []
  serve := []
  nextXid := 0
  swaps := []
  moves := []
  halfRx := false
  halfTx := false
  fails := 0
  fresh := true
  turn := 0

/-! ## Near-Memory Units (12) -/

/-- The parameter block of an NMU command (12 R321). -/
structure PBlk where
  opa : Nat
  opb : Nat
  opc : Nat
  n : Nat
  k : Nat
  str : Nat
  p1 : Nat
  p2 : Nat
  step : Nat
  x : Nat
  dkind : Nat
  did : Nat
  dgen : Nat
  mode : Nat
  daddr : Nat
  last : Nat
  deriving DecidableEq, Repr

/-- A command that the operation engine runs: its message, block and fleet, the index of the next unit and how many are committed, its status, bytes
delivered and delivery packets not yet acknowledged, and what its record reports (12 R323, R324): the scout over its
elements, the first NF, RNG and WRAP, the scalar result, the scale entry in use, the bits of SCAN not yet delivered, whether its
scout has gone to its home, and whether an abort came after its commit point. -/
structure Run where
  msg : Msg
  blk : PBlk
  fleet : Nat
  next : Nat
  doneU : Nat
  status : Nat
  sent : Nat
  outstanding : Nat
  scout : Nat
  nf : Option Nat
  rng : Option Nat
  wrap : Option Nat
  scalar : Nat
  scale : Word
  hold : List Byte
  reported : Bool
  already : Bool
  deriving DecidableEq, Repr

/-- An open scale collection at a home NMU (12 R331). -/
structure Collect where
  fleet : Nat
  tag : Nat
  par : Nat
  scale : Nat
  got : Nat
  max : Nat
  deriving DecidableEq, Repr

/-- A contribution held in a mooring: share block, rank, bytes (12 R338). -/
structure Moored where
  b : Nat
  r : Nat
  bytes : List Byte
  deriving DecidableEq, Repr

/-- A contribution or result sent and not yet admitted, or refused and waiting for a wake: block, rank it goes to, kind;
`refused` is none, or the cause (3: the link was lost), or 4: it may be sent again (13 R362, R364). -/
structure RedSent where
  g : Nat
  rank : Nat
  isResult : Bool
  refused : Option Nat
  deriving DecidableEq, Repr

/-- A tag slot (12 R338): the TAGRES it serves, the blocks of its share, the lowest incomplete one, running sums and next
ranks of blocks in the window, moorings, blocks completed beyond `wb`, the share blocks considered for sending (each to the one rank that owns it)
and the sums to send as (block, rank), what was sent and is not admitted, the nodes waiting for WINDOW, its end, and whether an
abort came after its commit point (12 R339, R340). -/
structure TagSlot where
  msg : Msg
  tag : Nat
  fleet : Nat
  blk : PBlk
  share : List Nat
  wb : Nat
  sums : Sparse (List Byte)
  nexts : Sparse Nat
  moor : List Moored
  doneB : List Nat
  sendPos : Nat
  results : List (Nat × Nat)
  sent : List RedSent
  waiters : List Nat
  fin : Option Run
  status : Nat
  ended : Bool
  already : Bool
  deriving DecidableEq, Repr

/-- A Near-Memory Unit (12). `tags` is by tag slot; `pre` is the prefetch window (12 R316, R323): the blocks of the own stack that
it holds, with those still to come. -/
structure Nmu where
  staging : Sparse Byte
  intake : List Msg
  wait : List (Nat × Nat)
  run : Option Run
  tags : Sparse TagSlot
  collects : List Collect
  tlb : Sparse (List TlbEntry)
  pre : Sparse (List Byte)
  preAsked : List Nat
  deriving DecidableEq, Repr

def Nmu.reset : Nmu := ⟨[], [], [], none, [], [], [], [], []⟩

/-- A block that has come from its stack for a unit: its status and bytes (11 R304), and whether the event in progress has used it. -/
structure Got where
  stack : Nat
  blk : Nat
  status : Nat
  bytes : List Byte
  used : Bool
  deriving DecidableEq, Repr

/-! ## The keep polder: Reckoner, Compass, Zenen, repair, Logbook, non-volatile store (14 to 17) -/

/-- An event report of a unit, on its way to the Logbook (17 R457): CODE, SEV, source polder, UKIND, UNIT, FLEET, STATUS
and DETAIL. -/
structure Report where
  code : Nat
  sev : Nat
  src : Nat
  ukind : Nat
  unit : Nat
  fleet : Nat
  status : Nat
  detail : List Word
  deriving DecidableEq, Repr

/-- A held passage (14 R377 to R389), in the block of its table entry: cores, ports, reservations, power, deadline, each
core's largest RATE, and setpoint and class of the footprint's polders at admission; of its current run the kernels that have not committed (logical core and kernel serial), and whether it
has missed its deadline or a kernel of it was aborted. What PT_ID, PT_TIME and PT_START show stands in those registers. -/
structure Passage where
  cores : List Nat
  ports : List Nat
  rdRes : Nat
  wrRes : Nat
  power : Nat
  deadline : Nat
  rates : List (Nat × Nat)
  paces : List (Nat × Nat × Nat)
  running : List (Nat × Nat)
  missed : Bool
  aborted : Bool
  deriving DecidableEq, Repr

/-- A request for power that waits (15 R398). -/
structure GrantReq where
  polder : Nat
  quanta : Nat
  deriving DecidableEq, Repr

/-- A part of a configuration change (16 R416, R424 to R426). Polders are numbered by 01 R16; `setpoint` carries VSET and
CLASS, `split` the cache part in MiB and the owner, `spine` two endpoints and the half, `route` the link polders of the old and
the new port. -/
inductive Change where
  | power
  | reckoner
  | service
  | linkIn (l : Nat)
  | setpoint (p vset cls : Nat)
  | coreFleet (id fleet : Nat)
  | split (sec cache owner : Nat)
  | linkCfg (polder : Nat)
  | ranks (fleet : Nat)
  | spine (a b half : Nat)
  | route (pa pb : Nat)
  | group (g : Nat)
  | comb (c : Nat)
  | linkOut (l : Nat)
  | memOut (p : Nat)
  deriving DecidableEq, Repr

/-- Changes made together, in one closure where they need one (16 R426). -/
structure PlanStep where
  phase : Nat
  what : List Change
  deriving DecidableEq, Repr

/-- The configuration engine (16): image buffer, section bodies in force, the steps still to be made, whether the commit
point is passed, the polders that the closure in progress closes, its time and the passages charged for it; the last pilot
image verified, as first address and length of its body (18 R472); the key slot that signed the image in the buffer, and
those that signed what is in force. -/
structure Zen where
  buf : List Byte
  force : Sparse (List Byte)
  plan : List PlanStep
  committed : Bool
  closing : List Nat
  cost : Nat
  charged : List Nat
  fw : Option (Nat × Nat)
  signer : Nat
  signers : List Nat
  deriving DecidableEq, Repr

/-- A watch relief in progress (17 R443, R444): logical core, slots X and Y, copy passes, dirty lines (instruction memory from
65 536 on); whether the stop is ordered, and whether the tile was halted before it. -/
structure Relief where
  lid : Nat
  x : Nat
  y : Nat
  passes : Nat
  dirty : List Nat
  pause : Bool
  was : Bool
  since : Nat
  deriving DecidableEq, Repr

/-- A sounding in progress (17 R439, R440); `unq`: it is the first step of UNQUARANTINE (R451). -/
structure Sounding where
  polder : Nat
  since : Nat
  unq : Bool
  deriving DecidableEq, Repr

/-- A relief or sounding that waits (17 R441): of a polder, or of a logical core. -/
structure Waiting where
  relief : Bool
  what : Nat
  since : Nat
  late : Bool
  deriving DecidableEq, Repr

/-- The repair engine (17): retired slots; ARRAY words of the map where they name a row or column; SRAM entries in use;
corrected errors per SRAM row in this sounding period; rows queued for repair; work in progress and waiting; of each sector's
rotation, the next slot and the slot sounded in place. Bindings are in the sectors (`bind`). -/
structure Repair where
  retired : List Nat
  array : Sparse Nat
  srams : List Word
  rowCe : List (Word × Nat)
  queued : List Word
  relief : Option Relief
  soundings : List Sounding
  waiting : List Waiting
  turn : Sparse (Nat × Nat)
  deriving DecidableEq, Repr

/-- A Logbook record (17 R456, R457): number, time, event, repeats; `kept`: 0 not yet persisted, 1 persisted, 2 never. -/
structure LogRec where
  seq : Nat
  time : Nat
  rep : Report
  again : Nat
  kept : Nat
  deriving DecidableEq, Repr

/-- A berm save (15 R404): the writes still to be made, as (offset, bytes), the records to be read back, and the SEQ of its berm
record. -/
structure Berm where
  writes : List (Nat × List Byte)
  check : List (Nat × List Byte)
  seq : Nat
  deriving DecidableEq, Repr

/-! ## Host complex and pins (18, 19) -/

/-- A line of the host-complex caches (18 R468): its address in 64-byte units, bytes, whether it is dirty, the host core that
used it last. -/
structure HLine where
  line : Nat
  bytes : List Byte
  dirty : Bool
  hart : Nat
  deriving DecidableEq, Repr

/-- What a host core's last access came to (18 R467): a value, or a fault of its kind. -/
structure HostRes where
  fault : Bool
  value : Word
  deriving DecidableEq, Repr

/-- An inbound packet of the host attach port whose completion is owed (18 R462): OP 0x03 or 0x07 and its tag; the numbers of
the parts it waits for, with the place and length in its data of those that a read waits for; data and status so far. -/
structure NprIn where
  op : Nat
  tag : Nat
  waits : List (Nat × Nat × Nat)
  data : List Byte
  status : Nat
  deriving DecidableEq, Repr

/-- The 1149.1 port's instructions (18 R483). -/
inductive JtagInstr where
  | bypass | idcode | sample | extest
  deriving DecidableEq, Repr

/-- The test logic: instruction, the register between TDI and TDO, the boundary cells' preloaded values. -/
structure Jtag where
  ir : JtagInstr
  dr : Word
  cells : Word
  deriving DecidableEq, Repr

/-! ## The block -/

/-- A lease (17 R449): the polder it is held by, its kind, and what it names. -/
structure Lease where
  polder : Nat
  kind : Nat
  a : Nat
  b : Nat
  c : Nat
  d : Nat
  deriving DecidableEq, Repr

/-- The configuration in force that no register holds (16 R416): fleets of the cores, pool split and owner, own node, route
table, node expected at each port, round-robin weights of a port (REQ, RED, CNV), each fleet's own rank and the nodes of
its ranks, the half each endpoint pair is pinned to, the ports opened to partner accesses, and the ports in service. -/
structure Cfg where
  coreFleet : Sparse Nat
  poolMiB : Sparse Nat
  poolOwner : Sparse Nat
  ownNode : Nat
  routes : Sparse Nat
  peers : Sparse Nat
  weights : Sparse (List Nat)
  ranks : Sparse (Nat × List Nat)
  halves : Sparse Nat
  open_ : Sparse Nat
  memIn : Nat
  linkIn : Nat
  deriving DecidableEq, Repr

/-- An outbound host attach packet (18 R461, R462): operation, address, length, bytes, tag and, of a completion, status. -/
structure HaPacket where
  op : Nat
  addr : Nat
  len : Nat
  bytes : List Byte
  tag : Nat
  status : Nat
  deriving DecidableEq, Repr

/-- The whole block. `free` counts the free values drawn; `asks` names, as (stack, block, class), the blocks that the event in
progress must wait for and `got` those that have come for a unit (11 R297); `xlNet` holds the packets that an invalidation in progress
waits for (11 R311); the Reckoner is busy until `rkDue` (14 R380); `ledger` is the wear ledger by byte (15 R408); `lostTail` counts the
Logbook records that are never persisted (15 R406); `hostRes` is what each host core's last access came to and `hostStart`
where it was last started (18 R472, R475); `i3cData` what the last private read returned; `pins` the sideband pins as the
boundary cells see them. `drsHeld` holds the accesses of registers that wait at a sluice or a relief freeze, as the commands that make
them, each with its offset (16 R422, 17 R446); `inReset`: RESET_N is held low (19 R487); `phyOff`: PHY_REFCLK is absent (19 R492);
`hostWaits`: the host cores whose send block waits, with what it is to do, 1 SEND or 2 PUT (18 R470); `life` the weighted lifetime of each polder in ns, and
`lifeKept` as the ledger last recorded it (19 R496). -/
structure State where
  pending : List Instr
  free : Nat
  opts : Options
  time : Nat
  drs : Sparse Word
  drsHeld : List (Nat × Instr)
  inReset : Bool
  phyOff : Bool
  em : Sparse Byte
  badBlocks : List Nat
  slots : Sparse Slot
  sectors : Sparse Sector
  cns : Sparse CombNode
  net : List Packet
  bind : Sparse Nat
  cfg : Cfg
  ports : Sparse Port
  links : Sparse Link
  nmus : Sparse Nmu
  rdWait : Sparse (List Nat)
  hostWait : Sparse (List (Nat × Nat))
  hostSend : Sparse (List SendEntry)
  hostWaits : Sparse Nat
  nextEntry : Nat
  haTlb : Sparse (List TlbEntry)
  linkTlb : Sparse (Sparse (List TlbEntry))
  xfSeq : Nat
  xfHeld : List (List Byte)
  hm : List HmReq
  remote : List RemoteReq
  asks : List (Nat × Nat × Nat)
  got : List Got
  xlNet : List Packet
  missReports : List (List Nat)
  leases : List Lease
  reports : List Report
  haOut : List HaPacket
  i3cIbi : List Nat
  passages : Sparse Passage
  nextPid : Nat
  rkDue : Nat
  rtMode : Bool
  windowed : List Nat
  grantQ : List GrantReq
  rises : List (Nat × Nat)
  drawn : List (Nat × Nat × Nat)
  zen : Zen
  repair : Repair
  log : List LogRec
  nv : Sparse Byte
  ledger : Sparse Byte
  life : Sparse Nat
  lifeKept : Sparse Nat
  batchAt : Nat
  batchSeq : Nat
  keptSeq : Nat
  lostTail : Nat
  bermDone : Nat
  bermSeen : Nat
  berm : Option Berm
  bermed : Bool
  haWire : List HaPacket
  haCredits : Nat × Nat
  nprIn : List NprIn
  nextTag : Nat
  puts : List Nat
  nextPut : Nat
  hcache : List HLine
  hostRes : Sparse HostRes
  hostStart : Sparse Nat
  i3cAddr : Option Nat
  i3cData : Word
  jtag : Jtag
  pins : Word
  deriving DecidableEq, Repr

/-- Why a step stops with a fault. -/
inductive Fault where
  /-- Raised by nothing: every event of the block has an effect in the spec. Safe. -/
  | unreachable
  deriving DecidableEq, Repr

/-- Why a command is refused. -/
inductive Refusal where
  /-- Raised by an arm of `exec` whose command has no meaning yet. Safe: nothing is claimed of it. -/
  | notModelled (mnemonic : String)
  deriving DecidableEq, Repr

/-- The block right after reset. -/
def State.reset : State where
  pending := []
  free := 0
  opts := Options.dn64m
  time := 0
  drs := []
  drsHeld := []
  inReset := false
  phyOff := false
  em := []
  badBlocks := []
  slots := []
  sectors := []
  cns := []
  net := []
  bind := (List.range 64).map (fun i => (i, 15))
  cfg := ⟨[], [], [], 0, [], [], [], [], [], [], 0, 0⟩
  ports := []
  links := []
  nmus := []
  rdWait := []
  hostWait := []
  hostSend := []
  hostWaits := []
  nextEntry := 0
  haTlb := []
  linkTlb := []
  xfSeq := 1
  xfHeld := []
  hm := []
  remote := []
  asks := []
  got := []
  xlNet := []
  missReports := []
  leases := []
  reports := []
  haOut := []
  i3cIbi := []
  passages := []
  nextPid := 1
  rkDue := 0
  rtMode := false
  windowed := []
  grantQ := []
  rises := []
  drawn := []
  zen := ⟨[], [], [], false, [], 0, [], none, 4, []⟩
  repair := ⟨[], [], [], [], [], none, [], [], []⟩
  log := []
  nv := []
  ledger := []
  life := []
  lifeKept := []
  batchAt := 0
  batchSeq := 0
  keptSeq := 0
  lostTail := 0
  bermDone := 0
  bermSeen := 0
  berm := none
  bermed := false
  haWire := []
  haCredits := (0, 0)
  nprIn := []
  nextTag := 0
  puts := []
  nextPut := 0
  hcache := []
  hostRes := []
  hostStart := []
  i3cAddr := none
  i3cData := 0
  jtag := ⟨.idcode, 0, 0⟩
  pins := 0

end Sys2Proof.Machine
end

