-- ==== Sys2Proof/Machine/Ops.lean ====
section
/-!
DEFINITION. Machine/Ops.lean: the named operations over the state: reading and writing registers and their fields,
units, memories, packets; alerts, reports and counters; adding to a tally and writing a Tile Store, which every agent
does through here.
-/

namespace Sys2Proof.Machine

/-! ## Registers -/

/-- A register of the DRS by offset. -/
def State.rd (s : State) (off : Nat) : Word := sget resetWord s.drs off
/-- Set a register of the DRS. -/
def State.wr (s : State) (off : Nat) (v : Word) : State := { s with drs := sset resetWord s.drs off v }
/-- A field of a register. -/
def State.fld (s : State) (off : Nat) (f : Fld) : Nat := getF (s.rd off) f
/-- Set a field of a register. -/
def State.setFld (s : State) (off : Nat) (f : Fld) (v : Nat) : State := s.wr off (putF (s.rd off) f v)
/-- Is a one-bit field set? -/
def State.flag (s : State) (off : Nat) (f : Fld) : Bool := s.fld off f == 1

/-- DN-16 mode in force (16 R431). -/
def State.dn16 (s : State) : Bool := s.flag Reg.ZN_COMPAT F.ZN_COMPAT_DN16
/-- The configuration epoch in force (16 R428). -/
def State.epoch (s : State) : Nat := (s.rd Reg.ZN_EPOCH).toNat

/-! ## Units -/

/-- Physical slot `k % 9` of sector `k / 9`. -/
def State.slot (s : State) (k : Nat) : Slot := tget Slot.reset s.slots k
def State.setSlot (s : State) (k : Nat) (c : Slot) : State := { s with slots := tput s.slots k c }
def State.modSlot (s : State) (k : Nat) (f : Slot → Slot) : State := s.setSlot k (f (s.slot k))
def State.sector (s : State) (n : Nat) : Sector := tget Sector.reset s.sectors n
def State.setSector (s : State) (n : Nat) (c : Sector) : State := { s with sectors := tput s.sectors n c }
def State.cn (s : State) (c : Nat) : CombNode := tget CombNode.reset s.cns c
def State.setCn (s : State) (c : Nat) (n : CombNode) : State := { s with cns := tput s.cns c n }

/-- The binding code of an UNBOUND logical core (01 R14). -/
def unbound : Nat := 15

/-- The slot of its sector that a logical core is bound to; its own logical index where no repair has changed it
(01 R14). -/
def State.bindOf (s : State) (id : Nat) : Nat := (tfind s.bind id).getD (id % 8)

/-- The physical slot of a logical core, if it is bound (01 R13, R14). -/
def State.slotOf (s : State) (id : Nat) : Option Nat :=
  if id < 64 ∧ s.bindOf id < 9 then some (9 * (id / 8) + s.bindOf id) else none

/-- The logical core bound to a physical slot, if any. -/
def State.coreOf (s : State) (k : Nat) : Option Nat :=
  (List.range 8).findSome? (fun i => if s.bindOf (8 * (k / 9) + i) = k % 9 then some (8 * (k / 9) + i) else none)

/-- The logical id that a core uses as its own; 0 for a slot bound to none. -/
def State.idOf (s : State) (k : Nat) : Nat := (s.coreOf k).getD 0

/-- Is the slot bound to logical index 0 of its sector (01 R15)? -/
def State.isLead (s : State) (k : Nat) : Bool := s.bindOf (8 * (k / 9)) == k % 9

/-- The fleet the image assigns a logical core to, if any (01 R29). -/
def State.fleetOf (s : State) (id : Nat) : Option Nat := tfind s.cfg.coreFleet id

/-- The polder that holds an endpoint (01 R16). Returns of accesses that host core `a` or the host attach port made go to `core`
64 + a and 128. -/
def State.polderOf (s : State) : Endpoint → Nat
  | .core id => if id < 64 then (s.slotOf id).getD 99 else if id < 68 then 82 else if id < 72 then 83 else 98
  | .host a => if a < 4 then 82 else 83
  | .nmu n => 84 + n / 2
  | .cn c => 80 + c / 16
  | .port p => 84 + p / 2
  | .link l => 94 + l / 2
  | .sector n => 72 + n
  | .attach => 98
  | .keep => 99

/-- Is the polder quarantined, or closing for it (17 R448, R459)? A berm save closes every dike (15 R404). -/
def State.closed (s : State) (p : Nat) : Bool := s.berm.isSome || s.bermed || decide (3 ≤ s.fld (Reg.DK_P p) F.DK_P_STATE)

/-- Is an endpoint behind a closed dike? -/
def State.behind (s : State) (e : Endpoint) : Bool := s.closed (s.polderOf e)

/-! ## Alerts, reports, counters -/

/-- PW credits that a packet needs: its header beat and its data beats (18 R460, R463). -/
def HaPacket.beats (p : HaPacket) : Nat := 1 + cdiv p.bytes.length 64

/-- A tag for an outbound request, the next one that no outstanding request has. -/
def State.hmTag (s : State) : Option Nat :=
  ((List.range 4096).map (fun i => (s.nextTag + i) % 4096)).find? (fun t => !s.hm.any (fun r => r.sent && r.tag == t))

/-- Send a packet, where its credits allow: a completion needs none (18 R463). A request takes a tag and its time-out starts. -/
def State.haGo (s : State) (p : HaPacket) : Option State :=
  let pay := fun (s : State) (p : HaPacket) => { s with
    haWire := s.haWire ++ [p]
    haCredits := if p.op = 0x08 then s.haCredits
      else if p.op = 0x11 then (s.haCredits.1, s.haCredits.2 - 1) else (s.haCredits.1 - p.beats, s.haCredits.2) }
  let enough := p.op == 0x08 || (if p.op = 0x11 then decide (1 ≤ s.haCredits.2) else decide (p.beats ≤ s.haCredits.1))
  if !enough then none
  else if p.op = 0x08 ∨ p.op = 0x13 then some (pay s p)
  else
    match s.hmTag, s.hm.findIdx? (fun r => !r.sent && r.write == (p.op == 0x12)) with
    | some t, some i => some (pay { s with
        nextTag := (t + 1) % 4096
        hm := s.hm.modify i (fun (r : HmReq) => { r with
          sent := true
          tag := t
          due := s.time + 1000 * 2 ^ s.fld Reg.HA_CFG F.HA_CFG_TIMEOUT }) } { p with tag := t })
    | _, _ => none

/-- Send what may go: PW in order, NPR in order and behind every earlier PW, a completion behind every earlier PW (18 R464). -/
def State.haSends : List HaPacket → Bool → Bool → State → State
  | [], _, _, s => s
  | p :: ps, pw, npr, s =>
    match (if pw || (npr && p.op == 0x11) then none else s.haGo p) with
    | some t => State.haSends ps pw npr { t with haOut := t.haOut.erase p }
    | none => State.haSends ps (pw || p.op == 0x12 || p.op == 0x13) (npr || p.op == 0x11) s

/-- The port sends outbound packets while it is READY. -/
def State.haPump (s : State) : State :=
  if s.fld Reg.HA_STAT F.HA_STAT_STATE = 1 then State.haSends s.haOut false false s else s

/-- A packet is to go to the host. -/
def State.haSend (s : State) (p : HaPacket) : State := { s with haOut := s.haOut ++ [p] }.haPump

/-- Deliver the rising bit of a class (18 R479). -/
def State.deliverAlert (s : State) (cls : Nat) : State :=
  let route := s.rd Reg.AL_ROUTE
  let s := if bit (getF route F.AL_ROUTE_HC) cls then
      let ip := Reg.HC_IP (getF route F.AL_ROUTE_HART)
      s.wr ip (s.rd ip ||| BitVec.ofNat 64 (2 ^ (32 + cls)))
    else s
  let s := if bit (getF route F.AL_ROUTE_HA) cls then
      s.haSend ⟨0x13, (s.rd Reg.AL_HA_ADDR).toNat, 8, natLE 8 cls, 0, 0⟩
    else s
  if bit (getF route F.AL_ROUTE_MGMT) cls then { s with i3cIbi := s.i3cIbi ++ [cls] } else s

/-- An event sets its class's bit of AL_STAT; a bit going from 0 to 1 is delivered once (18 R478, R479). -/
def State.alert (s : State) (cls : Nat) : State :=
  let st := s.fld Reg.AL_STAT F.AL_STAT_CLASS
  if bit st cls then s
  else (s.setFld Reg.AL_STAT F.AL_STAT_CLASS (st + 2 ^ cls)).deliverAlert cls

/-- A unit reports an event to the keep polder (17 R457). -/
def State.report (s : State) (r : Report) : State := { s with reports := s.reports ++ [r] }

/-- Add to a performance counter: it wraps, sets its sticky bit, and raises the performance alert on 0 to 1 where
enabled (17 R454). -/
def State.perfAdd (s : State) (off : Nat) (n : Nat) (stat : Nat) (ovf ae : Fld) : State :=
  let v := (s.rd off).toNat + n
  let s' := s.wr off (BitVec.ofNat 64 v)
  if v < 2 ^ 64 then s'
  else
    let was := s'.flag stat ovf
    let s'' := s'.setFld stat ovf 1
    if !was && s''.flag stat ae then s''.alert 3 else s''

/-- Count an event in an error counter; one that arrives at 0xFFFF sets the SAT bit, with an alert and a record on 0 to
1 (17 R454, R455). `satBit` is the bit of the SAT field that is this counter's. -/
def State.errCount (s : State) (off : Nat) (cnt : Fld) (stat : Nat) (sat : Fld) (satBit : Nat) (src : Nat) : State :=
  let v := s.fld off cnt
  if v < 0xFFFF then s.setFld off cnt (v + 1)
  else if bit (s.fld stat sat) satBit then s
  else
    ((s.setFld stat sat (s.fld stat sat + 2 ^ satBit)).report
      ⟨0x53, 1, src, 0, 0, 0xFF, 0, [BitVec.ofNat 64 off]⟩).alert 6

/-! ## Packets -/

/-- Put a packet on its plane (01 R19). -/
def State.send (s : State) (pl : Plane) (src dst : Endpoint) (b : Payload) : State :=
  { s with net := s.net ++ [⟨pl, src, dst, b⟩] }

/-- The spine endpoint that an endpoint's packets enter by: 0 to 7 sectors, 8 to 17 memory polders, 18 to 21 link polders,
22 and 23 the host complex, 24 the host attach polder (16 R416). -/
def spineEnd : Endpoint → Option Nat
  | .core id => some (if id < 64 then id / 8 else if id < 68 then 22 else if id < 72 then 23 else 24)
  | .sector n => some n
  | .nmu n => some (8 + n / 2)
  | .port p => some (8 + p / 2)
  | .link l => some (18 + l / 2)
  | .host a => some (22 + a / 4)
  | .attach => some 24
  | .cn _ => none
  | .keep => none

/-- The bit of a pair of spine endpoints in the SPINE section (16 R416). -/
def pairBit (a b : Nat) : Nat := 25 * min a b + max a b

/-- The half, 0 or 1, that a packet between two endpoints crosses, if it crosses the spine: the half its pair is pinned to
(01 R19), the other one where that is quarantined (01 R21), or the half of the combining node it goes to or comes from. -/
def State.halfOf (s : State) (a b : Endpoint) : Option Nat :=
  match a, b with
  | .cn c, _ => some (c / 16)
  | _, .cn c => some (c / 16)
  | _, _ =>
    match spineEnd a, spineEnd b with
    | some x, some y =>
      if x = y then none
      else
        let h := tget 0 s.cfg.halves (pairBit x y)
        some (if s.closed (80 + h) then 1 - h else h)
    | _, _ => none

/-- Is a polder closed at a sluice (16 R422)? -/
def State.sluiced (s : State) (p : Nat) : Bool := s.fld (Reg.DK_P p) F.DK_P_STATE == 2

/-- The polders between a unit of polder `p` and the spine: `p`, and for a core slot its sector polder, whose dike is the slot's only
one (01 R17). -/
def polderWay (p : Nat) : List Nat := if p < 72 then [p, 72 + p / 9] else [p]

/-- The polders that a packet from or to an endpoint passes, up to the spine. -/
def State.wayOf (s : State) (e : Endpoint) : List Nat := polderWay (s.polderOf e)

/-- Is there no way between two endpoints: each crosses the spine, and the half left to them is closed (01 R17, R21)? -/
def State.noWay (s : State) (a b : Endpoint) : Bool := match s.halfOf a b with | some h => s.closed (80 + h) | none => false

/-- Does a closed sluice stand between two endpoints: at the far one's dikes or at the spine half (16 R422, R425)? What a closing polder
injected before the closure passes. -/
def State.sluiceBetween (s : State) (a b : Endpoint) : Bool :=
  let src := s.wayOf a
  !src.any s.zen.closing.contains &&
  (s.wayOf b ++ (match s.halfOf a b with | some h => [80 + h] | none => [])).any (fun n => s.sluiced n && !src.contains n)

/-- Is a polder the slot that a relief has paused (17 R444)? -/
def State.paused (s : State) (p : Nat) : Bool := match s.repair.relief with | some r => r.pause && r.x == p | none => false

/-- Is a polder frozen: the slot of a relief whose tile halt is complete (17 R444, step 3)? -/
def State.frozenSlot (s : State) (p : Nat) : Bool := s.paused p && (s.slot p).halt == .halted

/-- The entry that a message's answer is awaited for, at the core or host core that sent it. -/
def State.sentEntry (s : State) (e : Endpoint) (id : Nat) : Option SendEntry :=
  match e with
  | .core c => (s.slotOf c).bind (fun k => (s.slot k).sendM.find? (fun (x : SendEntry) => x.id == id))
  | .host a => (tget [] s.hostSend a).find? (fun (x : SendEntry) => x.id == id)
  | _ => none

/-- What becomes of a packet that a lost spine half had on its way, or that finds no half left to cross: an answer tells the end of its
operation, which is QUARANTINED (17 R450), what only settles stays, and a request is none: a closed dike meets it. -/
def State.cutForm (s : State) (p : Packet) : Option Packet :=
  match p.body with
  | .xferData xid _ _ => some { p with body := .xferData xid 0x0E [] }
  | .xferAck xid _ => some { p with body := .xferAck xid 0x0E }
  | .bulkAck xid _ => some { p with body := .bulkAck xid 0x0E }
  | .deliverAck tag _ n => some { p with body := .deliverAck tag 0x0E n }
  | .delta to_ xid _ _ => some ⟨.reply, p.src, to_, .xferAck xid 0x0E⟩
  | .admission ch id => some { p with body := match s.sentEntry p.dst id with
      | some e => .refusal ch id 0x0E e.msg
      | none => .admission ch id }
  | .refusal ch id _ m => some { p with body := .refusal ch id 0x0E m }
  | .msg ch m => if p.plane = .reply then some { p with body := .msg ch { m with
      status := 0x0E
      pay := [] } } else none
  | .wake _ => some p
  | .resultAck _ => some p
  | _ => none

/-- Does a packet stand before a spine half that is closed, with no other to cross? -/
def State.cutOff (s : State) (p : Packet) : Bool := s.noWay p.src p.dst && s.cutForm p != some p

/-- Is a packet held: at a frozen slot, on every plane (17 R444); at a closed sluice, on the request or data plane, but for landings of
the polder's own transfers (16 R422); or cut off? -/
def State.held (s : State) (p : Packet) : Bool :=
  let own := match p.body with | .xferData _ _ _ => true | _ => false
  s.frozenSlot (s.polderOf p.dst) || (p.plane != .reply && !own && s.sluiceBetween p.src p.dst) || s.cutOff p

/-- Must the engines of a polder inject nothing new: it is closed at a sluice, or its sector polder is, or it is the slot that a relief
has stopped (16 R422, 01 R17, 17 R444)? -/
def State.stalled (s : State) (p : Nat) : Bool := (polderWay p).any s.sluiced || s.paused p

/-- How an access fares on its way: it passes, a closed dike refuses it (17 R448), or it waits at a sluice or a relief freeze (16 R422,
17 R446). -/
inductive Reach where
  | ok | closed | wait
  deriving DecidableEq, Repr

/-- How a new access of one endpoint to another fares between them; within a polder nothing stands in the way. -/
def State.path (s : State) (a b : Endpoint) : Reach :=
  if s.polderOf a = s.polderOf b then .ok
  else if s.noWay a b then .closed
  else if (s.wayOf a).any s.sluiced || s.sluiceBetween a b then .wait
  else .ok

/-- The node whose WR entry a packet carries to a memory port. -/
def State.writerNode (s : State) (p : Packet) : Option Nat :=
  match p.src, p.body with
  | .link l, .mem xid req =>
    if req.write then ((tget Link.reset s.links l).serve.find? (fun (x : Serve) => x.xid == xid)).map (fun x => x.snode) else none
  | _, _ => none

/-- Must packet `q`, in flight before `p`, arrive before it: they have one source, destination and plane (01 R19), or carry WR entries
of one node, which are performed in order of arrival (13 R358)? -/
def State.ahead (s : State) (q p : Packet) : Bool :=
  (q.plane == p.plane && q.src == p.src && q.dst == p.dst) || ((s.writerNode p).isSome && s.writerNode q == s.writerNode p)

/-- May packet `i` arrive: it is in flight, no packet that must arrive before it is ahead of it, and nothing holds it. -/
def State.arrival (s : State) (i : Nat) : Option Packet :=
  match s.net[i]? with
  | none => none
  | some p =>
    if s.held p || (s.net.take i).any (fun q => s.ahead q p) then none else some p

/-- Is packet `i` cut off, with no packet of its source, destination and plane ahead of it and nothing else that holds it? -/
def State.lostCrossing (s : State) (i : Nat) : Option Packet :=
  match s.net[i]? with
  | none => none
  | some p =>
    if s.cutOff p && !s.frozenSlot (s.polderOf p.dst) && !(s.net.take i).any (fun q => s.ahead q p)
    then some p else none

/-- The state with packet `i` taken off its plane. -/
def State.takePacket (s : State) (i : Nat) : State := { s with net := s.net.eraseIdx i }

/-! ## Free values -/

/-- Draw the next free value: `Config.freeWord` of the counter, which advances. -/
def State.draw (s : State) : Word × State := (Config.freeWord s.free, { s with free := s.free + 1 })

/-! ## The launch record in force (07 R190) -/

/-- Bytes of the record latched by the last launch. -/
def Slot.klField (c : Slot) (byte len : Nat) : Nat :=
  bits ((c.kl.getD (byte / 8) 0).toNat) (8 * (byte % 8)) (8 * len)
def Slot.fleet (c : Slot) : Nat := c.klField 4 1 % 16
def Slot.hvec (c : Slot) : Nat := c.klField 32 4
def Slot.tvec (c : Slot) : Nat := c.klField 28 4
/-- Is the kernel ending as by an abort (07 R195)? -/
def Slot.stopping (c : Slot) : Bool := match c.ending with | .stop _ _ => true | _ => false
/-- The kernel's state code: 0 IDLE, 1 STARTING, 2 RUNNING, 3 ENDING (07 R195). -/
def State.klState (s : State) (k : Nat) : Nat := s.fld (Reg.KL_STAT k) F.KL_STAT_STATE

/-! ## Queues (07 R179 to R188) -/

/-- Which of a core's two queues. -/
inductive QSel where
  | xq | fq
  deriving DecidableEq, Repr

def Slot.queue (c : Slot) : QSel → Queue | .xq => c.xq | .fq => c.fq
def Slot.setQueue (c : Slot) (q : QSel) (v : Queue) : Slot := match q with | .xq => { c with xq := v } | .fq => { c with fq := v }
/-- The status register of a queue. -/
def QSel.reg (q : QSel) (k : Nat) : Nat := match q with | .xq => Reg.XQ_STAT k | .fq => Reg.FQ_STAT k
/-- XQ_STAT and FQ_STAT have one map. -/
def QSel.num : QSel → Nat | .xq => 0 | .fq => 1

def State.queue (s : State) (k : Nat) (q : QSel) : Queue := (s.slot k).queue q
def State.setQueue (s : State) (k : Nat) (q : QSel) (v : Queue) : State := s.modSlot k (fun c => c.setQueue q v)
/-- STOP of a queue (07 R185). -/
def State.stopped? (s : State) (k : Nat) (q : QSel) : Bool := s.flag (q.reg k) F.XQ_STAT_STOP

/-- The opcode of a command word. -/
def opcode (w : Cmd) : Nat := bits w.toNat 120 8
/-- Bits `[hi : lo]` of a command word. -/
def cf (w : Cmd) (hi lo : Nat) : Nat := bits w.toNat lo (hi + 1 - lo)
/-- One bit of a command word. -/
def cb (w : Cmd) (i : Nat) : Bool := bit w.toNat i

/-- Completed entries at the front leave, and the in-order completion count advances (07 R184). -/
def settle : List Inflight → Nat → List Inflight × Nat
  | [], d => ([], d)
  | e :: es, d => if e.phase = .done then settle es e.entry.ticket else (e :: es, d)

/-- Insert an accepted entry by its ticket. -/
def insInflight (e : Inflight) : List Inflight → List Inflight
  | [] => [e]
  | f :: fs => if e.entry.ticket < f.entry.ticket then e :: f :: fs else f :: insInflight e fs

def Queue.settled (q : Queue) : Queue := let r := settle q.inflight q.done; { q with inflight := r.1, done := r.2 }

/-- Give an accepted entry a new phase. -/
def Queue.setPhase (q : Queue) (t : Nat) (p : Phase) : Queue :=
  ({ q with inflight := q.inflight.map (fun (e : Inflight) => if e.entry.ticket = t then { e with phase := p } else e) }).settled

/-- Accept an entry with a phase. -/
def Queue.accept (q : Queue) (e : Entry) (p : Phase) : Queue :=
  ({ q with inflight := insInflight ⟨e, p⟩ q.inflight }).settled

/-- Pass markers at the head of the execute queue are accepted: the engine does not stop at them (07 R187). -/
def absorbMarkers : List Entry → List Inflight → List Entry × List Inflight
  | [], fl => ([], fl)
  | e :: es, fl =>
    if opcode e.word = 0x90 then absorbMarkers es (insInflight ⟨e, .marker e.wpt⟩ fl) else (e :: es, fl)

def Queue.absorbed (q : Queue) : Queue :=
  let r := absorbMarkers q.onchip q.inflight
  { q with onchip := r.1, inflight := r.2 }

/-- `a - b` of two `n`-bit counts, as a signed number (07 R184, R188; 10 R273). -/
def sdiff (n a b : Nat) : Int := sint n ((a + 2 ^ n - b % 2 ^ n) % 2 ^ n)

/-- Wait markers at the head of the fetch queue whose waypoint has passed leave (07 R188). -/
def dropWaits (passed : Nat) : List Entry → List Inflight → List Entry × List Inflight
  | [], fl => ([], fl)
  | e :: es, fl =>
    if opcode e.word = 0x90 ∧ sdiff 16 e.wpt passed ≤ 0 then dropWaits passed es (insInflight ⟨e, .done⟩ fl)
    else (e :: es, fl)

def Queue.released (q : Queue) (passed : Nat) : Queue :=
  let r := dropWaits passed q.onchip q.inflight
  ({ q with onchip := r.1, inflight := r.2 }).settled

/-- Is a TWAIT or ACQ holding the queue (10 R273, R276)? -/
def Queue.heldAt (q : Queue) : Bool := q.inflight.any (fun e => match e.phase with | .held _ _ => true | .met _ => true | _ => false)

/-- The queue as its engine sees it: markers at its head taken. -/
def State.view (s : State) (k : Nat) (q : QSel) : Queue :=
  match q with
  | .xq => (s.queue k .xq).absorbed
  | .fq => (s.queue k .fq).released (s.fld (Reg.WPT_STAT k) F.WPT_STAT_PASSED)

/-- May the engine accept from the queue: a kernel is RUNNING or ENDING by KEND, the queue is not stopped and not held,
and, for the execute queue, no tile halt is on (05 R125, 07 R185, R195). -/
def State.accepting (s : State) (k : Nat) (q : QSel) : Bool :=
  s.klState k ≥ 2 && !s.stopped? k q && !(s.queue k q).heldAt &&
  !(s.slot k).stopping &&
  (match q with | .xq => (s.slot k).halt == .running | .fq => true)

/-- The entry at the head of a queue, where the engine may accept it, with the queue that remains. -/
def State.headOf (s : State) (k : Nat) (q : QSel) : Option (Entry × Queue) :=
  if s.accepting k q then
    match (s.view k q).onchip with
    | [] => none
    | e :: es => some (e, { s.view k q with onchip := es })
  else none

/-- The head of a queue, where its opcode is one of `ops`. -/
def State.takeHead (s : State) (k : Nat) (q : QSel) (ops : Nat → Bool) : Option (Entry × Queue) :=
  match s.headOf k q with
  | none => none
  | some (e, r) => if ops (opcode e.word) then some (e, r) else none

/-- A command fails its check: its queue stops, with its status and opcode, and it counts as completed (07 R185). -/
def State.failCmd (s : State) (k : Nat) (q : QSel) (e : Entry) (r : Queue) (status : Nat) : State :=
  (((s.setQueue k q (r.accept e .done)).setFld (q.reg k) F.XQ_STAT_STOP 1).setFld (q.reg k)
    F.XQ_STAT_STOP_STATUS status).setFld (q.reg k) F.XQ_STAT_STOP_OP (opcode e.word)

/-- The queue as it stands now: what has left its head has left it (07 R187, R188). -/
def State.queueNow (s : State) (k : Nat) (q : QSel) : Queue := if s.accepting k q then s.view k q else s.queue k q

/-- A command is accepted with its effect made; it completes by COMMAND_COMPLETE (07 R184). -/
def State.acceptCmd (s : State) (k : Nat) (q : QSel) (e : Entry) (r : Queue) (elems : Nat) : State :=
  s.setQueue k q (r.accept e (.working elems))

/-- An accepted entry completes with a status: with 0 it is done; else its queue stops too (07 R185), markers at its head having been
taken before (07 R187). -/
def State.completeEntry (s : State) (k : Nat) (q : QSel) (t status : Nat) : State :=
  match (s.queue k q).inflight.find? (fun e => e.entry.ticket == t) with
  | none => s
  | some e =>
    let s := s.setQueue k q ((if status = 0 then s.queue k q else s.queueNow k q).setPhase t .done)
    if status = 0 then s
    else ((s.setFld (q.reg k) F.XQ_STAT_STOP 1).setFld (q.reg k) F.XQ_STAT_STOP_STATUS status).setFld (q.reg k)
      F.XQ_STAT_STOP_OP (opcode e.entry.word)

/-! ## Waits of TWAIT and ACQ (10 R273 to R276) -/

def acqCond (w : Cmd) : Nat := cf w 117 116
/-- A little-endian field of a block of bytes. -/
def blk (b : List Byte) (lo n : Nat) : Nat := leNat ((b.drop lo).take n)
/-- The word of an ACQ: its space and address. -/
def acqSpace (d : List Byte) : Nat := bits (blk d 0 8) 48 2
def acqAddr (d : List Byte) : Nat := bits (blk d 0 8) 0 48

/-- Does an ACQ name a range, and does it read its descriptor (10 R274)? -/
def acqRange (w : Cmd) : Bool := cb w 111
def acqReads (w : Cmd) : Bool := acqCond w != 0 || acqRange w

/-! ### Fields of a REL (10 R270) -/

def relScope (w : Cmd) : Nat := cf w 119 118
def relSig (w : Cmd) : Nat := cf w 117 116
def relSpace (w : Cmd) : Nat := cf w 104 103
def relAddr (w : Cmd) : Nat := cf w 95 48
/-- Is the core DCORE signalled? -/
def relRemote (w : Cmd) : Bool := cb w 115 && (relSig w == 1 || (relSig w == 2 && relSpace w == 0))

/-- Does a word meet the condition (10 R276)? -/
def acqWordMet (w : Cmd) (d : List Byte) (v : Nat) : Bool :=
  if acqCond w = 1 then decide (0 ≤ (BitVec.ofNat 64 v - BitVec.ofNat 64 (blk d 8 8)).toInt) else v == blk d 8 8

/-- Is an entry an ACQ on a word of a space? -/
def isAcqOn (w : Cmd) (d : List Byte) (space : Nat) : Bool :=
  (opcode w == 0x94 || opcode w == 0x95) && acqCond w != 0 && acqSpace d == space

/-- The tally a TWAIT or ACQ waits on, if it does (10 R273, R274). -/
def waitTally (w : Cmd) : Option Nat :=
  if opcode w = 0x91 ∨ opcode w = 0x96 then some (cf w 119 116)
  else if (opcode w = 0x94 ∨ opcode w = 0x95) ∧ acqCond w = 0 then some (cf w 115 112)
  else none

/-- `(TARGET - T)` as a signed number is at most 0 (10 R273). -/
def State.tallyMet (s : State) (k t target : Nat) : Bool :=
  decide ((BitVec.ofNat 64 target - s.rd (Reg.TALLY k t)).toInt ≤ 0)

/-! ## The scope checker (10 R283) -/

def State.sckOn (s : State) (k : Nat) : Bool := s.flag (Reg.SCK_CTL k) F.SCK_CTL_EN

/-- Count a pair of a release and an acquire of differing scopes. -/
def State.sckCount (s : State) (k acq : Nat) (r : SckRec) (word : Bool) (tally : Nat) : State :=
  if r.scope = acq then s
  else
    let reg := Reg.SCK_STAT k
    let me := s.idOf k
    let narrow := min r.scope acq
    let outside := (narrow == 0 && r.src != me) || (narrow == 1 && r.src / 8 != me / 8)
    let s := s.errCount reg F.SCK_STAT_MISMATCH reg F.SCK_STAT_MIS_SAT 0 k
    let s := if outside then s.errCount reg F.SCK_STAT_OUTSIDE reg F.SCK_STAT_OUT_SAT 0 k else s
    let s := (s.setFld reg F.SCK_STAT_REL_SCOPE r.scope).setFld reg F.SCK_STAT_ACQ_SCOPE acq
    let s := (s.setFld reg F.SCK_STAT_REL_SRC r.src).setFld reg F.SCK_STAT_LOC (b01 word)
    let s := s.setFld reg F.SCK_STAT_TALLY tally
    s.report ⟨0x35, 1, k, 1, me, (s.slot k).fleet, 0x0A, [s.rd reg]⟩

/-- A REL WORD signal writes a doubleword; 16 are kept, the least recently used going out. -/
def State.sckWordSig (s : State) (k a : Nat) (r : SckRec) : State :=
  if s.sckOn k then
    s.modSlot k (fun c => { c with sckWord := ((a, r) :: c.sckWord.filter (fun (p : Nat × SckRec) => p.1 != a)).take 16 })
  else s

def acqScope (w : Cmd) : Nat := cf w 119 118

/-- An ACQ has met its condition: the scopes are compared where its location is recorded. -/
def State.acqCompare (s : State) (k : Nat) (e : Entry) (d : List Byte) : State :=
  let w := e.word
  if !s.sckOn k || !(opcode w == 0x94 || opcode w == 0x95) then s
  else if acqCond w = 0 then
    (match tfind (s.slot k).sckTally (cf w 115 112) with
      | some r => s.sckCount k (acqScope w) r false (cf w 115 112)
      | none => s)
  else if acqSpace d = 0 then
    (match (s.slot k).sckWord.find? (fun p => p.1 == acqAddr d) with
      | some p => (s.sckCount k (acqScope w) p.2 true 0).sckWordSig k p.1 p.2
      | none => s)
  else s

/-! ## Conditions that are met -/

/-- Entries that hold a queue and that `p` picks have met their condition. -/
def Queue.meet (q : Queue) (p : Entry → List Byte → Bool) : Queue :=
  { q with inflight := q.inflight.map (fun (e : Inflight) => match e.phase with
      | .held _ d => if p e.entry d then { e with phase := .met d } else e
      | _ => e) }

/-- The entries of a queue that do so. -/
def Queue.meeting (q : Queue) (p : Entry → List Byte → Bool) : List (Entry × List Byte) :=
  q.inflight.filterMap (fun e => match e.phase with | .held _ d => if p e.entry d then some (e.entry, d) else none | _ => none)

/-- A write or an addition has just been made, after which the conditions that `p` picks hold: they are met, whatever follows
(10 R276), and the scope checker looks at them (R283). -/
def State.meet (s : State) (k : Nat) (p : Entry → List Byte → Bool) : State :=
  let c := s.slot k
  if c.xq.heldAt || c.fq.heldAt then
    (c.xq.meeting p ++ c.fq.meeting p).foldl (fun (t : State) x => t.acqCompare k x.1 x.2)
      (s.modSlot k (fun c => { c with xq := c.xq.meet p, fq := c.fq.meet p }))
  else s

/-! ## Tile Store, instruction memory, External Memory -/

/-- The size of a Tile Store (01 R22). -/
def tsSize : Nat := 0x800000

/-- What a Tile Store byte reads as where nothing has written it: zero, or undefined after a warm reset (18 R477). -/
def Slot.tsDefault (k : Nat) (c : Slot) (a : Nat) : Byte :=
  if c.tsGen = 0 then 0 else Config.freeTileByte c.tsGen k a

/-- Bytes of a Tile Store. -/
def State.tsRead (s : State) (k a n : Nat) : List Byte := readBytes ((s.slot k).tsDefault k) (s.slot k).ts a n
/-- A little-endian number in a Tile Store (02 R35). -/
def State.tsLE (s : State) (k a n : Nat) : Nat := leNat (s.tsRead k a n)

/-- Operand-cache tags of lines that a write touches are dropped (05 R120). -/
def dropOpc (tags : List OpcTag) (lo hi : Nat) : List OpcTag :=
  tags.filter (fun t => match t with | .ts l => l < lo || hi < l | .of _ => true)

/-- Does a range overlap another? -/
def overlaps (a n b m : Nat) : Bool := n > 0 && m > 0 && a < b + m && b < a + n

/-- During a watch relief, lines of its slot X that are written become dirty (17 R443); instruction memory is lines 65 536 on. -/
def State.markDirty (s : State) (k lo n : Nat) : State :=
  match s.repair.relief with
  | some r =>
    if r.x = k then
      let new := (List.range' lo n).filter (fun l => !r.dirty.contains l)
      { s with repair := { s.repair with relief := some { r with dirty := r.dirty ++ new } } }
    else s
  | none => s

/-- Bytes written to a Tile Store, without the effects on channel pointers. DESIGN CHOICE (log entry 57): a reservation is of the aligned
8 bytes, any write to them ends it, and SC looks at the address alone. -/
def State.tsPut (s : State) (k a : Nat) (bs : List Byte) : State :=
  (s.markDirty k (a / 128) ((a + bs.length - 1) / 128 + 1 - a / 128)).modSlot k (fun c => { c with
    ts := writeBytes (c.tsDefault k) c.ts a bs
    opc := dropOpc c.opc (a / 128) ((a + bs.length - 1) / 128)
    opcB := dropOpc c.opcB (a / 128) ((a + bs.length - 1) / 128)
    resvMain := if c.resvMain.any (fun r => overlaps a bs.length (r / 8 * 8) 8) then none else c.resvMain
    resvHand := if c.resvHand.any (fun r => overlaps a bs.length (r / 8 * 8) 8) then none else c.resvHand })

/-- The registers of a channel block stand at these places after its CFG register, for cores and host complex alike (09
R261, 18 R469). -/
def ringPtr (b : Nat) : Nat := b + 0x10
def ringStat (b : Nat) : Nat := b + 0x18

/-- Bytes in use in the ring of the channel block at `b` (09 R234). -/
def State.ringUsed (s : State) (b : Nat) : Nat :=
  (s.fld (ringPtr b) F.CH_PTR_WP + 2 ^ 32 - s.fld (ringPtr b) F.CH_PTR_RP) % 2 ^ 32
/-- The size of a ring (09 R233). -/
def State.ringSize (s : State) (b : Nat) : Nat := 256 * 2 ^ s.fld b F.CH_CFG_SIZE
/-- Free bytes of a ring (09 R234). -/
def State.ringFree (s : State) (b : Nat) : Nat := s.ringSize b - s.ringUsed b

/-- The endpoint of a sender: kind and number (09 R236). -/
def senderEnd (kind sid : Nat) : Endpoint := match kind with | 0 => .core sid | 1 => .host sid | _ => .nmu sid

/-- A new read pointer for the channel block at `b` (09 R234): taken if it frees no more than is used, with a wake to every
waiting sender when FREE rises (R246); any other value sets RP_ERR. -/
def State.rpTake (s : State) (b : Nat) (self : Endpoint) (c : Nat) (ws : List (Nat × Nat)) (new : Nat) : State :=
  let d := (new + 2 ^ 32 - s.fld (ringPtr b) F.CH_PTR_RP) % 2 ^ 32
  if d ≤ s.ringUsed b then
    let s' := s.setFld (ringPtr b) F.CH_PTR_RP new
    if d = 0 then s'
    else ws.foldl (fun (t : State) (w : Nat × Nat) => t.send .reply self (senderEnd w.1 w.2) (.wake c)) s'
  else s.setFld (ringStat b) F.CH_STAT_RP_ERR 1

/-- The senders waiting for a core's channel (09 R246). -/
def State.waiters (s : State) (k c : Nat) : List (Nat × Nat) := tget [] (s.slot k).chWait c

def State.rpWrite (s : State) (k c : Nat) (new : Nat) : State :=
  s.rpTake (Reg.CH_CFG k c) (.core (s.idOf k)) c (s.waiters k c) new

/-- Every channel whose read-pointer doubleword a write touches, enabled or not, takes the new value (09 R234). -/
def State.rpWatch (s : State) (k a n : Nat) : State :=
  (List.range 16).foldl (fun t c =>
    let rpa := t.fld (Reg.CH_RPA k c) F.CH_RPA_RPADDR
    if overlaps a n rpa 8 then t.rpWrite k c (t.tsLE k rpa 4) else t) s

/-- ACQs on an own Tile Store word are tested at every write to it (10 R276). -/
def State.acqWatch (s : State) (k a n : Nat) : State :=
  s.meet k (fun e d => isAcqOn e.word d 0 && overlaps a n (acqAddr d) 8 && acqWordMet e.word d (s.tsLE k (acqAddr d) 8))

/-- An agent writes bytes to the Tile Store of slot `k`. -/
def State.tsWrite (s : State) (k a : Nat) (bs : List Byte) : State :=
  if bs.isEmpty then s else ((s.tsPut k a bs).rpWatch k a bs.length).acqWatch k a bs.length

/-- A tally takes a value: what waits for it is tested. The scope checker records the REL signal that gave it, or forgets the one recorded
(10 R283). -/
def State.tallySet (s : State) (k t : Nat) (v : Word) (r : Option SckRec) : State :=
  let s := (s.wr (Reg.TALLY k t) v).modSlot k (fun c => { c with sckTally := match r with
    | some x => if s.sckOn k then tput c.sckTally t x else serase t c.sckTally
    | none => serase t c.sckTally })
  s.meet k (fun e _ => waitTally e.word == some t && s.tallyMet k t (cf e.word 63 0))

/-- Add to a tally, modulo 2^64 (10 R266, R279). -/
def State.tallyAdd (s : State) (k t n : Nat) : State := s.tallySet k t (s.rd (Reg.TALLY k t) + BitVec.ofNat 64 n) none

/-- A byte of External Memory is kept by stack and local address. -/
def emKey (stack a : Nat) : Nat := stack * 2 ^ 37 + a
def State.emBytes (s : State) (stack a n : Nat) : List Byte := readBytes zeroByte s.em (emKey stack a) n
def State.emPut (s : State) (stack a : Nat) (bs : List Byte) : State :=
  { s with em := writeBytes zeroByte s.em (emKey stack a) bs }

/-- A byte of a sector pool where nothing has written it (18 R477). -/
def Sector.poolDefault (n : Nat) (c : Sector) (a : Nat) : Byte :=
  let g := tget 0 c.poolGen (a / 2 ^ 20)
  if g = 0 then 0 else Config.freePoolByte g n a
def State.poolRead (s : State) (n a len : Nat) : List Byte :=
  readBytes ((s.sector n).poolDefault n) (s.sector n).pool a len
def State.poolWrite (s : State) (n a : Nat) (bs : List Byte) : State :=
  let c := s.sector n
  s.setSector n { c with
    pool := writeBytes (c.poolDefault n) c.pool a bs
    bad := c.bad.filter (fun w => !(decide (a ≤ 8 * w) && decide (8 * w + 8 ≤ a + bs.length))) }
/-- Does a read of the pool meet a word in uncorrectable error (17 R437)? Writing the word whole ends that. -/
def State.poolBad (s : State) (n a len : Nat) : Bool := (s.sector n).bad.any (fun w => overlaps a len (8 * w) 8)
/-- Bytes of the addressable part of a sector's pool (01 R25). -/
def State.poolSize (s : State) (n : Nat) : Nat := tget 0 s.cfg.poolMiB n * 2 ^ 20

end Sys2Proof.Machine
end

