-- ==== Sys2Proof/Machine/Passages.lean ====
section
/-!
DEFINITION. Machine/Passages.lean: held passages as every unit meets them: footprints, the AT_RISK mark, the start and end
of a run, and real-time mode taking effect (14 R377, R386 to R391).
-/

namespace Sys2Proof.Machine

/-- The polders of a passage's footprint (14 R377). -/
def State.footprint (s : State) (p : Passage) : List Nat :=
  p.cores.filterMap s.slotOf ++ (p.cores.map (fun c => 72 + c / 8)).dedup ++ [80, 81] ++
    (p.ports.map (fun m => 84 + m / 2)).dedup

/-- PT_ID.STATE: 0 FREE, 1 HELD, 2 RUNNING (14 R393). -/
def State.ptState (s : State) (q : Nat) : Nat := s.fld (Reg.PT_ID q) F.PT_ID_STATE
def State.ptPid (s : State) (q : Nat) : Nat := s.fld (Reg.PT_ID q) F.PT_ID_PID

/-- The table entry of a held passage, by identity. -/
def State.pidAt (s : State) (pid : Nat) : Option Nat :=
  (s.passages.find? (fun x => s.ptPid x.1 == pid)).map (fun x => x.1)

/-- What a launch record's PASSAGE counts as for a logical core: 0 unless the Reckoner holds that passage with the core among
its CORES (14 R386). -/
def State.launchPassage (s : State) (id pid : Nat) : Nat :=
  match s.pidAt pid with
  | some q => if ((tfind s.passages q).map (fun p => p.cores.contains id)).getD false then pid else 0
  | none => 0

/-- A condition marks the passage of entry `q` AT_RISK, with a record: PT_ID, then the condition's code, 0 where it has none
(14 R376, R391, 17 R458). -/
def State.riskOne (s : State) (cond q : Nat) : State :=
  let s := s.setFld (Reg.PT_ID q) F.PT_ID_AT_RISK 1
  s.report ⟨0x22, 1, 99, 7, s.ptPid q, s.fld (Reg.PT_ID q) F.PT_ID_FLEET, 0, [s.rd (Reg.PT_ID q), BitVec.ofNat 64 cond]⟩

/-- Every held passage that a test picks is marked. -/
def State.atRisk (s : State) (cond : Nat) (pick : Nat → Passage → Bool) : State :=
  s.passages.foldl (fun (t : State) (x : Nat × Passage) => if pick x.1 x.2 then t.riskOne cond x.1 else t) s

def State.riskAll (s : State) (cond : Nat) : State := s.atRisk cond (fun _ _ => true)
/-- Those whose footprint holds polder `n`. -/
def State.riskPolder (s : State) (cond n : Nat) : State := s.atRisk cond (fun _ p => (s.footprint p).contains n)
/-- Those naming memory port `p`. -/
def State.riskPort (s : State) (cond p : Nat) : State := s.atRisk cond (fun _ x => x.ports.contains p)
/-- The passage that slot `k`'s kernel names. -/
def State.riskSlot (s : State) (cond k : Nat) : State :=
  s.atRisk cond (fun q _ => (s.slot k).passage != 0 && s.ptPid q == (s.slot k).passage)

/-- The passage of identity `pid`. -/
def State.riskPid (s : State) (cond pid : Nat) : State := s.atRisk cond (fun q _ => pid != 0 && s.ptPid q == pid)

/-- Real-time mode follows RK_CTL.RT once no passage is RUNNING (14 R390). -/
def State.settleRt (s : State) : State :=
  if s.passages.any (fun x => s.ptState x.1 == 2) then s else { s with rtMode := s.flag Reg.RK_CTL F.RK_CTL_RT }

/-- Is core `id` RUNNING a kernel that names passage `pid`? -/
def State.runsIn (s : State) (pid id : Nat) : Bool :=
  match s.slotOf id with
  | some k => s.klState k == 2 && (s.slot k).passage == pid
  | none => false

/-- A run starts where every core of a passage that is not RUNNING runs a kernel that names it (14 R377). -/
def State.startRun (s : State) (q : Nat) (p : Passage) : State :=
  if s.ptState q = 1 ∧ p.cores.all (s.runsIn (s.ptPid q)) then
    let r := Reg.PT_ID q
    let s := (s.setFld r F.PT_ID_STATE 2).setFld r F.PT_ID_RUNS ((s.fld r F.PT_ID_RUNS + 1) % 2 ^ 16)
    let s := (s.wr (Reg.PT_START q) (BitVec.ofNat 64 s.time)).setFld (Reg.PT_TIME q) F.PT_TIME_SLACK_USED 0
    { s with passages := tput s.passages q { p with
      running := p.cores.filterMap (fun id => (s.slotOf id).map (fun k => (id, (s.slot k).kser)))
      missed := false
      aborted := false } }
  else s

/-- Runs that can start do (14 R377). -/
def State.startRuns (s : State) : State :=
  s.passages.foldl (fun (t : State) (x : Nat × Passage) => t.startRun x.1 x.2) s

/-- A run ends with its status: DEADLINE_MISS where it missed; else `st` (14 R388). The slack it spent is restored (R387). -/
def State.endRun (s : State) (q : Nat) (p : Passage) (st : Nat) : State :=
  let s := (s.setFld (Reg.PT_ID q) F.PT_ID_STATE 1).setFld (Reg.PT_ID q) F.PT_ID_LAST (if p.missed then 0x05 else st)
  { s.setFld (Reg.PT_TIME q) F.PT_TIME_SLACK_USED 0 with passages := tput s.passages q { p with running := [] } }

/-- The kernel of logical core `id` with serial `ser` has committed its record; the run ends once every one has (14 R377,
R388). -/
def State.runCommit (s : State) (id ser : Nat) (aborted : Bool) : State :=
  let s := s.passages.foldl (fun (t : State) (x : Nat × Passage) =>
    if s.ptState x.1 = 2 ∧ x.2.running.contains (id, ser) then
      let p := { x.2 with
        running := x.2.running.filter (fun r => r != (id, ser))
        aborted := x.2.aborted || aborted }
      if p.running.isEmpty then t.endRun x.1 p (if p.aborted then 0x02 else 0)
      else { t with passages := tput t.passages x.1 p }
    else t) s
  s.settleRt.startRuns

/-- A passage leaves the table: its block is FREE, its identity 0 (14 R389, R393). -/
def State.freePassage (s : State) (q : Nat) : State :=
  let s := (s.setFld (Reg.PT_ID q) F.PT_ID_STATE 0).setFld (Reg.PT_ID q) F.PT_ID_PID 0
  ({ s with passages := serase q s.passages }).settleRt

/-- The unused slack of the run of entry `q` (14 R387). -/
def State.slackLeft (s : State) (q : Nat) (p : Passage) : Nat :=
  p.deadline - s.fld (Reg.PT_TIME q) F.PT_TIME_BOUND - s.fld (Reg.PT_TIME q) F.PT_TIME_SLACK_USED

/-- The first RUNNING passage that keeps work of `cost` ns on some of the polders waiting: real-time mode is in force, or its
unused slack is less (14 R387, 16 R426). -/
def State.blocker (s : State) (ps : List Nat) (cost : Nat) : Option Nat :=
  (s.passages.find? (fun x => s.ptState x.1 == 2 && ps.any (fun n => (s.footprint x.2).contains n) &&
    (s.rtMode || decide (s.slackLeft x.1 x.2 < cost)))).map (fun x => x.1)

/-- The RUNNING passages whose footprint holds one of the polders. -/
def State.chargeable (s : State) (ps : List Nat) : List Nat :=
  (s.passages.filter (fun x => s.ptState x.1 == 2 && ps.any (fun n => (s.footprint x.2).contains n))).map (fun x => x.1)

/-- Charge a time to those passages (14 R387). -/
def State.charge (s : State) (qs : List Nat) (cost : Nat) : State :=
  qs.foldl (fun (t : State) q => t.setFld (Reg.PT_TIME q) F.PT_TIME_SLACK_USED (t.fld (Reg.PT_TIME q) F.PT_TIME_SLACK_USED + cost)) s

end Sys2Proof.Machine
end

