-- ==== Sys2Proof/Machine/Operands.lean ====
section
/-!
DEFINITION. Machine/Operands.lean: the operand forms of the execute engine's commands: regions and segments of the array,
operand lines, Tile Store ranges, checks in order, element types and vector elements.
-/

namespace Sys2Proof.Machine

/-- The first failing check of a list of (holds, status) pairs, in the order of the spec's tables (03 R80, 06 R144). -/
def firstFail : List (Bool × Nat) → Option Nat
  | [] => none
  | (bad, st) :: cs => if bad then some st else firstFail cs

/-- Does a Tile Store range of `n` bytes leave the space (01 R23)? -/
def tsBeyond (a n : Nat) : Bool := a + n > tsSize

/-! ## Regions (03 R73) -/

/-- A region of the array: its first row and column, its height and width. -/
structure Region where
  row : Nat
  col : Nat
  h : Nat
  w : Nat
  deriving DecidableEq, Repr

/-- Region `g` of a layout, if it exists (03 R73). -/
def regionOf (layout g : Nat) : Option Region :=
  match layout with
  | 0 => if g = 0 then some ⟨0, 0, 128, 128⟩ else none
  | 1 => if g < 4 then some ⟨64 * (g / 2), 64 * (g % 2), 64, 64⟩ else none
  | _ => if g < 16 then some ⟨32 * (g / 4), 32 * (g % 4), 32, 32⟩ else none

/-- The key of a cell in array coordinates. -/
def cellKey (row col : Nat) : Nat := 128 * row + col

/-- The (region row, region column) pairs of a region in row-major order. -/
def Region.cells (r : Region) : List (Nat × Nat) :=
  (List.range r.h).flatMap (fun i => (List.range r.w).map (fun j => (i, j)))

/-! ## Array operands (03 R67, R76, R81, R82, R90) -/

/-- One operand of a MOP: from the operand file, transposing read, segment, space, address and whether it is INT4. -/
structure MopOperand where
  of : Bool
  space : Nat
  txr : Bool
  seg : Nat
  addr : Nat
  int4 : Bool
  deriving DecidableEq, Repr

/-- The fields of a MOP or MOPZ word (03 R81). -/
structure MopWord where
  region : Nat
  type : Nat
  depth : Nat
  a : MopOperand
  b : MopOperand
  deriving DecidableEq, Repr

def decodeMop (w : Cmd) : MopWord :=
  let t := cf w 115 113
  { region := cf w 119 116
    type := t
    depth := cf w 111 99
    a := ⟨cb w 98, cf w 97 96, cb w 95, cf w 94 93, cf w 92 61, t == 2 || t == 3⟩
    b := ⟨cb w 60, cf w 59 58, cb w 57, cf w 56 55, cf w 54 23, t == 1 || t == 3⟩ }

/-- Lines an operand of depth `n` occupies (03 R82, R90). -/
def MopOperand.lines (o : MopOperand) (n : Nat) : Nat :=
  if o.txr then 128 * cdiv n 128 else if o.int4 then cdiv n 2 else n

/-- Byte `b` of operand line `l`, from the operand file or the Tile Store. -/
def opByte (k : Nat) (c : Slot) (o : MopOperand) (l b : Nat) : Nat :=
  if o.of then (sget zeroByte c.ofBytes (128 * (o.addr + l) + b)).toNat
  else (sget (c.tsDefault k) c.ts (o.addr + 128 * l + b)).toNat

/-- Element `e` of lane `r` of an operand (03 R76, R82, R90; 02 R36). -/
def opElem (k : Nat) (c : Slot) (o : MopOperand) (r e : Nat) : Int :=
  if o.txr then sint 8 (opByte k c o (128 * (e / 128) + 32 * o.seg + r) (e % 128))
  else if o.int4 then sint 4 (opByte k c o (e / 2) (32 * o.seg + r) / 16 ^ (e % 2))
  else sint 8 (opByte k c o e (32 * o.seg + r))

/-- The exact value each update step adds to a cell (03 R67). -/
def mopTerms (k : Nat) (c : Slot) (m : MopWord) (r col : Nat) : List Int :=
  let prod := fun e => opElem k c m.a r e * opElem k c m.b col e
  if m.type = 3 then
    (List.range (cdiv m.depth 2)).map (fun t =>
      prod (2 * t) + (if 2 * t + 1 < m.depth then prod (2 * t + 1) else 0))
  else (List.range m.depth).map prod

/-- Update steps of a command (03 R67). -/
def MopWord.steps (m : MopWord) : Nat := if m.type = 3 then cdiv m.depth 2 else m.depth

/-- The byte that lane `r` of an operand drives in a command's last step (05 R121). -/
def MopOperand.lastByte (o : MopOperand) (k : Nat) (c : Slot) (depth r : Nat) : Nat :=
  if o.txr then opByte k c o (128 * ((depth - 1) / 128) + 32 * o.seg + r) ((depth - 1) % 128)
  else opByte k c o (o.lines depth - 1) (32 * o.seg + r)

/-- The operand lines the feeders fetch, each with its side (true: B), in step order, A before B; TXR reads are not lines. -/
def MopWord.fetches (m : MopWord) : List (Bool × OpcTag) :=
  let tag := fun (o : MopOperand) (l : Nat) => if o.of then OpcTag.of (o.addr + l) else OpcTag.ts (o.addr / 128 + l)
  (List.range m.steps).flatMap (fun t =>
    let one := fun (o : MopOperand) =>
      if o.txr then []
      else if o.int4 && m.type != 3 then (if t % 2 = 0 then [tag o (t / 2)] else [])
      else [tag o t]
    (one m.a).map (fun t => (false, t)) ++ (one m.b).map (fun t => (true, t)))

/-- One lookup in the operand cache (05 R120): a line that either side holds is a hit; else it is fetched into the entries of the
side that asks, 16 of them, least recently used out. Answers the tags of the A and the B side and the hits. DEDUCED: each side holds
its 16 most recently fetched lines (R121's example has 112 hits on B lines while A lines are fetched between them). -/
def opcLookup (st : List OpcTag × List OpcTag × Nat) (t : Bool × OpcTag) : List OpcTag × List OpcTag × Nat :=
  let use := fun (l : List OpcTag) => t.2 :: l.erase t.2
  if st.1.contains t.2 then (use st.1, st.2.1, st.2.2 + 1)
  else if st.2.1.contains t.2 then (st.1, use st.2.1, st.2.2 + 1)
  else if t.1 then (st.1, (t.2 :: st.2.1).take 16, st.2.2) else ((t.2 :: st.1).take 16, st.2.1, st.2.2)

/-! ## Vector element types (06 R139) -/

/-- Bits of an element of an ETYPE; 0 for a reserved code. -/
def etBits : Nat → Nat
  | 0 => 4 | 1 => 8 | 2 => 16 | 3 => 32 | 4 => 64 | 5 => 16 | 6 => 16 | 7 => 32 | 8 => 64 | 9 => 128 | _ => 0

/-- The floating-point format of an ETYPE, if it is one. -/
def etFloat : Nat → Option FFmt
  | 5 => some fp16 | 6 => some bf16 | 7 => some fp32 | 8 => some fp64 | _ => none

/-- INT8 to INT64 (06 R145, "all integer"). -/
def etInt (t : Nat) : Bool := 1 ≤ t && t ≤ 4
/-- FP16, BF16, FP32, FP64 ("all float"). -/
def etFlt (t : Nat) : Bool := 5 ≤ t && t ≤ 8

/-- Bytes that `n` packed elements of `w` bits take. -/
def runBytes (n w : Nat) : Nat := cdiv (n * w) 8

/-- Element `i` of a run of `w`-bit elements in a list of bytes (06 R140, 02 R36). -/
def elemAt (bs : List Byte) (w i : Nat) : Nat :=
  if w = 4 then ((bs.getD (i / 2) 0).toNat / 16 ^ (i % 2)) % 16
  else leNat ((bs.drop (i * (w / 8))).take (w / 8))

/-- Pack elements of `w` bits into bytes; an unused nibble is 0 (02 R36). -/
def packElems (w : Nat) (es : List Nat) : List Byte :=
  if w = 4 then
    (List.range (cdiv es.length 2)).map (fun i => BitVec.ofNat 8 (es.getD (2 * i) 0 % 16 + 16 * (es.getD (2 * i + 1) 0 % 16)))
  else es.flatMap (natLE (w / 8))

/-- Pack mask bits into bytes; unused bits of the last are 0 (06 R141, R148). -/
def packMask (bs : List Bool) : List Byte :=
  (List.range (cdiv bs.length 8)).map (fun i =>
    BitVec.ofNat 8 ((List.range 8).foldl (fun a j => a + b01 (bs.getD (8 * i + j) false) * 2 ^ j) 0))

/-- Mask bit `i` of a run of bytes (06 R148). -/
def maskAt (bs : List Byte) (i : Nat) : Bool := bit (bs.getD (i / 8) 0).toNat (i % 8)

end Sys2Proof.Machine
end

