-- ==== Sys2Proof/Machine/Memory.lean ====
section
/-!
DEFINITION. Machine/Memory.lean: External Memory: placement of physical addresses on stacks, block reads and writes with
stack-loss protection, page walks, translation caches and the fault ring (11 R301 to R315, R500).
-/

namespace Sys2Proof.Machine

def State.port (s : State) (p : Nat) : Port := tget Port.reset s.ports p
def State.setPort (s : State) (p : Nat) (v : Port) : State := { s with ports := tput s.ports p v }
def State.modPort (s : State) (p : Nat) (f : Port → Port) : State := s.setPort p (f (s.port p))
/-- MP_STAT.STATE: 0 DOWN, 1 TRAINING, 2 ACTIVE, 3 HALF, 4 LOST (11 R314). -/
def State.mpState (s : State) (p : Nat) : Nat := s.fld (Reg.MP_STAT p) F.MP_STAT_STATE
def State.mpLost (s : State) (p : Nat) : Bool := s.mpState p == 4

/-! ## Regions and placement (11 R301, R302) -/

/-- Where a physical address lies: its stack, its address there, and its region's mode and number. -/
structure Place where
  stack : Nat
  loc : Nat
  mode : Nat
  reg : Nat
  deriving DecidableEq, Repr

/-- Bytes of region `r` (11 R301). -/
def State.regionSize (s : State) (r : Nat) : Nat :=
  let n := s.opts.memPorts
  (if s.fld (Reg.MR_BASE 0 r) F.MR_BASE_MODE = 1 then n - 1 else n) * s.fld (Reg.MR_MAP 0 r) F.MR_MAP_EXT * 4096
def State.regionBase (s : State) (r : Nat) : Nat := s.fld (Reg.MR_BASE 0 r) F.MR_BASE_BASE * 2 ^ 30

/-- Does region `r` hold the whole range? -/
def State.inRegion (s : State) (r a n : Nat) : Bool :=
  s.flag (Reg.MR_BASE 0 r) F.MR_BASE_VALID && decide (s.regionBase r ≤ a) && decide (a + n ≤ s.regionBase r + s.regionSize r)

/-- The region that holds the whole range, if one does. -/
def State.regionFor (s : State) (a n : Nat) : Option Nat := (List.range 8).find? (fun r => s.inRegion r a n)

/-- Place a physical address (11 R302). -/
def State.place (s : State) (pa : Nat) : Option Place :=
  match s.regionFor pa 1 with
  | none => none
  | some r =>
    let n := s.opts.memPorts
    let o := pa - s.regionBase r
    let g := o / 4096
    let c := o % 4096
    let lb := s.fld (Reg.MR_MAP 0 r) F.MR_MAP_LB
    let ext := s.fld (Reg.MR_MAP 0 r) F.MR_MAP_EXT
    match s.fld (Reg.MR_BASE 0 r) F.MR_BASE_MODE with
    | 0 => some ⟨g % n, (lb + g / n) * 4096 + c, 0, r⟩
    | 1 =>
      let row := g / (n - 1)
      some ⟨(row % n + 1 + g % (n - 1)) % n, (lb + row) * 4096 + c, 1, r⟩
    | _ => some ⟨g / ext, (lb + g % ext) * 4096 + c, 2, r⟩

/-- The region that a stack-local address lies in, if any: all stacks use the same granules (11 R301). -/
def State.localRegion (s : State) (loc : Nat) : Option Nat :=
  (List.range 8).find? (fun r => s.flag (Reg.MR_BASE 0 r) F.MR_BASE_VALID &&
    decide (s.fld (Reg.MR_MAP 0 r) F.MR_MAP_LB ≤ loc / 4096) &&
    decide (loc / 4096 < s.fld (Reg.MR_MAP 0 r) F.MR_MAP_LB + s.fld (Reg.MR_MAP 0 r) F.MR_MAP_EXT))

/-- The stack that holds the parity of a local address of a PROTECTED region (11 R302). -/
def State.parityStack (s : State) (r loc : Nat) : Nat := (loc / 4096 - s.fld (Reg.MR_MAP 0 r) F.MR_MAP_LB) % s.opts.memPorts

/-- Is a local address in a PROTECTED region? Answers its region. -/
def State.protectedAt (s : State) (loc : Nat) : Option Nat :=
  match s.localRegion loc with
  | none => none
  | some r => if s.fld (Reg.MR_BASE 0 r) F.MR_BASE_MODE = 1 then some r else none

/-! ## Blocks (11 R303 to R306) -/

/-- The key of a block for the list of unreadable blocks. -/
def blkKey (stack blk : Nat) : Nat := stack * 2 ^ 29 + blk
def State.badBlock (s : State) (stack blk : Nat) : Bool := s.badBlocks.contains (blkKey stack blk)
def State.setBad (s : State) (stack blk : Nat) : State :=
  if s.badBlock stack blk then s else { s with badBlocks := blkKey stack blk :: s.badBlocks }
def State.clearBad (s : State) (stack blk : Nat) : State :=
  { s with badBlocks := s.badBlocks.filter (· != blkKey stack blk) }

def xorBytes (a b : List Byte) : List Byte := List.zipWith (· ^^^ ·) a b

/-- The other stacks of a row. -/
def State.otherStacks (s : State) (stack : Nat) : List Nat := (List.range s.opts.memPorts).filter (· != stack)

/-- Is a delta to a block's row on its way to the parity port? A rebuild of the row waits for it (11 R306). -/
def State.deltaPending (s : State) (blk : Nat) : Bool :=
  s.net.any (fun p => match p.body with | .delta _ _ b _ => b == blk | _ => false)

/-- The record of an UNCORRECTABLE read (11 R304, 17 R458). -/
def State.reportUe (s : State) (stack blk : Nat) : State :=
  s.report ⟨0x40, 2, 84 + stack / 2, 3, stack, 0xFF, 0x0B, [BitVec.ofNat 64 blk, s.rd (Reg.MP_ERR stack)]⟩

/-- Count a block read or written at a stack (11 R314). -/
def State.mpCount (s : State) (p : Nat) (write : Bool) : State :=
  if write then s.perfAdd (Reg.MP_WR p) 1 (Reg.MP_STAT p) F.MP_STAT_WR_OVF F.MP_STAT_OVF_AE
  else s.perfAdd (Reg.MP_RD p) 1 (Reg.MP_STAT p) F.MP_STAT_RD_OVF F.MP_STAT_OVF_AE

/-! ## The controller's queues (11 R290, R297, R299) -/

/-- Classes of requests (11 R299). -/
def clsBounded : Nat := 0
def clsWalker : Nat := 1
def clsPrio (p : Nat) : Nat := 2 + p
def clsScrub : Nat := 6
/-- The class code of a request: its class and, of a BOUNDED one, the priority and the passage that it carries (08 R215, 14 R384). -/
def clsCode (cls prio pass : Nat) : Nat := cls + 8 * (prio + 4 * pass)
def codeClass (c : Nat) : Nat := c % 8
def codePass (c : Nat) : Nat := c / 32
/-- The priority that a class code carries (11 R292). -/
def codePrio (c : Nat) : Nat := if codeClass c = clsScrub then 3 else if 2 ≤ codeClass c then codeClass c - 2 else c / 8 % 4
/-- The class of what an event waits for at a closed sluice: it asks no stack for anything (16 R422). -/
def clsSluice : Nat := 7

/-- Is a write to the block in the port's write buffer? -/
def Port.writing (c : Port) (blk : Nat) : Bool := (c.wrHeld ++ c.wrQ ++ c.wrOut).any (fun w => w.blk == blk)

/-- A read joins the port's queue for the stack. -/
def State.queueRead (s : State) (p blk cls pass : Nat) (who : ReadFor) : State :=
  (s.modPort p (fun c => { c with
    nextTag := (c.nextTag + 1) % 4096
    rdQ := c.rdQ ++ [⟨c.nextTag, blk, cls, pass, s.time, 0, who⟩] })).mpCount p false

/-- Blocks that have come for a unit show what is written over them. -/
def refresh (gs : List Got) (p blk : Nat) (bs : List Byte) : List Got :=
  gs.map (fun (g : Got) => if g.stack = p ∧ g.blk = blk then { g with status := 0, bytes := bs } else g)

/-- A whole block passes its ordering point: every later request sees it (11 R297). -/
def State.orderBlock (s : State) (p blk : Nat) (bs : List Byte) : State :=
  ({ s with got := refresh s.got p blk bs }.emPut p (256 * blk) bs).clearBad p blk

/-- A write joins the port's write buffer, on its way to the stack; it waits there for its delta where `held`. -/
def State.queueWrite (s : State) (p blk cls pass : Nat) (old bs : List Byte) (held : Bool) : State :=
  s.modPort p (fun c =>
    let w : PWrite := ⟨c.nextTag, blk, old, bs, cls, pass, s.time⟩
    { c with
      nextTag := (c.nextTag + 1) % 4096
      wrQ := if held then c.wrQ else c.wrQ ++ [w]
      wrHeld := if held then c.wrHeld ++ [w] else c.wrHeld })

/-- A whole block is written in class `cls`, for a passage: it passes its ordering point, and is sent to the stack. -/
def State.putBlock (s : State) (p blk cls pass : Nat) (bs : List Byte) : State :=
  ((s.orderBlock p blk bs).queueWrite p blk cls pass (s.emBytes p (256 * blk) 256) bs false).mpCount p true

/-! ## Waiting for a block (11 R294, R297, R304, R306) -/

/-- Can a block not be read for a rebuild: its port is lost or closed off, or the block itself cannot be read? -/
def State.unreadable (s : State) (p blk : Nat) : Bool :=
  s.mpLost p || s.behind (.port p) || s.badBlock p blk || (s.port p).rebuilds.any (fun x => x.1 == blk)

/-- Is a block on its way to a unit? -/
def Port.coming (c : Port) (blk : Nat) : Bool :=
  (c.rdQ ++ c.rdOut).any (fun r => r.blk == blk && r.who == .unit) || c.rebuilds.any (fun x => x.1 == blk && x.2 == .unit)

/-- Ask the stack for a block for a unit, unless it is on its way or waits in the write buffer. -/
def State.fetchBlock (s : State) (p blk cls : Nat) : State :=
  if (s.port p).coming blk || (s.port p).writing blk then s else s.queueRead p blk cls (codePass cls) .unit

/-- A block of a PROTECTED region waits to be rebuilt from the others of its row, which are read together at the priority of
walker reads (11 R306); passages naming a port whose stack is read from other than for themselves are told: the block's own and
that of its row's parity (14 R391). -/
def State.startRebuild (s : State) (p blk : Nat) (who : ReadFor) : State :=
  let s := (s.modPort p (fun c => { c with rebuilds := c.rebuilds ++ [(blk, who)] })).riskPort 0x40 p
  let s := match s.protectedAt (256 * blk) with
    | some r => s.riskPort 0x40 (s.parityStack r (256 * blk))
    | none => s
  (s.otherStacks p).foldl (fun (t : State) o =>
    if t.unreadable o blk || t.path (.port p) (.port o) != .ok then t else t.fetchBlock o blk clsWalker) s

/-- Start what an event waits for: a block of a lost stack, or one that cannot be read, is rebuilt. -/
def State.postAsk (s : State) (a : Nat × Nat × Nat) : State :=
  if a.2.2 = clsSluice || (s.port a.1).coming a.2.1 then s
  else if s.mpLost a.1 || s.badBlock a.1 a.2.1 then s.startRebuild a.1 a.2.1 .unit
  else s.fetchBlock a.1 a.2.1 a.2.2

/-- An event that reads or writes External Memory. Where it needs a block that has not come from its stack, it does not occur yet:
the block is asked for, and the event is to be given again. Within an event that already waits, nothing more occurs. -/
def State.overEm (s : State) (f : State → State) : State :=
  if s.asks.isEmpty then
    let t := f s
    if t.asks.isEmpty then { t with got := t.got.filter (fun (g : Got) => !g.used) } else t.asks.foldl State.postAsk s
  else s

/-- A unit reads a whole block in class `cls`: its status and bytes, or zeros where it has not come and is asked for. A block that
cannot be read is UNCORRECTABLE but in a PROTECTED region (11 R304, R306). -/
def State.blockRead (s : State) (cls stack blk : Nat) : Nat × List Byte × State :=
  if s.behind (.port stack) then (0x0E, [], s)
  else if (s.port stack).writing blk then (0, s.emBytes stack (256 * blk) 256, s)
  else
    match s.got.find? (fun (g : Got) => g.stack == stack && g.blk == blk) with
    | some g => (g.status, g.bytes, { s with got := s.got.map (fun (x : Got) =>
        if x.stack = stack ∧ x.blk = blk then { x with used := true } else x) })
    | none =>
      if (s.mpLost stack || s.badBlock stack blk) && (s.protectedAt (256 * blk)).isNone then (0x0B, [], s.reportUe stack blk)
      else (0, List.replicate 256 0, { s with asks := s.asks ++ [(stack, blk, cls)] })

/-- The XOR of a row's blocks on some stacks, read in turn; the first failing status ends it. -/
def State.rowXor (s : State) (os : List Nat) (blk : Nat) (from_ : List Byte) : Nat × List Byte × State :=
  os.foldl (fun (a : Nat × List Byte × State) o =>
    if a.1 ≠ 0 then a
    else if a.2.2.unreadable o blk then (0x0B, [], a.2.2)
    else
      match a.2.2.blockRead clsWalker o blk with
      | (0, bs, t) => (0, xorBytes a.2.1 bs, t)
      | (st, _, t) => (st, [], t)) (0, from_, s)

/-- The bytes of a block rebuilt from the others of its row (11 R306). -/
def State.rebuild (s : State) (stack blk : Nat) : Nat × List Byte × State :=
  s.rowXor (s.otherStacks stack) blk (List.replicate 256 0)

/-- Parity of a row as of before the deltas that are on their way to it: they are XORed in when they come (11 R305, R306). -/
def State.beforeDeltas (s : State) (blk : Nat) (par : List Byte) : List Byte :=
  s.net.foldl (fun a p => match p.body with | .delta _ _ b bs => if b = blk then xorBytes a bs else a | _ => a) par

/-- Replace part of a block's bytes. -/
def mergeBytes (old : List Byte) (off : Nat) (bs : List Byte) : List Byte := old.take off ++ bs ++ old.drop (off + bs.length)

/-- The block that a write of part of it leaves: the old one is read for it, but where the write is whole (11 R298). -/
def State.newBlock (s : State) (cls : Nat) (pl : Place) (bs : List Byte) : Nat × List Byte × State :=
  if bs.length = 256 then (0, bs, s)
  else
    match s.blockRead cls pl.stack (pl.loc / 256) with
    | (0, old, t) => (0, mergeBytes old (pl.loc % 256) bs, t)
    | r => r

/-- A block of a lost stack in a PROTECTED region is written: the parity port writes the XOR of the new block and the other data
blocks of the row; one that a second LOST port makes unrebuildable is UNCORRECTABLE (11 R306). -/
def State.lostWrite (s : State) (ps stack blk : Nat) (new : List Byte) : Nat × State :=
  if s.mpLost ps then (0x0B, s.reportUe stack blk)
  else
    match s.rowXor ((s.otherStacks stack).filter (· != ps)) blk new with
    | (0, par, t) => (0, t.putBlock ps blk clsWalker 0 (s.beforeDeltas blk par))
    | (_, _, t) => (0x0B, t.reportUe stack blk)

/-- The parity block of a row takes a delta (11 R305). Where the block cannot be read it is made anew from the data blocks, which have
the delta in them; parity that cannot be made is not kept, and serves no rebuild. -/
def State.parityPut (s : State) (ps blk : Nat) (delta : List Byte) : State :=
  if s.mpLost ps then s
  else
    match s.blockRead clsWalker ps blk with
    | (0, par, t) =>
      if !t.asks.isEmpty && (s.badBlock ps blk || (s.port ps).rebuilds.any (fun x => x.1 == blk)) then
        (match s.rebuild ps blk with
          | (0, par, t) => t.putBlock ps blk clsWalker 0 (s.beforeDeltas blk par)
          | (_, _, t) => t.setBad ps blk)
      else t.putBlock ps blk clsWalker 0 (xorBytes par delta)
    | (_, _, t) => t.setBad ps blk

/-- What a reset's own sequence waits for comes within its event. What the stack's data meets is a free value: good, corrected, or
beyond correction; what cannot be read is rebuilt in a PROTECTED region, and elsewhere it is UNCORRECTABLE (11 R304). -/
def State.answer (s : State) (a : Nat × Nat × Nat) : State :=
  let d := s.draw
  let s := d.2.mpCount a.1 false
  let lost := s.mpLost a.1 || s.badBlock a.1 a.2.1
  let s := if lost then s
    else if d.1.toNat % 4 = 1 then s.errCount (Reg.MP_ERR a.1) F.MP_ERR_CE (Reg.MP_STAT a.1) F.MP_STAT_SAT 2 (84 + a.1 / 2)
    else if d.1.toNat % 4 = 2 then s.errCount (Reg.MP_ERR a.1) F.MP_ERR_UE (Reg.MP_STAT a.1) F.MP_STAT_SAT 1 (84 + a.1 / 2) else s
  let back := fun (t : State) (st : Nat) (bs : List Byte) => { t with got := t.got ++ [⟨a.1, a.2.1, st, bs, false⟩] }
  if !lost && d.1.toNat % 4 != 2 then back s 0 (s.emBytes a.1 (256 * a.2.1) 256)
  else
    match (s.protectedAt (256 * a.2.1)), s.otherStacks a.1 with
    | some _, os =>
      if os.any (fun o => s.mpLost o || s.badBlock o a.2.1) then back (s.reportUe a.1 a.2.1) 0x0B []
      else
        let bs := os.foldl (fun x o => xorBytes x (s.emBytes o (256 * a.2.1) 256)) (List.replicate 256 0)
        back (if s.mpLost a.1 then s else s.putBlock a.1 a.2.1 (clsPrio 3) 0 bs) 0 bs
    | none, _ => back ((s.setBad a.1 a.2.1).reportUe a.1 a.2.1) 0x0B []
def State.withAnswers (s : State) {α : Type} (f : State → α × State) : α × State :=
  let r := f s
  if r.2.asks.isEmpty then r
  else
    let q := f (r.2.asks.foldl State.answer s)
    (q.1, { q.2 with got := q.2.got.filter (fun (g : Got) => !g.used) })

/-- Part of a block is written in class `cls`, for a passage (11 R298), and the parity of a PROTECTED row is kept (11 R305, R306). -/
def State.partWrite (s : State) (cls pass : Nat) (pl : Place) (bs : List Byte) : Nat × State :=
  let blk := pl.loc / 256
  if s.behind (.port pl.stack) then (0x0E, s)
  else
    match s.protectedAt pl.loc with
    | none =>
      if s.mpLost pl.stack then (0x0B, s.reportUe pl.stack blk)
      else
        (match s.newBlock cls pl bs with
          | (0, new, t) => (0, t.putBlock pl.stack blk cls pass new)
          | (st, _, t) => (st, t))
    | some r =>
      let ps := s.parityStack r pl.loc
      match s.newBlock cls pl bs with
      | (0, new, t) =>
        if t.mpLost pl.stack then t.lostWrite ps pl.stack blk new
        else if t.mpLost ps then (0, t.putBlock pl.stack blk cls pass new)
        else
          (match t.blockRead cls pl.stack blk with
            | (0, old, u) => (0, (u.parityPut ps blk (xorBytes old new)).putBlock pl.stack blk cls pass new)
            | (st, _, u) => (st, u))
      | (st, _, t) => (st, t)

/-- Cut a range at 256-byte boundaries: (address, length) pieces. The fuel is the number of pieces at most. -/
def pieces : Nat → Nat → Nat → List (Nat × Nat)
  | 0, _, _ => []
  | f + 1, a, n => if n = 0 then [] else
      let m := min n (256 - a % 256)
      (a, m) :: pieces f (a + m) (n - m)

def piecesOf (a n : Nat) : List (Nat × Nat) := pieces (n / 256 + 2) a n

/-- A unit reads a physical range in class `cls`: the first failing status, or the bytes; all its blocks are asked for together, and
none by an event that waits already. -/
def State.emLoad (s : State) (cls pa n : Nat) : Nat × List Byte × State :=
  if !s.asks.isEmpty then (0, List.replicate n 0, s)
  else
  (piecesOf pa n).foldl (fun (acc : Nat × List Byte × State) p =>
    if acc.1 ≠ 0 then acc
    else match acc.2.2.place p.1 with
      | none => (0x04, [], acc.2.2)
      | some pl =>
        match acc.2.2.blockRead cls pl.stack (pl.loc / 256) with
        | (0, bs, s') => (0, acc.2.1 ++ (bs.drop (pl.loc % 256)).take p.2, s')
        | (st, _, s') => (st, [], s')) (0, [], s)

/-- Host-complex channels whose read-pointer doubleword lies in a range that was written take the new value (09 R234, 18
R469). -/
def State.hostWatch (s : State) (pa n : Nat) : State :=
  (List.range 32).foldl (fun t c =>
    let b := Reg.HCH_CFG c
    let rpa := t.fld (Reg.HCH_RPA c) F.HCH_RPA_RPADDR
    if overlaps pa n rpa 8 then
      match t.place rpa with
      | some pl => t.rpTake b (.host (t.fld b F.HCH_CFG_HART)) c (tget [] t.hostWait c) (leNat (t.emBytes pl.stack pl.loc 4))
      | none => t
    else t) s

/-- A unit writes a physical range in class `cls`, block by block; the first failing status ends it. -/
def State.emStore (s : State) (cls pa : Nat) (bs : List Byte) : Nat × State :=
  if !s.asks.isEmpty then (0, s)
  else
  ((piecesOf pa bs.length).foldl (fun (acc : (Nat × State) × Nat) p =>
    if acc.1.1 ≠ 0 then acc
    else match acc.1.2.place p.1 with
      | none => ((0x04, acc.1.2), acc.2)
      | some pl =>
        let r := acc.1.2.partWrite cls 0 pl ((bs.drop acc.2).take p.2)
        ((r.1, if r.1 = 0 then r.2.hostWatch p.1 p.2 else r.2), acc.2 + p.2)) ((0, s), 0)).1

/-! ## Units that reach the stacks over the spine (01 R17, 16 R422) -/

/-- How the requests of an agent for a physical range fare on their way to the ports: one that waits holds the others. -/
def State.emWay (s : State) (e : Endpoint) (pa n : Nat) : Reach :=
  let ways := (piecesOf pa n).filterMap (fun p => (s.place p.1).map (fun w => s.path e (.port w.stack)))
  if ways.contains .wait then .wait else if ways.contains .closed then .closed else .ok

/-- An event waits for a sluice. -/
def State.askSluice (s : State) : State := { s with asks := s.asks ++ [(0, 0, clsSluice)] }

/-- Agent `e` reads a physical range. -/
def State.emLoadBy (s : State) (e : Endpoint) (cls pa n : Nat) : Nat × List Byte × State :=
  match s.emWay e pa n with
  | .ok => s.emLoad cls pa n
  | .wait => (0, List.replicate n 0, s.askSluice)
  | .closed => (0x0E, [], s)

/-- Agent `e` writes a physical range. -/
def State.emStoreBy (s : State) (e : Endpoint) (cls pa : Nat) (bs : List Byte) : Nat × State :=
  match s.emWay e pa bs.length with
  | .ok => s.emStore cls pa bs
  | .wait => (0, s.askSluice)
  | .closed => (0x0E, s)

/-! ## Page-table entries (11 R308) -/

def pteV (w : Word) : Bool := bit w.toNat 63
def pteKind (w : Word) : Nat := bits w.toNat 61 2
def pteRd (w : Word) : Bool := bit w.toNat 60
def pteWr (w : Word) : Bool := bit w.toNat 59
def pteNmu (w : Word) : Bool := bit w.toNat 58
def ptePin (w : Word) : Bool := bit w.toNat 57
def pteNode (w : Word) : Nat := bits w.toNat 48 6
def pteAddr (w : Word) : Nat := bits w.toNat 0 48

/-- What an access asks for. -/
structure XlAccess where
  write : Bool
  nmu : Bool
  bounded : Bool
  deriving DecidableEq, Repr

/-- Bytes of a page. -/
def pageSize (big : Bool) : Nat := if big then 2 ^ 21 else 2 ^ 16

/-- Does a leaf permit an access (11 R309)? -/
def State.leafOk (s : State) (pte : Word) (big : Bool) (a : XlAccess) : Bool :=
  (if a.write then pteWr pte else pteRd pte) && (!a.nmu || pteNmu pte) &&
  (!a.bounded || (pteKind pte == 1 && ptePin pte)) &&
  (pteKind pte != 1 || (s.regionFor (pteAddr pte / pageSize big * pageSize big) (pageSize big)).isSome)

/-- Where a translated access goes (11 R308, R313). -/
inductive Target where
  | em (pa : Nat)
  | partner (node pa : Nat)
  | host (addr : Nat)
  deriving DecidableEq, Repr

/-- The place a leaf names for a virtual address. -/
def leafTarget (pte : Word) (big : Bool) (va : Nat) : Target :=
  let sz := pageSize big
  match pteKind pte with
  | 3 => .host (pteAddr pte * 2 ^ 16 / sz * sz + va % sz)
  | 2 => .partner (pteNode pte) (pteAddr pte / sz * sz + va % sz)
  | _ => .em (pteAddr pte / sz * sz + va % sz)

/-! ## Translation caches (11 R310) -/

/-- Look a translation up in a cache of `sets` sets; a hit becomes the most recently used of its set. -/
def tlbFind (t : Sparse (List TlbEntry)) (sets fleet va : Nat) : Option TlbEntry :=
  (List.range 2).findSome? (fun b =>
    let big := b == 1
    let vpn := va / pageSize big
    (tget [] t (vpn % sets)).find? (fun e => e.fleet == fleet && e.vpn == vpn && e.big == big))

/-- Put a translation into its set, the oldest of `ways` going out. -/
def tlbPut (t : Sparse (List TlbEntry)) (sets ways : Nat) (e : TlbEntry) : Sparse (List TlbEntry) :=
  let i := e.vpn % sets
  let old := (tget [] t i).filter (fun o => !(o.fleet == e.fleet && o.vpn == e.vpn && o.big == e.big))
  tput t i ((e :: old).take ways)

/-- Is an entry overlapped by an invalidation of `n` 64-KiB units from `va` (11 R315)? -/
def TlbEntry.hitBy (e : TlbEntry) (fleet : Nat) (all : Bool) (va n : Nat) : Bool :=
  e.fleet == fleet && (all || overlaps (e.vpn * pageSize e.big) (pageSize e.big) va n)

def tlbDrop (t : Sparse (List TlbEntry)) (fleet : Nat) (all : Bool) (va n : Nat) : Sparse (List TlbEntry) :=
  t.map (fun (p : Nat × List TlbEntry) => (p.1, p.2.filter (fun e => !e.hitBy fleet all va n)))

/-! ## Walks (11 R307, R309) -/

/-- The port whose walker serves a fleet (11 R310). -/
def State.walkerOf (s : State) (fleet : Nat) : Nat := fleet % s.opts.memPorts

/-- How a walk ends: status 0 and a leaf, or a fault at a level. -/
structure WalkRes where
  status : Nat
  level : Nat
  pte : Word
  big : Bool
  deriving DecidableEq, Repr

/-- The bits of a virtual address that a level's index ends at. -/
def levelShift : Nat → Nat
  | 1 => 39 | 2 => 30 | 3 => 21 | _ => 16

/-- Read a table entry through the walk cache: its status and word. -/
def State.tableEntry (s : State) (fleet level table va : Nat) : Nat × Word × State :=
  let w := s.walkerOf fleet
  let sh := levelShift level
  let size := if level = 4 then 32 else 512
  match (s.port w).wcache.find? (fun e => e.fleet == fleet && e.level == level && e.index == va / 2 ^ sh) with
  | some e => (0, e.pte, s)
  | none =>
    let r := s.emLoadBy (.port w) clsWalker (table + 8 * (va / 2 ^ sh % size)) 8
    (r.1, BitVec.ofNat 64 (leNat r.2.1), r.2.2)

/-- Keep a NEXT entry of level 1 to 3 in the walk cache, of 256 entries. -/
def State.keepEntry (s : State) (fleet level va : Nat) (pte : Word) : State :=
  let e : WalkEntry := ⟨fleet, level, va / 2 ^ levelShift level, pte⟩
  s.modPort (s.walkerOf fleet) (fun p => { p with wcache := (e :: p.wcache.filter (· != e)).take 256 })

/-- Walk the levels in order from `level`, whose table is at `table`. -/
def State.walkLevels (s : State) (fleet va : Nat) (a : XlAccess) : Nat → Nat → Nat → WalkRes × State
  | 0, _, _ => (⟨0x03, 4, 0, false⟩, s)
  | fuel + 1, level, table =>
    match s.tableEntry fleet level table va with
    | (0, pte, s) =>
      let k := pteKind pte
      if !pteV pte then (⟨0x03, level, 0, false⟩, s)
      else if k = 0 then
        (if level = 4 then (⟨0x03, 4, 0, false⟩, s)
         else
          let al := if level = 3 then 256 else 4096
          (s.keepEntry fleet level va pte).walkLevels fleet va a fuel (level + 1) (pteAddr pte / al * al))
      else if level < 3 then (⟨0x03, level, 0, false⟩, s)
      else if s.leafOk pte (level == 3) a then (⟨0, level, pte, level == 3⟩, s)
      else (⟨0x04, level, 0, false⟩, s)
    | (st, _, s) => (⟨st, level, 0, false⟩, s)

/-- A page walk (11 R307, R309). -/
def State.walk (s : State) (fleet va : Nat) (a : XlAccess) : WalkRes × State :=
  if !s.flag (Reg.XL_PTBASE fleet) F.XL_PTBASE_EN then (⟨0x03, 0, 0, false⟩, s)
  else s.walkLevels fleet va a 4 1 (s.fld (Reg.XL_PTBASE fleet) F.XL_PTBASE_BASE * 4096)

/-! ## Fault records (11 R312, R315) -/

def State.xfSize (s : State) : Nat := 4096 * 2 ^ s.fld Reg.XF_RING F.XF_RING_SIZE
def State.xfUsed (s : State) : Nat :=
  (s.fld Reg.XF_PTR F.XF_PTR_WP + 2 ^ 32 - s.fld Reg.XF_PTR F.XF_PTR_RP) % 2 ^ 32

/-- The walker a record belongs to. -/
def State.recWalker (s : State) (r : List Byte) : Nat := s.walkerOf ((r.getD 10 0).toNat)

/-- Write held records to the ring while it is enabled and has space; one that waits for its block, or that cannot be written, stays
held. -/
def State.drainFaults (s : State) : Nat → State
  | 0 => s
  | f + 1 =>
    match s.xfHeld with
    | [] => s
    | r :: rs =>
      if s.flag Reg.XF_RING F.XF_RING_EN && decide (s.xfUsed + 32 ≤ s.xfSize) then
        let wp := s.fld Reg.XF_PTR F.XF_PTR_WP
        let t := s.overEm (fun s =>
          match s.emStoreBy (.port (s.recWalker r)) clsWalker (s.fld Reg.XF_RING F.XF_RING_BASE * 4096 + wp % s.xfSize) r with
          | (0, u) => (({ u with xfHeld := rs } : State).setFld Reg.XF_PTR F.XF_PTR_WP (wp + 32)).alert 1
          | _ => s)
        if t.xfHeld.length < s.xfHeld.length then t.drainFaults f else t
      else s

/-- Who asked for a translation that faulted. -/
structure FaultBy where
  skind : Nat
  sid : Nat
  slot : Nat
  deriving DecidableEq, Repr

/-- The unit that asked. -/
def FaultBy.agent (b : FaultBy) : Endpoint :=
  match b.skind with | 2 => .nmu b.sid | 3 => .attach | 4 => .link b.sid | _ => .core b.sid

/-- A fault record, held until the ring takes it. -/
def State.faultRecord (s : State) (va : Nat) (r : WalkRes) (a : XlAccess) (fleet : Nat) (b : FaultBy) : State :=
  let rec_ := natLE 8 (va % 2 ^ 48) ++ natLE 1 r.status ++ natLE 1 (b01 a.write + 2 * b01 a.bounded + 4 * b01 a.nmu) ++
    natLE 1 fleet ++ natLE 1 b.skind ++ natLE 1 b.sid ++ natLE 1 b.slot ++ natLE 1 r.level ++ natLE 1 0 ++
    natLE 8 s.time ++ natLE 8 s.xfSeq
  let s := { s with xfHeld := s.xfHeld ++ [rec_], xfSeq := s.xfSeq + 1 }
  s.drainFaults s.xfHeld.length

/-- Does the walker of a fleet hold 64 records, and so start no walk (11 R312)? -/
def State.walkerFull (s : State) (fleet : Nat) : Bool :=
  decide (64 ≤ (s.xfHeld.filter (fun r => s.recWalker r == s.walkerOf fleet)).length)

/-- Does a cache hold a translation that permits an access, so that no walk is needed? -/
def State.cached (s : State) (tlb : Sparse (List TlbEntry)) (sets fleet va : Nat) (a : XlAccess) : Bool :=
  (tlbFind tlb sets fleet va).any (fun e => s.leafOk e.pte e.big a)

/-- Translate through a cache of the requester: a hit that permits the access is used; else the walker is asked. `tlb` is the
cache, with `sets` and `ways`. Answers status and target, the cache, and the state; a fault writes its record. -/
def State.translate (s : State) (tlb : Sparse (List TlbEntry)) (sets ways fleet va : Nat) (a : XlAccess) (b : FaultBy) :
    (Nat × Target) × Sparse (List TlbEntry) × State :=
  let walk := fun (_ : Unit) =>
    match s.path b.agent (.port (s.walkerOf fleet)) with
    | .wait => ((0, .em 0), tlb, s.askSluice)
    | .closed => ((0x0E, .em 0), tlb, s)
    | .ok =>
      let r := s.walk fleet va a
      if r.1.status = 0 then
        ((0, leafTarget r.1.pte r.1.big va),
          tlbPut tlb sets ways ⟨fleet, va / pageSize r.1.big, r.1.big, r.1.pte⟩, r.2)
      else ((r.1.status, .em 0), tlb, r.2.faultRecord va r.1 a fleet b)
  match tlbFind tlb sets fleet va with
  | some e =>
    if s.leafOk e.pte e.big a then ((0, leafTarget e.pte e.big va), tlbPut tlb sets ways e, s)
    else walk ()
  | none => walk ()

/-- Sets and ways of a sector's translation cache (11 R310). -/
def secSets : Nat := 256
def secWays : Nat := 8

/-- Translate for a core, through its sector's cache. -/
def State.secTranslate (s : State) (sec fleet va : Nat) (a : XlAccess) (b : FaultBy) : (Nat × Target) × State :=
  let r := s.translate (s.sector sec).tlb secSets secWays fleet va a b
  (r.1, r.2.2.setSector sec { r.2.2.sector sec with tlb := r.2.1 })

/-! ## Requests that leave the block (R313) -/

/-- FL_STAT.STATE of a Filic port: 0 DOWN, 1 TRAINING, 2 ACTIVE, 3 HALF, 4 LOST (13 R369). -/
def State.flState (s : State) (l : Nat) : Nat := s.fld (Reg.FL_STAT l) F.FL_STAT_STATE
def State.flLost (s : State) (l : Nat) : Bool := s.flState l == 4

/-- The port on which packets for a node leave (13 R359). -/
def State.routeTo (s : State) (node : Nat) : Option Nat := tfind s.cfg.routes node

/-- An access to a partner: it waits for a frame of the port that leads there, or ends LINKDOWN where no port in service does
(13 R351). -/
def State.askRemote (s : State) (r : RemoteReq) : State :=
  let down := match s.routeTo r.node with | some l => s.flLost l | none => true
  if !down then { s with remote := s.remote ++ [r] }
  else if r.write then s.send .reply (.link 0) (.core r.core) (.xferAck r.xid 0x91)
  else s.send .data (.link 0) (.core r.core) (.xferData r.xid 0x91 [])

/-- An access to host memory: it waits at the host attach port (R313, 18 R462). -/
def State.askHost (s : State) (write : Bool) (addr len : Nat) (bs : List Byte) (core xid : Nat)
    (fill : Option (Nat × Nat × Nat)) (xl : XlUse) : State :=
  let line := fill.isSome && !write
  let a := if line then addr / 256 * 256 else addr
  let n := if line then 256 else len
  ({ s with hm := s.hm ++ [{
    write := write, addr := a, len := n, bytes := bs, core := core, xid := xid, lo := if line then addr % 256 else 0, want := len,
    fill := fill, sent := false, tag := 0, due := 0, xl := xl, inv := false }] } : State).haSend
      ⟨if write then 0x12 else 0x11, a, n, bs, 0, 0⟩

end Sys2Proof.Machine
end

