-- ==== Sys2Proof/Machine/Flags.lean ====
section
/-!
DEFINITION. Machine/Flags.lean: conditions of conversions, first positions, conversion summaries, NUM_STAT and the scale
scouts (02 R56 to R64).
-/

namespace Sys2Proof.Machine

/-- What one command's elements have shown so far: the largest magnitude, the largest magnitudes of its last elements from each
element on, falling (02 R64), and the first position of each condition (02 R56, R63). -/
structure Seen where
  mag : Nat
  tails : List Nat
  nf : Option Nat
  wrap : Option Nat
  rng : Option Nat
  deriving DecidableEq, Repr

def Seen.none : Seen := ⟨0, [], .none, .none, .none⟩

/-- Note a condition at a position, where it is the first. -/
def noteAt (o : Option Nat) (b : Bool) (pos : Nat) : Option Nat :=
  match o with | .some p => .some p | .none => if b then .some pos else .none

/-- The largest magnitudes from each element on, where one more element follows. -/
def addTail (ts : List Nat) : Option Nat → List Nat
  | .none => ts
  | .some m => ts.takeWhile (fun x => decide (m < x)) ++ [m]

/-- Note one converted element at its position. -/
def Seen.conv (t : Seen) (pos : Nat) (c : Conv) : Seen :=
  { t with mag := scoutMax t.mag c.mag, tails := addTail t.tails c.mag, nf := noteAt t.nf c.nf pos, rng := noteAt t.rng c.rng pos }

/-- Note a set wrap bit (02 R54). -/
def Seen.wrapped (t : Seen) (pos : Nat) (b : Bool) : Seen := { t with wrap := noteAt t.wrap b pos }

/-- The 16-byte conversion summary (02 R57). -/
def Seen.summary (t : Seen) : List Byte :=
  natLE 4 t.mag ++ natLE 2 (t.nf.getD 0) ++ natLE 2 (t.wrap.getD 0) ++ natLE 2 (t.rng.getD 0) ++
  natLE 6 (b01 t.nf.isSome + 2 * b01 t.wrap.isSome + 4 * b01 t.rng.isSome + 128)

/-- Record one condition in NUM_STAT: the first command to raise it while its sticky bit is clear sets the bit and
records source and position (02 R59). -/
def numStatOne (w : Word) (stick src pos : Fld) (code : Nat) (o : Option Nat) : Word :=
  match o with
  | .none => w
  | .some p => if getF w stick = 1 then w else putF (putF (putF w stick 1) src code) pos p

/-- Accumulate a command's conditions in NUM_STAT (02 R58, R59). -/
def State.numStat (s : State) (k code : Nat) (t : Seen) : State :=
  let w := s.rd (Reg.NUM_STAT k)
  let w := numStatOne w F.NUM_STAT_NF F.NUM_STAT_NF_SRC F.NUM_STAT_NF_POS code t.nf
  let w := numStatOne w F.NUM_STAT_WRAP F.NUM_STAT_WRAP_SRC F.NUM_STAT_WRAP_POS code t.wrap
  let w := numStatOne w F.NUM_STAT_RNG F.NUM_STAT_RNG_SRC F.NUM_STAT_RNG_POS code t.rng
  s.wr (Reg.NUM_STAT k) w

/-- A converting command's effect on a scout: cleared first where SR is set, then the larger magnitude (02 R61). -/
def State.scout (s : State) (off : Nat) (sr : Bool) (mag : Nat) : State :=
  s.setFld off F.SCOUT0_MAX (max (if sr then 0 else s.fld off F.SCOUT0_MAX) mag)

/-- SCOUT0 or SCOUT1 of a slot (02 R60). -/
def scoutReg (k : Nat) (one : Bool) : Nat := if one then Reg.SCOUT1 k else Reg.SCOUT0 k

def Slot.tails (c : Slot) (one : Bool) : List Nat := if one then c.tails1 else c.tails0
def Slot.setTails (c : Slot) (one : Bool) (ts : List Nat) : Slot := if one then { c with tails1 := ts } else { c with tails0 := ts }

/-- What all commands in progress may still bring to a scout. -/
def tailsOf (by_ : List (Nat × Bool × List Nat)) (one : Bool) : List Nat :=
  ((by_.filter (fun x => x.2.1 == one)).flatMap (fun x => x.2.2)).insertionSort (· ≥ ·)

/-- Commands in progress, with what they may still bring to the scouts. -/
def Slot.setTailBy (c : Slot) (by_ : List (Nat × Bool × List Nat)) : Slot := { c with
  tailBy := by_
  tails0 := tailsOf by_ false
  tails1 := tailsOf by_ true }

/-- The command that has just made its effect, after `n` others, is the one of ticket `t`. -/
def Slot.nameTails (c : Slot) (n t : Nat) : Slot :=
  { c with tailBy := c.tailBy.take n ++ (c.tailBy.drop n).map (fun (x : Nat × Bool × List Nat) => (t, x.2)) }

/-- A command has completed: a write of a scout falls behind its groups (02 R64). -/
def Slot.dropTails (c : Slot) (t : Nat) : Slot :=
  if c.tailBy.any (fun x => x.1 == t) then c.setTailBy (c.tailBy.filter (fun x => x.1 != t)) else c

/-- A converting command of a core has shown its elements: its effect on the scout, and what a write of MAX may still find ahead of
it while the command is in progress (02 R61, R64). -/
def State.scouted (s : State) (k : Nat) (one sr : Bool) (seen : Seen) : State :=
  (s.scout (scoutReg k one) sr seen.mag).modSlot k (fun c => c.setTailBy (c.tailBy ++ [(0, one, seen.tails)]))

/-- A write of MAX of a core's scout (02 R64): it falls between two element groups of each command in progress, a free value tells
which; the groups after it are combined with the written value. -/
def State.scoutSet (s : State) (k : Nat) (one : Bool) (v : Nat) : State :=
  match (s.slot k).tails one with
  | [] => s.setFld (scoutReg k one) F.SCOUT0_MAX v
  | t :: ts =>
    let rest := (t :: ts).drop (s.draw.1.toNat % ((t :: ts).length + 1))
    (s.draw.2.setFld (scoutReg k one) F.SCOUT0_MAX (max v (rest.headD 0))).modSlot k (fun c => ({ c with
      tailBy := c.tailBy.map (fun (x : Nat × Bool × List Nat) =>
        if x.2.1 = one then (x.1, one, x.2.2.filter (fun m => decide (m ≤ rest.headD 0 ∧ !rest.isEmpty))) else x) } : Slot).setTails one rest)

/-- Writing 1 to sticky bits of NUM_STAT clears each with its source and position (02 R59). -/
def numStatClear (w v : Word) : Word :=
  let one := fun (w : Word) (stick src pos : Fld) =>
    if getF v stick = 1 then putF (putF (putF w stick 0) src 0) pos 0 else w
  one (one (one w F.NUM_STAT_NF F.NUM_STAT_NF_SRC F.NUM_STAT_NF_POS)
    F.NUM_STAT_WRAP F.NUM_STAT_WRAP_SRC F.NUM_STAT_WRAP_POS)
    F.NUM_STAT_RNG F.NUM_STAT_RNG_SRC F.NUM_STAT_RNG_POS

end Sys2Proof.Machine
end

