-- ==== Sys2Proof/Machine/Array.lean ====
section
/-!
DEFINITION. Machine/Array.lean: the outer-product array's commands MOPZ, MOP, ASW, DRN and ALAY (03 R67 to R95).
-/

namespace Sys2Proof.Machine

/-! ## Cells: 32 bits of accumulator and the wrap bit above them (03 R71, 02 R53) -/

/-- Add one step's value to a cell: modulo 2^32 with a sticky wrap bit; saturating in DN-16 mode (02 R53, R65). -/
def addCell (dn16 : Bool) (c : BitVec 33) (t : Int) : BitVec 33 :=
  let sum := sint 32 c.toNat + t
  let ovf := decide (sum < -2 ^ 31 ∨ 2 ^ 31 ≤ sum)
  let v : Int := if dn16 then max (-2 ^ 31) (min (2 ^ 31 - 1) sum) else sum
  BitVec.ofNat 33 (wrapInt 32 v + 2 ^ 32 * b01 (ovf || bit c.toNat 32))

/-- What an unwritten cell holds. -/
def zeroCell : Nat → BitVec 33 := fun _ => 0

/-- The accumulator set that is active, and the shadow. -/
def Slot.activeSet (c : Slot) : Sparse (BitVec 33) := if c.active then c.acc1 else c.acc0
def Slot.shadowSet (c : Slot) : Sparse (BitVec 33) := if c.active then c.acc0 else c.acc1
/-- Replace physical set ACC0 or ACC1 and its in-use flag (05 R122). -/
def Slot.setAcc (c : Slot) (one : Bool) (m : Sparse (BitVec 33)) (use : Bool) : Slot :=
  if one then { c with acc1 := m, acc1Use := use } else { c with acc0 := m, acc0Use := use }
/-- The in-use flag of a physical set. -/
def Slot.accUse (c : Slot) (one : Bool) : Bool := if one then c.acc1Use else c.acc0Use

/-- Set every cell of a region by a function of its region row, column and old value. -/
def mapRegion (r : Region) (m : Sparse (BitVec 33)) (f : Nat → Nat → BitVec 33 → BitVec 33) : Sparse (BitVec 33) :=
  r.cells.foldl (fun a p =>
    let key := cellKey (r.row + p.1) (r.col + p.2)
    sset zeroCell a key (f p.1 p.2 (sget zeroCell a key))) m

/-! ## MOPZ and MOP -/

/-- Checks of one operand that complete with SHAPE (03 R76, R80). -/
def MopOperand.badShape (o : MopOperand) (size : Nat) : Bool :=
  32 * o.seg + size > 128 || (!o.of && o.addr % 128 != 0) || (o.of && o.addr / 1024 != 0)
/-- Checks that complete with LINE. -/
def MopOperand.badLine (o : MopOperand) (n : Nat) : Bool :=
  (o.of && o.addr + o.lines n > 1024) || (o.txr && (!o.of || o.addr % 128 != 0))
/-- Checks that complete with PERM_FAULT. -/
def MopOperand.badPerm (o : MopOperand) (n : Nat) : Bool :=
  !o.of && (o.space != 0 || tsBeyond o.addr (128 * o.lines n))

/-- The first failing check of a MOP or MOPZ (03 R80). -/
def mopCheck (layout : Nat) (m : MopWord) : Option Nat :=
  let r := (regionOf layout m.region).getD ⟨0, 0, 0, 0⟩
  firstFail
    [ (decide (3 < m.type) || (m.a.txr && m.a.int4) || (m.b.txr && m.b.int4), 0x80),
      ((regionOf layout m.region).isNone, 0x84),
      (m.depth == 0 || decide (4096 < m.depth) || m.a.badShape r.h || m.b.badShape r.w, 0x82),
      (m.a.badLine m.depth || m.b.badLine m.depth, 0x83),
      (m.a.badPerm m.depth || m.b.badPerm m.depth, 0x04) ]

/-- The active set after a MOP (or MOPZ, which starts each cell of the region from zero) (03 R83). -/
def mopCells (dn16 : Bool) (k : Nat) (c : Slot) (m : MopWord) (r : Region) (zero : Bool) : Sparse (BitVec 33) :=
  mapRegion r c.activeSet (fun i j old =>
    (mopTerms k c m i j).foldl (addCell dn16) (if zero then 0 else old))

/-- What the feeders of `n` rows or columns from `first` on hold after a command: the bytes they drove in its last step (05 R121). -/
def latched (k : Nat) (c : Slot) (o : MopOperand) (depth first n : Nat) (m : Sparse Byte) : Sparse Byte :=
  (List.range n).foldl (fun m r => sset zeroByte m (first + r) (BitVec.ofNat 8 (o.lastByte k c depth r))) m

/-- MOP and MOPZ words accepted and not complete (03 R94). -/
def State.openMops (s : State) (k : Nat) : List MopWord :=
  ((s.queue k .xq).inflight.filter (fun e =>
    e.phase != .done && (opcode e.entry.word == 0x20 || opcode e.entry.word == 0x21))).map (fun e => decodeMop e.entry.word)

/-- The bytes that an operand needs of its side in a step, for a region of `size` rows or columns (03 R76, R77). -/
def MopOperand.need (o : MopOperand) (size : Nat) : Nat := if o.of && o.txr then 128 else size

/-- Do the feeders serve commands in flight all at once: at most 256 bytes a side, 128 of them of its Tile Store port (03 R77)? -/
def fitTogether (layout : Nat) (ms : List MopWord) : Bool :=
  let side := fun (f : MopWord → MopOperand) (g : Region → Nat) =>
    let need := fun (m : MopWord) => (f m).need (((regionOf layout m.region).map g).getD 128)
    decide ((ms.map need).foldl (· + ·) 0 ≤ 256) && decide (((ms.filter (fun m => !(f m).of)).map need).foldl (· + ·) 0 ≤ 128)
  side (fun m => m.a) (fun r => r.h) && side (fun m => m.b) (fun r => r.w)

/-- The most steps in which a MOP or MOPZ, or another beside it, gives way: where their needs do not fit together, one of them is served in
each (03 R78), so as many as they have steps; and where it reads the Tile Store, as its port's readers take turns (R79). DESIGN CHOICE
(log entry 51): at most 16 readers. -/
def MopWord.givesWay (layout : Nat) (m : MopWord) (others : List MopWord) : Nat :=
  (if fitTogether layout (m :: others) then 0 else ((m :: others).map (fun o => o.steps)).foldl (· + ·) 0) +
    (if m.a.of && m.b.of then 0 else 16 * m.steps)

/-- The steps of a MOP or MOPZ are counted (03 R95). A step in which several regions take an update counts once: of the steps of the
command a free value tells how many it shares with commands whose updates are made and that are not complete. So is the number of
steps in which one of them had to give way, within the bound of `givesWay`. -/
def State.countSteps (s : State) (k : Nat) (m : MopWord) : State :=
  let others := ((s.queue k .xq).inflight.filter (fun e => (match e.phase with | .working _ => true | _ => false) &&
    (opcode e.entry.word == 0x20 || opcode e.entry.word == 0x21))).map (fun e => decodeMop e.entry.word)
  let most := min m.steps ((others.map (fun o => o.steps)).foldl (· + ·) 0)
  let upd := fun (t : State) (n : Nat) => t.perfAdd (Reg.ARRAY_UPD k) n (Reg.ARRAY_STAT k) F.ARRAY_STAT_UPD_OVF F.ARRAY_STAT_OVF_AE
  let s := if most = 0 then upd s m.steps else upd s.draw.2 (m.steps - s.draw.1.toNat % (most + 1))
  let away := m.givesWay (s.slot k).layout others
  if away = 0 then s
  else s.draw.2.perfAdd (Reg.ARRAY_STALL k) (s.draw.1.toNat % (away + 1)) (Reg.ARRAY_STAT k) F.ARRAY_STAT_STL_OVF F.ARRAY_STAT_OVF_AE

/-- The effect of a MOP or MOPZ (03 R67 to R70, R83; 05 R120, R122). -/
def mopEffect (k : Nat) (zero : Bool) (w : Cmd) (s : State) : Except Nat (State × Nat) :=
  let c := s.slot k
  let m := decodeMop w
  match mopCheck c.layout m, regionOf c.layout m.region with
  | some st, _ => .error st
  | none, none => .error 0x84
  | none, some r =>
    let o := m.fetches.foldl opcLookup (c.opc, c.opcB, 0)
    let c' := { c.setAcc c.active (mopCells s.dn16 k c m r zero) true with
      opc := o.1
      opcB := o.2.1
      latchA := latched k c m.a m.depth r.row r.h c.latchA
      latchB := latched k c m.b m.depth r.col r.w c.latchB }
    let s := (s.setSlot k c').countSteps k m
    .ok (s.perfAdd (Reg.OPC_HIT k) o.2.2 (Reg.TILE_STAT k) F.TILE_STAT_OPC_OVF F.TILE_STAT_OPC_AE, 0)

/-! ## ASW and ALAY -/

/-- ASW exchanges the sets (03 R84). -/
def aswEffect (k : Nat) (_ : Cmd) (s : State) : Except Nat (State × Nat) :=
  .ok (s.modSlot k (fun c => { c with active := !c.active }), 0)

/-- The check of ALAY (03 R75, R80, R89). -/
def alayCheck (dn16 : Bool) (w : Cmd) : Option Nat :=
  if cf w 119 118 = 3 ∨ (cf w 119 118 = 2 ∧ dn16) then some 0x84 else none

/-- ALAY sets the layout (03 R74, R75, R89). -/
def alayEffect (k : Nat) (w : Cmd) (s : State) : Except Nat (State × Nat) :=
  match alayCheck s.dn16 w with
  | some st => .error st
  | none => .ok (s.modSlot k (fun c => { c with layout := cf w 119 118 }), 0)

/-! ## DRN -/

/-- The fields of a DRN word (03 R85). -/
structure DrnWord where
  mode : Nat
  all : Bool
  region : Nat
  fmt : Nat
  sr : Bool
  hold : Bool
  dstSpace : Nat
  dst : Nat
  stride : Nat
  prmSpace : Nat
  prm : Nat
  deriving DecidableEq, Repr

def decodeDrn (w : Cmd) : DrnWord :=
  ⟨cf w 119 118, cb w 117, cf w 116 113, cf w 112 110, cb w 109, cb w 108, cf w 107 106, cf w 105 74, cf w 73 58,
    cf w 57 56, cf w 55 24⟩

/-- Bytes of a region row (03 R85). -/
def drnRow (fmt w : Nat) : Nat :=
  match fmt with
  | 1 => w | 2 => w / 2 | 4 => 2 * w | 5 => 2 * w | _ => 4 * w

/-- Does the drain convert: DRAIN or KEEP, any format but RAW (03 R86)? -/
def DrnWord.converts (d : DrnWord) : Bool := d.mode < 2 && d.fmt != 6
/-- Does it read a parameter block (03 R87)? -/
def DrnWord.readsBlock (d : DrnWord) : Bool := d.converts && !d.hold

/-- The region of a DRN: the whole set where ALL is 1 (03 R85). -/
def drnRegion (layout : Nat) (d : DrnWord) : Option Region :=
  if d.all then some ⟨0, 0, 128, 128⟩ else regionOf layout d.region

/-- Bytes a DRN touches at DST: its rows, and the wrap bits of a RAW image (03 R88). -/
def drnSpan (d : DrnWord) (r : Region) : Nat :=
  if d.fmt = 6 then r.h * d.stride + 16 * r.h else (r.h - 1) * d.stride + drnRow d.fmt r.w

/-- The checks made at acceptance (03 R80, R85 to R87). -/
def drnCheck (layout : Nat) (d : DrnWord) : Option Nat :=
  let r := (drnRegion layout d).getD ⟨0, 0, 1, 0⟩
  let mem := d.mode != 3
  firstFail
    [ (mem && (d.fmt == 7 || (d.mode == 2 && d.fmt != 6)), 0x80),
      ((drnRegion layout d).isNone, 0x84),
      (mem && (d.dst % 16 != 0 || d.stride % 16 != 0 || decide (d.stride < drnRow d.fmt r.w)), 0x82),
      (d.readsBlock && d.prm % 32 != 0, 0x82),
      (mem && (d.dstSpace != 0 || tsBeyond d.dst (drnSpan d r)), 0x04),
      (d.readsBlock && (d.prmSpace != 0 || tsBeyond d.prm 32), 0x04) ]

def blkCtl (b : List Byte) : Nat := blk b 16 1
def blkSpc (b : List Byte) : Nat := blk b 17 1

/-- One scale of a block: enabled, granularity, address and space (03 R87). -/
structure ScaleRef where
  en : Bool
  gran : Nat
  addr : Nat
  space : Nat
  deriving DecidableEq, Repr

def blkDr (b : List Byte) : ScaleRef := ⟨bit (blkCtl b) 0, bits (blkCtl b) 1 2, blk b 0 4, bits (blkSpc b) 0 2⟩
def blkDc (b : List Byte) : ScaleRef := ⟨bit (blkCtl b) 3, bits (blkCtl b) 4 2, blk b 4 4, bits (blkSpc b) 2 2⟩
def blkSumEn (b : List Byte) : Bool := bit (blkCtl b) 6
def blkSum (b : List Byte) : Nat := blk b 12 4
def blkQ (b : List Byte) : Nat := blk b 8 4

/-- Bytes of a scale vector (02 R42). -/
def ScaleRef.size (r : ScaleRef) : Nat := if r.gran = 0 then 4 else 512
def ScaleRef.badGran (r : ScaleRef) : Bool := r.en && decide (1 < r.gran)
def ScaleRef.badShape (r : ScaleRef) : Bool := r.en && r.addr % (if r.gran = 0 then 4 else 128) != 0
def ScaleRef.badPerm (r : ScaleRef) : Bool := r.en && (r.space != 0 || tsBeyond r.addr r.size)

/-- The checks made when the block is read; of held parameters only the summary's address is used (03 R87). -/
def blkCheck (fresh : Bool) (b : List Byte) : Option Nat :=
  firstFail
    [ (fresh && ((blkDr b).badGran || (blkDc b).badGran), 0x81),
      ((fresh && ((blkDr b).badShape || (blkDc b).badShape)) || (blkSumEn b && blkSum b % 16 != 0), 0x82),
      ((fresh && ((blkDr b).badPerm || (blkDc b).badPerm)) ||
        (blkSumEn b && (bits (blkSpc b) 4 2 != 0 || tsBeyond (blkSum b) 16)), 0x04) ]

/-- The scale values an enabled scale reads: one for TILE, 128 for LANE; none where disabled (03 R87, 02 R42). -/
def State.scaleVals (s : State) (k : Nat) (r : ScaleRef) : List Nat :=
  if !r.en then []
  else if r.gran = 0 then [s.tsLE k r.addr 4]
  else (List.range 128).map (fun i => s.tsLE k (r.addr + 4 * i) 4)

/-- The parameters a drain uses: the block it reads, with its scale values, or the held ones (03 R87). -/
def State.drnParams (s : State) (k : Nat) (d : DrnWord) : Held :=
  if d.readsBlock then
    let b := s.tsRead k d.prm 32
    ⟨b, s.scaleVals k (blkDr b), s.scaleVals k (blkDc b)⟩
  else (s.slot k).held

/-- The scale of a lane: 1.0 where disabled (03 R87). -/
def laneScale (dn16 : Bool) (vs : List Nat) (i : Nat) : Val :=
  match vs with
  | [] => valOfInt 1
  | [v] => decodeSrc dn16 fp32 v
  | vs => decodeSrc dn16 fp32 (vs.getD i 0)

/-- The bits of an element of a DRN format. -/
def drnBits : Nat → Nat
  | 1 => 8 | 2 => 4 | 4 => 16 | 5 => 16 | _ => 32

/-- Convert one cell (02 R48 to R52, R61, R65). -/
def drnConv (dn16 : Bool) (fmt : Nat) (h : Held) (i j : Nat) (c : BitVec 33) : Conv :=
  let acc := sint 32 c.toNat
  let sc := [laneScale dn16 h.dr i, laneScale dn16 h.dc j]
  let r := scaleInt acc sc
  let v := scaleInt acc (sc ++ [decodeSrc dn16 fp32 (blkQ h.block)])
  match fmt with
  | 0 => convInt .rne (-2 ^ 31) (2 ^ 31 - 1) 32 r r
  | 1 => convInt .rne (int8Lo dn16) 127 8 r v
  | 2 => convInt .rne (int4Lo dn16) 7 4 r v
  | 3 => convFloat dn16 .rne fp32 r
  | 4 => convFloat dn16 .rne bf16 r
  | _ => convFloat dn16 .rne fp16 r

/-- A region's converted elements in row-major order, with what the command has seen. -/
def drnAll (dn16 : Bool) (fmt : Nat) (h : Held) (r : Region) (m : Sparse (BitVec 33)) : List Nat × Seen :=
  let st := r.cells.foldl (fun (st : List Nat × Seen) p =>
    let c := sget zeroCell m (cellKey (r.row + p.1) (r.col + p.2))
    let pos := 256 * (r.row + p.1) + (r.col + p.2)
    let v := drnConv dn16 fmt h p.1 p.2 c
    (v.code :: st.1, (st.2.conv pos v).wrapped pos (bit c.toNat 32))) ([], Seen.none)
  (st.1.reverse, st.2)

/-- Write the first `n` rows of a region's elements (03 R88). -/
def State.drnRows (s : State) (k : Nat) (d : DrnWord) (r : Region) (es : List Nat) (n : Nat) : State :=
  (List.range n).foldl (fun t i =>
    t.tsWrite k (d.dst + i * d.stride) (packElems (drnBits d.fmt) ((es.drop (i * r.w)).take r.w))) s

/-- The unconverted cells of a region, and its rows of wrap bits (03 R88). -/
def rawCells (r : Region) (m : Sparse (BitVec 33)) : List Nat :=
  r.cells.map (fun p => (sget zeroCell m (cellKey (r.row + p.1) (r.col + p.2))).toNat % 2 ^ 32)
def rawWraps (r : Region) (m : Sparse (BitVec 33)) (i : Nat) : List Byte :=
  let bs := packMask ((List.range r.w).map (fun j => bit (sget zeroCell m (cellKey (r.row + i) (r.col + j))).toNat 32))
  bs ++ List.replicate (16 - bs.length) 0

/-- Write a RAW image of a set at `dst` (03 R88). -/
def State.writeRaw (s : State) (k dst stride : Nat) (r : Region) (m : Sparse (BitVec 33)) : State :=
  let es := rawCells r m
  let s := (List.range r.h).foldl (fun t i =>
    t.tsWrite k (dst + i * stride) (packElems 32 ((es.drop (i * r.w)).take r.w))) s
  (List.range r.h).foldl (fun t i => t.tsWrite k (dst + r.h * stride + 16 * i) (rawWraps r m i)) s

/-- The cell a RAW image at `dst` holds for region row `i` and column `j` (03 R88). -/
def State.rawCell (s : State) (k dst stride : Nat) (r : Region) (i j : Nat) : BitVec 33 :=
  let v := s.tsLE k (dst + i * stride + 4 * j) 4
  let w := (s.tsLE k (dst + r.h * stride + 16 * i + j / 8) 1)
  BitVec.ofNat 33 (v + 2 ^ 32 * b01 (bit w (j % 8)))

/-- Clear a region's cells with their wrap bits. -/
def clearRegion (r : Region) (m : Sparse (BitVec 33)) : Sparse (BitVec 33) := mapRegion r m (fun _ _ _ => 0)

/-- The held parameters with SUM_ADDR advanced by 16 (03 R87). -/
def Held.advance (h : Held) : Held :=
  { h with block := h.block.take 12 ++ natLE 4 (blkSum h.block + 16) ++ h.block.drop 16 }

/-- The slot after DRAIN or CLEAR zeroes the region of the shadow set; with ALL the in-use flag clears (05 R122). -/
def Slot.drained (c : Slot) (d : DrnWord) (r : Region) : Slot :=
  c.setAcc (!c.active) (clearRegion r c.shadowSet) (!d.all && c.accUse (!c.active))

/-- The converting drain, once its checks have passed (03 R86 to R88; 02 R54 to R63). -/
def State.drnConvert (s : State) (k : Nat) (d : DrnWord) (r : Region) (h : Held) : State :=
  let out := drnAll s.dn16 d.fmt h r (s.slot k).shadowSet
  let s := s.drnRows k d r out.1 r.h
  let s := (s.scouted k false d.sr out.2).numStat k 1 out.2
  let s := if blkSumEn h.block then s.tsWrite k (blkSum h.block) out.2.summary else s
  s.modSlot k (fun c =>
    let c := { c with held := if blkSumEn h.block then h.advance else h }
    if d.mode = 0 then c.drained d r else c)

/-- The effect of a DRN (03 R85 to R88). -/
def drnEffect (k : Nat) (w : Cmd) (s : State) : Except Nat (State × Nat) :=
  let d := decodeDrn w
  let c := s.slot k
  match drnCheck c.layout d, drnRegion c.layout d with
  | some st, _ => .error st
  | none, none => .error 0x84
  | none, some r =>
    if d.mode = 3 then .ok (s.modSlot k (fun c => c.drained d r), 0)
    else if d.mode = 2 then
      .ok (s.modSlot k (fun c => c.setAcc (!c.active)
        (mapRegion r c.shadowSet (fun i j _ => s.rawCell k d.dst d.stride r i j)) true), 0)
    else if d.fmt = 6 then
      let s := s.writeRaw k d.dst d.stride r c.shadowSet
      .ok (if d.mode = 0 then s.modSlot k (fun c => c.drained d r) else s, 0)
    else
      let h := s.drnParams k d
      match blkCheck d.readsBlock h.block with
      | some st => .error st
      | none => .ok (s.drnConvert k d r h, 0)

end Sys2Proof.Machine
end

