-- ==== Sys2Proof/Machine/OperandFile.lean ====
section
/-!
DEFINITION. Machine/OperandFile.lean: LDL and LFREE, save and restore of tile state (05 R111 to R135).
-/

namespace Sys2Proof.Machine

/-! ## LDL (05 R113 to R118) -/

/-- The fields of an LDL word (05 R113). -/
structure LdlWord where
  space : Nat
  src : Nat
  dst : Nat
  count : Nat
  txr : Bool
  port : Nat
  stride : Nat
  deriving DecidableEq, Repr

def decodeLdl (w : Cmd) : LdlWord :=
  ⟨cf w 119 118, cf w 117 86, cf w 85 76, cf w 75 65, cb w 64, cf w 63 62, cf w 61 46⟩

/-- The checks of R115, in order. -/
def ldlCheck (l : LdlWord) : Option Nat :=
  firstFail
    [ (l.port == 3, 0x80),
      (l.count == 0 || decide (1024 < l.count) || l.stride == 0 || l.src % 128 != 0 || (l.txr && l.count % 128 != 0), 0x82),
      (decide (1024 < l.dst + l.count) || (l.txr && l.dst % 128 != 0), 0x83),
      (l.space != 0 || tsBeyond (l.src + (l.count - 1) * l.stride * 128) 128, 0x04) ]

/-- The 128 bytes destination line `DST + i` receives (05 R114). -/
def State.ldlLine (s : State) (k : Nat) (l : LdlWord) (i : Nat) : List Byte :=
  if l.txr then
    (List.range 128).map (fun c =>
      sget ((s.slot k).tsDefault k) (s.slot k).ts (l.src + (128 * (i / 128) + c) * l.stride * 128 + i % 128))
  else s.tsRead k (l.src + i * l.stride * 128) 128

/-- Set the bits of the groups of lines `lo` to `hi`. -/
def groupBits (lo hi : Nat) : BitVec 64 :=
  (List.range 64).foldl (fun a g => if lo / 16 ≤ g ∧ g ≤ hi / 16 then a ||| BitVec.ofNat 64 (2 ^ g) else a) 0

/-- Write the first `n` lines of an LDL, and drop their operand-cache entries (05 R120). -/
def State.ldlWrite (s : State) (k : Nat) (l : LdlWord) (n : Nat) : Slot :=
  let c := s.slot k
  { c with
    ofBytes := (List.range n).foldl (fun m i => writeBytes zeroByte m (128 * (l.dst + i)) (s.ldlLine k l i)) c.ofBytes
    ofUse := c.ofUse ||| groupBits l.dst (l.dst + l.count - 1)
    opc := c.opc.filter (fun t => match t with | .of x => x < l.dst || l.dst + l.count ≤ x | .ts _ => true)
    opcB := c.opcB.filter (fun t => match t with | .of x => x < l.dst || l.dst + l.count ≤ x | .ts _ => true) }

/-- The effect of an LDL (05 R114, R122). -/
def ldlEffect (k : Nat) (w : Cmd) (s : State) : Except Nat (State × Nat) :=
  let l := decodeLdl w
  match ldlCheck l with
  | some st => .error st
  | none =>
    let c := s.ldlWrite k l l.count
    .ok (s.setSlot k { c with ofBad := c.ofBad.filter (fun x => x < l.dst || l.dst + l.count ≤ x) }, 0)

/-- What an LDL abandoned after `n` lines leaves: every destination line not valid (05 R127). Its last line is its point of no return
(R126); one that has written no line has marked none. -/
def State.ldlPartial (s : State) (k : Nat) (w : Cmd) (n : Nat) : State :=
  let l := decodeLdl w
  match ldlCheck l with
  | some _ => s
  | none =>
    let c := s.ldlWrite k l (min n (l.count - 1))
    if min n (l.count - 1) = 0 then s else s.setSlot k { c with ofBad :=
      (c.ofBad.filter (fun x => x < l.dst || l.dst + l.count ≤ x)) ++ (List.range l.count).map (l.dst + ·) }

/-! ## LFREE (05 R123) -/

/-- Zero the lines of the groups a 64-bit mask names. -/
def zeroGroups (m : Sparse Byte) (mask : BitVec 64) : Sparse Byte := m.filter (fun p => !bit mask.toNat (p.1 / 2048))

/-- The effect of LFREE (05 R123). -/
def lfreeEffect (k : Nat) (w : Cmd) (s : State) : Except Nat (State × Nat) :=
  let g := BitVec.ofNat 64 (cf w 117 54)
  .ok (s.modSlot k (fun c => { c with
    ofBytes := zeroGroups c.ofBytes g
    ofBad := c.ofBad.filter (fun x => !bit g.toNat (x / 16))
    ofUse := c.ofUse &&& ~~~g
    opc := c.opc.filter (fun t => match t with | .of x => !bit g.toNat (x / 16) | .ts _ => true)
    opcB := c.opcB.filter (fun t => match t with | .of x => !bit g.toNat (x / 16) | .ts _ => true)
    acc0 := if cb w 118 then [] else c.acc0
    acc0Use := if cb w 118 then false else c.acc0Use
    acc1 := if cb w 119 then [] else c.acc1
    acc1Use := if cb w 119 then false else c.acc1Use }), 0)

/-- The array, the operand file and their held state at a kernel start (03 R72, 05 R111, R120). -/
def Slot.clearTile (c : Slot) : Slot :=
  { c with acc0 := [], acc1 := [], active := false, layout := 0, held := Held.default, ofBytes := [], ofBad := [],
           ofUse := 0, acc0Use := false, acc1Use := false, opc := [], opcB := [] }

/-! ## Save and restore (05 R130 to R135) -/

/-- The whole array as one region. -/
def fullRegion : Region := ⟨0, 0, 128, 128⟩
/-- Bytes of a save area (05 R130). -/
def saveSize : Nat := 0x41100

/-- Set SR_STATUS. -/
def State.srStatus (s : State) (k st : Nat) : State := s.setFld (Reg.TILE_STAT k) F.TILE_STAT_SR_STATUS st

/-- The checks of a save or restore request (05 R135). DESIGN CHOICE (log entry 39): where several fail the order is SR_BUSY, SHAPE,
PERM_FAULT, NOT_HALTED. -/
def State.srCheck (s : State) (k : Nat) (both : Bool) : Option Nat :=
  let a := s.fld (Reg.TILE_SAVE k) F.TILE_SAVE_ADDR
  firstFail
    [ (s.fld (Reg.TILE_STAT k) F.TILE_STAT_SR_STATE != 0, 0x87),
      (both || a % 128 != 0, 0x82),
      (tsBeyond a saveSize, 0x04),
      ((s.slot k).halt != .halted, 0x85) ]

/-- Is a group saved: always on the fall-back, else if in use with a valid line (05 R132)? -/
def Slot.savesGroup (c : Slot) (full : Bool) (g : Nat) : Bool :=
  full || (bit c.ofUse.toNat g && (List.range 16).any (fun i => !c.ofBad.contains (16 * g + i)))

/-- The groups a save writes, as a mask. -/
def Slot.savedMask (c : Slot) (full : Bool) : Nat :=
  (List.range 64).foldl (fun a g => if c.savesGroup full g then a + 2 ^ g else a) 0

/-- The header of a save (05 R131). -/
def State.saveHeader (s : State) (k : Nat) (full : Bool) : List Byte :=
  let c := s.slot k
  let st := b01 c.active + 2 * b01 full + 4 * b01 c.acc0Use + 8 * b01 c.acc1Use +
    16 * b01 (full || c.acc0Use) + 32 * b01 (full || c.acc1Use)
  natLE 2 2 ++ natLE 1 c.layout ++ natLE 1 st ++ natLE 4 0 ++ natLE 8 c.ofUse.toNat ++ natLE 8 (c.savedMask full) ++
  natLE 8 (s.rd (Reg.NUM_STAT k)).toNat ++ natLE 4 (s.fld (Reg.SCOUT0 k) F.SCOUT0_MAX) ++
  natLE 4 (s.fld (Reg.SCOUT1 k) F.SCOUT1_MAX) ++ (c.held.block ++ List.replicate 32 0).take 32 ++ List.replicate 184 0

/-- Write the save area at `a` (05 R130, R132). -/
def State.saveTile (s : State) (k a : Nat) : State :=
  let c := s.slot k
  let full := s.flag (Reg.TILE_CTL k) F.TILE_CTL_FULL_SAVE || c.firstFull
  let hdr := s.saveHeader k full
  let s := (List.range 64).foldl (fun t g =>
    if c.savesGroup full g then t.tsWrite k (a + 0x100 + 0x800 * g) (readBytes zeroByte c.ofBytes (2048 * g) 2048) else t) s
  let s := if full || c.acc0Use then s.writeRaw k (a + 0x20100) 512 fullRegion c.acc0 else s
  let s := if full || c.acc1Use then s.writeRaw k (a + 0x30900) 512 fullRegion c.acc1 else s
  let s := s.tsWrite k a hdr
  s.modSlot k (fun c => { c with firstFull := false })

/-- A write of TILE_CTL.SAVE (05 R135). -/
def State.startSave (s : State) (k : Nat) (both : Bool) : State :=
  match s.srCheck k both with
  | some st => s.srStatus k st
  | none =>
    (s.saveTile k (s.fld (Reg.TILE_SAVE k) F.TILE_SAVE_ADDR)).setFld (Reg.TILE_STAT k) F.TILE_STAT_SR_STATE 1

/-- Does a save-area header pass the checks of R133? -/
def headerOk (dn16 : Bool) (h : List Byte) : Bool :=
  let lay := blk h 2 1
  let st := blk h 3 1
  blk h 0 2 == 2 && decide (lay < (if dn16 then 2 else 3)) && decide (st < 64) &&
  (bits st 4 2 &&& bits st 2 2) == bits st 4 2 && (blk h 16 8 &&& blk h 8 8) == blk h 16 8

/-- Load the accumulator image at `a` (05 R133). -/
def State.loadRaw (s : State) (k a : Nat) : Sparse (BitVec 33) :=
  mapRegion fullRegion [] (fun i j _ => s.rawCell k a 512 fullRegion i j)

/-- Reload tile state from the save area at `a` (05 R133). -/
def State.restoreTile (s : State) (k a : Nat) (h : List Byte) : State :=
  let st := blk h 3 1
  let saved := blk h 16 8
  let b := (h.drop 40).take 32
  let c := s.slot k
  let c' := { c with
    ofBytes := (List.range 64).foldl (fun m g =>
      if bit saved g then writeBytes zeroByte m (2048 * g) (s.tsRead k (a + 0x100 + 0x800 * g) 2048) else m) []
    ofBad := []
    ofUse := BitVec.ofNat 64 (blk h 8 8)
    acc0 := if bit st 4 then s.loadRaw k (a + 0x20100) else []
    acc1 := if bit st 5 then s.loadRaw k (a + 0x30900) else []
    acc0Use := bit st 2
    acc1Use := bit st 3
    layout := blk h 2 1
    active := bit st 0
    held := ⟨b, s.scaleVals k (blkDr b), s.scaleVals k (blkDc b)⟩
    opc := []
    opcB := [] }
  let s := s.setSlot k c'
  let s := s.wr (Reg.NUM_STAT k) (BitVec.ofNat 64 (blk h 24 8) &&& 0xEFF8FFFFFFFFFFFF)
  let s := s.setFld (Reg.SCOUT0 k) F.SCOUT0_MAX (blk h 32 4)
  s.setFld (Reg.SCOUT1 k) F.SCOUT1_MAX (blk h 36 4)

/-- A write of TILE_CTL.RESTORE (05 R133, R135). -/
def State.startRestore (s : State) (k : Nat) (both : Bool) : State :=
  match s.srCheck k both with
  | some st => s.srStatus k st
  | none =>
    let a := s.fld (Reg.TILE_SAVE k) F.TILE_SAVE_ADDR
    let h := s.tsRead k a 256
    if headerOk s.dn16 h then (s.restoreTile k a h).setFld (Reg.TILE_STAT k) F.TILE_STAT_SR_STATE 2
    else s.srStatus k 0x86

/-- A save or restore completes (05 R134, R135); a resume written meanwhile takes effect (R129). -/
def State.srDone (s : State) (k : Nat) : State :=
  if s.fld (Reg.TILE_STAT k) F.TILE_STAT_SR_STATE = 0 then s
  else
    let s := (s.srStatus k 0).setFld (Reg.TILE_STAT k) F.TILE_STAT_SR_STATE 0
    if s.flag (Reg.TILE_CTL k) F.TILE_CTL_HALT || (s.slot k).haltByKernel then s
    else s.modSlot k (fun c => { c with halt := .running })

end Sys2Proof.Machine
end

