-- ==== Sys2Proof/Machine/Streams.lean ====
section
/-!
DEFINITION. Machine/Streams.lean: charts, stream commands, the fetch engine, transfers and their landing, convoys
(08 R196 to R232).
-/

namespace Sys2Proof.Machine

/-! ## Streams and their headers (08 R200) -/

def State.strm (s : State) (k i : Nat) : Stream := tget Stream.idle (s.slot k).streams i
def State.setStrm (s : State) (k i : Nat) (v : Stream) : State :=
  s.modSlot k (fun c => { c with streams := tput c.streams i v })
def State.modStrm (s : State) (k i : Nat) (f : Stream → Stream) : State := s.setStrm k i (f (s.strm k i))

/-- A field of a chart header. -/
def hf (h : List Byte) (byte lo len : Nat) : Nat := bits (blk h byte 1) lo len
def hb (h : List Byte) (byte i : Nat) : Bool := bit (blk h byte 1) i

def hSrc (h : List Byte) : Nat := hf h 32 0 2
def hDst (h : List Byte) : Nat := hf h 32 2 2
def hConvoy (h : List Byte) : Bool := hb h 33 2
def hBounded (h : List Byte) : Bool := hb h 33 3
def hPersist (h : List Byte) : Bool := hb h 33 4
def hPrio (h : List Byte) : Nat := hf h 34 0 2
def hTally (h : List Byte) : Option Nat := if hb h 35 4 then some (hf h 35 0 4) else none
def hRemote (h : List Byte) : Bool := hb h 36 6
def hDcore (h : List Byte) : Nat := hf h 36 0 6
def hNinst (h : List Byte) : Nat := blk h 37 1
def hOtMax (h : List Byte) : Nat := blk h 38 2
def hOtRsv (h : List Byte) : Nat := blk h 40 2
def hTileBytes (h : List Byte) : Nat := blk h 42 2 * 256
def hRate (h : List Byte) : Nat := blk h 46 1
def hDeadline (h : List Byte) : Nat := blk h 48 4

/-- The kind of a stream by its spaces (08 R197). DESIGN CHOICE (log entry 58): REMOTE with a destination that is no Tile Store, or on a
fetch, makes no kind. -/
def hKind (h : List Byte) : Option XferKind :=
  match hSrc h, hDst h with
  | 0, 0 => some (if hRemote h then .put else .copy)
  | 0, _ => if hRemote h then none else some .writeOut
  | _, 0 => if hRemote h then none else some .fetch
  | _, _ => none

/-! ## Charts (08 R201 to R203) -/

def iOp (w : Word) : Nat := bits w.toNat 60 4
def iLen (w : Word) : Nat := bits w.toNat 51 9

/-- Is an instruction well formed on its own? -/
def instOk (w : Word) : Bool :=
  let n := w.toNat
  match iOp w with
  | 0 => 1 ≤ iLen w && iLen w ≤ 256 && bits n 48 3 == 0
  | 1 => bits n 32 28 == 0 && bits n 0 32 != 0
  | 2 => true
  | 3 => bits n 48 10 == 0
  | 4 => bits n 48 10 == 0
  | 15 => bits n 0 60 == 0
  | _ => false

/-- Do the loops nest, with at most 6 levels open? -/
def nestOk : List Word → Nat → Bool
  | [], d => d == 0
  | w :: ws, d =>
    match iOp w with
    | 1 => d < 6 && nestOk ws (d + 1)
    | 2 => 0 < d && nestOk ws (d - 1)
    | _ => nestOk ws d

/-- Is a chart of `n` instructions well formed (08 R203)? -/
def chartOk (n : Nat) (ws : List Word) : Bool :=
  1 ≤ n && n ≤ 16 && ws.all instOk && nestOk ws 0 &&
  (ws.getLast?.any (fun w => iOp w == 15)) && ws.dropLast.all (fun w => iOp w != 15)

/-- The index of the LOOP that the ENDL at `pc` closes; `d` is the depth seen so far, going back. -/
def loopOf (ws : List Word) : Nat → Nat → Nat
  | 0, _ => 0
  | pc + 1, d =>
    match iOp (ws.getD pc 0) with
    | 2 => loopOf ws pc (d + 1)
    | 1 => if d = 0 then pc else loopOf ws pc (d - 1)
    | _ => loopOf ws pc d

def sx64 (n v : Nat) : Word := BitVec.ofNat 64 (wrapInt 64 (sint n v))

/-- The far-end address of a transfer (08 R197). -/
def farOf (h : List Byte) (src dst : Word) : Word := match hKind h with | some .fetch => src | _ => dst

/-- A loop count less one. DEDUCED (log entry 59): a count of 0, which firmware can write to STRM_LC, is 2^32 in its field of 32 bits. -/
def decCount (c : Nat) : Nat := if c = 0 then 0xFFFFFFFF else c - 1

/-- Run one chart instruction, or one piece of a split transfer (08 R198, R202). -/
def Stream.tick (st : Stream) : Stream :=
  let p := st.pos
  let w := st.insts.getD p.pc 0
  let n := w.toNat
  match iOp w with
  | 0 =>
    let far := (farOf st.header p.src p.dst).toNat + p.skip
    let len := min (iLen w - p.skip) (256 - far % 256)
    let e : Emit := ⟨p, p.src + BitVec.ofNat 64 p.skip, p.dst + BitVec.ofNat 64 p.skip, len, st.emittedBytes⟩
    let p' : Pos := if p.skip + len < iLen w then { p with skip := p.skip + len }
      else { p with pc := p.pc + 1, src := p.src + sx64 24 (bits n 24 24), dst := p.dst + sx64 24 (bits n 0 24), skip := 0 }
    { st with pos := p', emitted := st.emitted ++ [e], emittedBytes := st.emittedBytes + len }
  | 1 => { st with pos := { p with pc := p.pc + 1, cnt := p.cnt ++ [bits n 0 32] }, shut := st.shut.set p.cnt.length 0 }
  | 2 =>
    let p := { p with src := p.src + sx64 30 (bits n 30 30), dst := p.dst + sx64 30 (bits n 0 30) }
    match decCount (p.cnt.getLastD 1) with
    | 0 => { st with pos := { p with cnt := p.cnt.dropLast, pc := p.pc + 1 } }
    | c => { st with pos := { p with cnt := p.cnt.dropLast ++ [c], pc := 1 + loopOf st.insts p.pc 0 } }
  | 3 => { st with pos := { p with src := st.bases.getD (bits n 58 2) 0 + sx64 48 (bits n 0 48), pc := p.pc + 1 } }
  | 4 => { st with pos := { p with dst := st.bases.getD (bits n 58 2) 0 + sx64 48 (bits n 0 48), pc := p.pc + 1 } }
  | _ => { st with stop := true }

/-- An iteration count, 0 standing for 2^32. -/
def loopCount (c : Nat) : Nat := if c = 0 then 2 ^ 32 else c

/-- Bytes that a chart has yet to generate from a position on: the instructions from number `i` on are read with the open loops of
the reading in `fr`, innermost first, each with its count, whether its LOOP stands before the position, the bytes of a whole pass
and those that this pass still gives. -/
def bytesLeft (p : Pos) : List Word → Nat → List (Nat × Bool × Nat × Nat) → Nat
  | [], _, fr => (fr.getLastD (0, false, 0, 0)).2.2.2 - p.skip
  | w :: ws, i, fr =>
    match iOp w, fr with
    | 0, (c, o, t, r) :: fs => bytesLeft p ws (i + 1) ((c, o, t + iLen w, if p.pc ≤ i then r + iLen w else r) :: fs)
    | 1, _ => bytesLeft p ws (i + 1) ((loopCount (bits w.toNat 0 32), decide (i < p.pc), 0, 0) :: fr)
    | 2, (c, o, t, r) :: (c', o', t', r') :: fs =>
      let more := if i < p.pc then 0
        else if o then r + (loopCount (p.cnt.getD fs.length 1) - 1) * t
        else c * t
      bytesLeft p ws (i + 1) ((c', o', t' + c * t, r' + more) :: fs)
    | _, _ => bytesLeft p ws (i + 1) fr

/-- Bytes that a stream has yet to generate. -/
def Stream.left (st : Stream) : Nat := if st.stop then 0 else bytesLeft st.pos st.insts 0 [(1, true, 0, 0)]

/-- Run a chart until it has emitted a transfer or stops; the fuel is the number of steps at most. -/
def Stream.seek : Nat → Stream → Stream
  | 0, st => st
  | n + 1, st => if st.emitted.isEmpty ∧ !st.stop then seek n st.tick else st

/-- The transfer issued next: the first emitted one, or the first that the chart will emit. No chart of 16 instructions with 6 levels of
2^32 iterations takes 2^200 steps. -/
def Stream.upcoming (st : Stream) : Option Emit := (st.seek (2 ^ 200)).emitted.head?

/-- Up to `n` chart steps, with at most 8 emitted transfers waiting (08 R202). -/
def Stream.advance : Nat → Stream → Stream
  | 0, st => st
  | n + 1, st => if st.state = .running ∧ !st.stop ∧ st.emitted.length < 8 then advance n st.tick else st

/-! ## Counts and limits (08 R205, R213) -/

/-- Transfers outstanding for the present run of a slot's stream. -/
def State.outsOf (s : State) (k i : Nat) : List Out :=
  (s.slot k).outs.filter (fun o => o.stream == i && o.ser == (s.strm k i).ser)

/-- Slots that are not IDLE. -/
def State.busySlots (s : State) (k : Nat) : List Nat := (List.range 32).filter (fun i => (s.strm k i).state != .idle)
def State.rsvSum (s : State) (k : Nat) : Nat := ((s.busySlots k).map (fun i => hOtRsv (s.strm k i).header)).foldl (· + ·) 0
def State.rateSum (s : State) (k : Nat) : Nat :=
  ((s.busySlots k).map (fun i => if hBounded (s.strm k i).header then hRate (s.strm k i).header else 0)).foldl (· + ·) 0

/-- Bulk packets not acknowledged, each one of the core's 512 outstanding transfers. -/
def Slot.bulkOut (c : Slot) : Nat := (c.bulks.map (fun b => b.out.length)).foldl (· + ·) 0

/-- Outstanding transfers of the core, of 512 (08 R213). -/
def State.otUsed (s : State) (k : Nat) : Nat :=
  ((s.slot k).outs.filter (fun o => decide (o.stream < 32))).length + (s.slot k).bulkOut

/-- Outstanding transfers that use the shared part. -/
def State.sharedUsed (s : State) (k : Nat) : Nat :=
  let reserved := ((s.busySlots k).map (fun i => min (s.outsOf k i).length (hOtRsv (s.strm k i).header))).foldl (· + ·) 0
  s.otUsed k - reserved

/-- May a stream have one more transfer outstanding (08 R213)? -/
def State.otAllows (s : State) (k i : Nat) : Bool :=
  let h := (s.strm k i).header
  let o := (s.outsOf k i).length
  decide (o < hOtMax h) && decide (s.otUsed k < 512) && (decide (o < hOtRsv h) || decide (s.sharedUsed k + s.rsvSum k < 512))

/-! ## Registers of a stream, as read (08 R232) -/

def StreamState.code : StreamState → Nat
  | .idle => 0 | .running => 1 | .halting => 2 | .halted => 3 | .faulted => 4 | .done => 5

/-- STRM_STAT as it reads. -/
def State.strmStat (s : State) (k i : Nat) : Word :=
  let st := s.strm k i
  let w := s.rd (Reg.STRM_STAT k i)
  let w := putF w F.STRM_STAT_STATE st.state.code
  let on := st.state != .idle
  let w := putF w F.STRM_STAT_PERSIST (b01 (on && hPersist st.header))
  let w := putF w F.STRM_STAT_BOUNDED (b01 (on && hBounded st.header))
  let w := putF w F.STRM_STAT_CONVOY (b01 (on && hConvoy st.header))
  let w := putF w F.STRM_STAT_PC st.pos.pc
  let w := putF w F.STRM_STAT_DEPTH st.pos.cnt.length
  putF w F.STRM_STAT_OT (s.outsOf k i).length

def State.strmStatus (s : State) (k i st : Nat) : State := s.setFld (Reg.STRM_STAT k i) F.STRM_STAT_STATUS st

/-! ## State changes (08 R209 to R212) -/

/-- A stream at its STOP with every transfer landed ends; a HALTING stream with nothing outstanding is HALTED (08 R209). -/
def State.settleStrm (s : State) (k i : Nat) : State :=
  let st := s.strm k i
  if (s.outsOf k i).isEmpty then
    if st.state = .running ∧ st.stop ∧ st.emitted = [] then
      (s.setStrm k i { st with state := if hPersist st.header then .done else .idle }).strmStatus k i (if st.late then 0x05 else 0)
    else if st.state = .halting then s.setStrm k i { st with state := .halted }
    else s
  else s

/-- Give back emitted transfers that were not issued: the position goes back to the first of them (08 R210, R223). -/
def Stream.rewind (st : Stream) : Stream :=
  match st.emitted with
  | [] => st
  | e :: _ => { st with pos := e.pos, emitted := [], emittedBytes := e.off, stop := false }

/-- CH.HALT on one slot (08 R210). -/
def State.haltStrm (s : State) (k i : Nat) : State :=
  let st := s.strm k i
  if st.state = .running then
    (s.setStrm k i { st.rewind with state := .halting, stop := false, walking := false }).settleStrm k i
  else s

/-- Resume a slot whose state is one of those given (08 R209). -/
def State.resumeStrm (s : State) (k i : Nat) (faulted : Bool) : State :=
  let st := s.strm k i
  if st.state = .halting ∨ st.state = .halted ∨ (faulted ∧ st.state = .faulted) then
    s.setStrm k i { st with state := .running }
  else s

/-- STRM_CTL.CANCEL (08 R209). A FAULTED stream ends with the fault's status. -/
def State.cancelStrm (s : State) (k i : Nat) : State :=
  let st := s.strm k i
  if st.state = .halted then (s.setStrm k i { st with state := .idle }).strmStatus k i 0x02
  else if st.state = .faulted then (s.setStrm k i { st with state := .idle }).strmStatus k i st.fault
  else s

/-- A translation fault (08 R223). -/
def State.faultStrm (s : State) (k i status : Nat) : State :=
  let s := if hBounded (s.strm k i).header then s.riskSlot 0x30 k else s
  (s.modStrm k i (fun st => { st.rewind with state := .faulted, walking := false, fault := status })).strmStatus k i status

/-- A failure that ends the stream: STATUS, a Logbook record and the stream alert (08 R224). -/
def State.endStrm (s : State) (k i status : Nat) : State :=
  let st := s.strm k i
  if st.state = .idle then s
  else
    let s := s.strmStatus k i status
    let d := [s.strmStat k i, st.pos.src, st.pos.dst]
    let s := s.setStrm k i { st with state := .idle, emitted := [], walking := false }
    (s.report ⟨0x30, 2, k, 1, s.idOf k, (s.slot k).fleet, status, d⟩).alert 4

/-- A transfer ends with a failing status: the stream that owns it ends, where it still runs; of a BOUNDED one that is UNCORRECTABLE the
passage is marked (14 R391). -/
def State.endOwner (s : State) (k : Nat) (o : Out) (status : Nat) : State :=
  let s := if status = 0x0B then s.riskPid 0x30 o.pass else s
  if (s.strm k o.stream).ser = o.ser then s.endStrm k o.stream status else s

/-- At an abort every stream becomes IDLE, and returning data is dropped (08 R212). -/
def State.cancelStreams (s : State) (k : Nat) : State :=
  let s := (s.busySlots k).foldl (fun s i =>
    (s.modStrm k i (fun st => { st with state := .idle, emitted := [], walking := false })).strmStatus k i 0x02) s
  s.modSlot k (fun c => { c with outs := c.outs.map (fun o =>
    if o.kind = .fetch ∨ o.kind = .copy ∨ 32 ≤ o.stream then { o with dropped := true } else o) })

/-- At a commit every slot becomes IDLE; a HALTED stream records 0x02 (08 R211). -/
def State.commitStreams (s : State) (k : Nat) : State :=
  (s.busySlots k).foldl (fun s i =>
    let h := (s.strm k i).state == .halted
    let s := s.modStrm k i (fun st => { st with state := .idle })
    if h then s.strmStatus k i 0x02 else s) s

/-- At a kernel start every slot is IDLE and its block resets, but STATUS, MISS and CV_ERR (08 R196, R232). -/
def State.resetStreams (s : State) (k : Nat) : State := s.modSlot k (fun c => { c with streams := [] })

/-! ## Stream commands (08 R204 to R208) -/

/-- A fetch-queue command completes at acceptance. -/
def State.finishCmd (s : State) (k : Nat) (q : QSel) (e : Entry) (r : Queue) : State := s.setQueue k q (r.accept e .done)

/-- Is a core UNBOUND or outside the kernel's fleet (08 R205)? -/
def State.notPeer (s : State) (k id : Nat) : Bool :=
  (s.slotOf id).isNone || s.fleetOf id != some (s.slot k).fleet

/-- The checks of CH.ARM at acceptance (08 R205). -/
def State.armCheck (s : State) (k : Nat) (w : Cmd) : Option Nat :=
  let a := cf w 111 80
  firstFail
    [ ((s.strm k (cf w 119 115)).state != .idle, 0x8D), (a % 256 != 0, 0x82), (cf w 113 112 != 0 || tsBeyond a 256, 0x04) ]

/-- Is a header field out of range, or a must-be-0 bit set (08 R200, R205)? -/
def headerBad (me : Nat) (h : List Byte) : Bool :=
  hf h 32 4 4 != 0 || hf h 33 5 3 != 0 || hf h 34 2 6 != 0 || hf h 35 5 3 != 0 || hb h 36 7 || hf h 45 5 3 != 0 ||
  hOtMax h == 0 || decide (512 < hOtMax h) || decide (hOtMax h < hOtRsv h) ||
  (hConvoy h && (hTileBytes h == 0 || decide (16384 * 256 < hTileBytes h) || decide (16 < blk h 44 1))) ||
  (hBounded h && (hRate h == 0 || decide (64 < hRate h) || hDeadline h == 0)) ||
  blk h 47 1 != 0 || (h.drop 52).any (· != 0) || (hRemote h && hDcore h == me)

/-- The checks of CH.ARM when its chart has been read (08 R205). DEDUCED (log entry 53): a space code or pair that the command does not
accept fails with FORMAT, as R205 says, where 01 R22 speaks of PERM_FAULT. -/
def State.chartCheck (s : State) (k : Nat) (h : List Byte) (ws : List Word) : Option Nat :=
  let kind := hKind h
  firstFail
    [ (kind.isNone || (hb h 33 0 && hb h 33 1) || (hConvoy h && kind != some .fetch && kind != some .put) ||
        (hBounded h && (hSrc h == 3 || hDst h == 3)), 0x80),
      (!chartOk (hNinst h) ws, 0x8C),
      (headerBad (s.idOf k) h, 0x82),
      (hBounded h && (s.slot k).passage == 0, 0x09),
      (decide (480 < s.rsvSum k + hOtRsv h) || (hBounded h && decide (64 < s.rateSum k + hRate h)), 0x8E),
      (hRemote h && s.notPeer k (hDcore h), 0x04) ]

/-- A stream as an arm or a re-arm starts it, at serial `ser` (08 R206, R225). -/
def Stream.start (st : Stream) (ser now : Nat) : Stream :=
  { st with state := .running, ser := ser, pos := Pos.zero, stop := false, emitted := [], emittedBytes := 0,
            issuedBytes := 0, shut := [], late := false, walking := false, deadline := now + hDeadline st.header }

/-- The effect of CH.ARM; a failed check stops the queue and is recorded in STATUS (08 R205, R206). -/
def State.chArm (s : State) (k : Nat) (e : Entry) (r : Queue) : State :=
  let w := e.word
  let i := cf w 119 115
  let fail := fun (st : Nat) => (s.failCmd k .fq e r st).strmStatus k i st
  match s.armCheck k w with
  | some st => fail st
  | none =>
    let b := s.tsRead k (cf w 111 80) 256
    let h := b.take 128
    let ws := (List.range (min 16 (hNinst h))).map (fun j => BitVec.ofNat 64 (blk b (128 + 8 * j) 8))
    match s.chartCheck k h ws with
    | some st => fail st
    | none =>
      let b0 := if cb w 114 then cf w 63 0 else blk h 0 8
      let c := s.slot k
      let st : Stream := { Stream.idle with
        insts := ws
        header := h
        bases := [BitVec.ofNat 64 b0, BitVec.ofNat 64 (blk h 8 8), BitVec.ofNat 64 (blk h 16 8), BitVec.ofNat 64 (blk h 24 8)]
        tokens := 0
        clim := if hConvoy h then blk h 44 1 else 0
        arrBase := s.rd (Reg.TALLY k (hf h 45 0 4)) }
      let s := s.setStrm k i (st.start c.nextSer s.time)
      (s.modSlot k (fun c => { c with nextSer := c.nextSer + 1 })).finishCmd k .fq e r

/-- Tiles of a run of so many bytes (08 R226). -/
def tilesOf (h : List Byte) (n : Nat) : Nat := if hTileBytes h = 0 then 0 else cdiv n (hTileBytes h)

/-- The effect of CH.REARM (08 R206, R225, R226); on a RUNNING or HALTING persistent stream it waits. -/
def State.chRearm (s : State) (k : Nat) (e : Entry) (r : Queue) : State :=
  let w := e.word
  let i := cf w 119 115
  let st := s.strm k i
  if st.state = .idle ∨ st.state = .halted ∨ st.state = .faulted ∨ !hPersist st.header then
    (s.failCmd k .fq e r 0x8D).strmStatus k i 0x8D
  else if st.state ≠ .done then s
  else
    let c := s.slot k
    let t := tilesOf st.header st.emittedBytes
    let st := { st with
      bases := if cb w 114 then st.bases.set (cf w 113 112) (BitVec.ofNat 64 (cf w 63 0)) else st.bases
      clim := st.clim - t
      prevTiles := st.prevTiles + t
      arrBase := st.arrBase + BitVec.ofNat 64 st.emittedBytes }
    let s := s.setStrm k i (st.start c.nextSer s.time)
    (s.modSlot k (fun c => { c with nextSer := c.nextSer + 1 })).finishCmd k .fq e r

/-- The slots a CH.HALT or CH.RESUME names. -/
def namedSlots (w : Cmd) : List Nat := (List.range 32).filter (fun i => cb w (88 + i))

/-- Has a forward stream issued every transfer of its first `n` tiles, over its runs since its arm (08 R208)? -/
def Stream.issuedTiles (st : Stream) (n : Nat) : Bool :=
  decide (n ≤ st.prevTiles) ||
  (match st.upcoming with
    | some e => decide (n ≤ st.prevTiles + (e.off + e.len - 1) / hTileBytes st.header)
    | none => st.stop && decide (n ≤ st.prevTiles + tilesOf st.header st.emittedBytes))

/-- The checks of CH.CREDIT (08 R205). -/
def State.creditCheck (s : State) (k : Nat) (w : Cmd) : Option Nat :=
  let f := s.strm k (cf w 106 102)
  firstFail
    [ (cf w 101 97 == 0 || decide (16 < cf w 101 97) ||
        (cb w 107 && (f.state == .idle || !hConvoy f.header || hKind f.header != some .put)), 0x82),
      (cb w 119 && s.notPeer k (cf w 118 113), 0x04) ]

/-- A credit arrives at a slot (08 R227). -/
def State.credit (s : State) (k i n : Nat) : State :=
  let st := s.strm k i
  if st.state = .idle ∨ !hConvoy st.header then s.setFld (Reg.STRM_STAT k i) F.STRM_STAT_CV_ERR 1
  else s.setStrm k i { st with clim := st.clim + n }

/-- The effect of CH.CREDIT (08 R208): it waits for the forward stream; then it sends its credits. -/
def State.chCredit (s : State) (k : Nat) (e : Entry) (r : Queue) : State :=
  let w := e.word
  match s.creditCheck k w with
  | some st => s.failCmd k .fq e r st
  | none =>
    let n := cf w 101 97
    let fs := cf w 106 102
    let f := s.strm k fs
    if cb w 107 && !f.issuedTiles (f.freed + n) then s
    else
      let s := if cb w 107 then s.setStrm k fs { f with freed := f.freed + n } else s
      let s := if cb w 119 then s.send .reply (.core (s.idOf k)) (.core (cf w 118 113)) (.credit (cf w 112 108) n)
        else s.credit k (cf w 112 108) n
      s.finishCmd k .fq e r

/-! ## The sector cache (08 R218, R219) -/

/-- Sets of a sector's cache: its part of the pool over 4 KiB. -/
def State.cacheSets (s : State) (sec : Nat) : Nat := (16 - tget 0 s.cfg.poolMiB sec) * 256

def State.cacheFind (s : State) (sec fleet line : Nat) : Option CacheLine :=
  if s.cacheSets sec = 0 then none
  else (tget [] (s.sector sec).cache (line % s.cacheSets sec)).find? (fun l => l.fleet == fleet && l.line == line)

/-- Put a line into its set as the most recently used; the least recently used of 16 goes out. -/
def State.cachePut (s : State) (sec : Nat) (l : CacheLine) : State :=
  let n := s.cacheSets sec
  if n = 0 then s
  else
    let c := s.sector sec
    let i := l.line % n
    let old := (tget [] c.cache i).filter (fun o => !(o.fleet == l.fleet && o.line == l.line))
    s.setSector sec { c with cache := tput c.cache i ((l :: old).take 16) }

/-- A write-out updates a cached copy and leaves the replacement order as it is (08 R219). -/
def State.cacheWrite (s : State) (sec fleet va : Nat) (bs : List Byte) : State :=
  let n := s.cacheSets sec
  if n = 0 then s
  else
    let c := s.sector sec
    let i := va / 256 % n
    s.setSector sec { c with cache := tput c.cache i ((tget [] c.cache i).map (fun l =>
      if l.fleet = fleet ∧ l.line = va / 256 then { l with bytes := mergeBytes l.bytes (va % 256) bs } else l)) }

/-- A read on its way fills no line of a fleet that a test picks. -/
def dropFill (sec fleet : Nat) (p : Nat → Bool) (f : Option (Nat × Nat × Nat)) : Option (Nat × Nat × Nat) :=
  f.filter (fun x => !(x.1 == sec && x.2.1 == fleet && p x.2.2))

def ReadFor.dropFill (sec fleet : Nat) (p : Nat → Bool) : ReadFor → ReadFor
  | .xfer to_ xid lo len fill => .xfer to_ xid lo len (Machine.dropFill sec fleet p fill)
  | w => w

/-- Drop the lines of a fleet that a test picks (08 R220, 10 R276), those too that reads bring which have passed their ordering point:
no line comes back as it was before. -/
def State.cacheDrop (s : State) (sec fleet : Nat) (p : Nat → Bool) : State :=
  let c := s.sector sec
  let s := s.setSector sec { c with cache := c.cache.map (fun (q : Nat × List CacheLine) =>
    (q.1, q.2.filter (fun l => !(l.fleet == fleet && p l.line)))) }
  let reads := fun (rs : List PRead) => rs.map (fun (r : PRead) => { r with who := r.who.dropFill sec fleet p })
  { s with
    ports := s.ports.map (fun (x : Nat × Port) => (x.1, { x.2 with
      rdQ := reads x.2.rdQ
      rdOut := reads x.2.rdOut
      rebuilds := x.2.rebuilds.map (fun y => (y.1, y.2.dropFill sec fleet p)) }))
    hm := s.hm.map (fun (r : HmReq) => if r.write then r else { r with fill := dropFill sec fleet p r.fill })
    remote := s.remote.map (fun (r : RemoteReq) => if r.write then r else { r with fill := dropFill sec fleet p r.fill }) }

/-! ## Issue (08 R215 to R217, R226) -/

/-- The access a stream's transfers ask for. -/
def strmAccess (h : List Byte) : XlAccess := ⟨hKind h != some .fetch, false, hBounded h⟩

/-- Does a stream's far end need a translation? -/
def farEm (h : List Byte) : Bool := (if hKind h = some .fetch then hSrc h else hDst h) == 2

/-- The translation the sector's cache holds for an address, where it permits the access. -/
def State.secHit (s : State) (sec fleet va : Nat) (a : XlAccess) : Option TlbEntry :=
  match tlbFind (s.sector sec).tlb secSets fleet va with
  | some e => if s.leafOk e.pte e.big a then some e else none
  | none => none

/-- The translation that an access from a sector uses, as its cache holds it. -/
def State.xlOf (s : State) (sec fleet va : Nat) : XlUse :=
  match tlbFind (s.sector sec).tlb secSets fleet va with | some x => ⟨pageSize x.big, fleet, va⟩ | none => .none

/-- Do a transfer's convoy gates hold (08 R226)? -/
def State.gates (s : State) (k : Nat) (st : Stream) (e : Emit) : Bool :=
  let h := st.header
  if !hConvoy h then true
  else
    let t := (e.off + e.len - 1) / hTileBytes h
    decide (t < st.clim) &&
    (!hb h 45 4 || decide (0 ≤ (s.rd (Reg.TALLY k (hf h 45 0 4)) - st.arrBase).toInt - ((t + 1) * hTileBytes h : Nat)))

/-- A slot's first emitted transfer needs a translation that the cache lacks: a walk starts (08 R223). -/
def State.startWalk (s : State) (k i : Nat) : State :=
  let st := s.strm k i
  match st.emitted with
  | [] => s
  | e :: _ =>
    let va := (farOf st.header e.src e.dst).toNat
    if st.state = .running ∧ farEm st.header ∧ !st.walking ∧ va < 2 ^ 48 ∧
        (s.secHit (k / 9) (s.slot k).fleet va (strmAccess st.header)).isNone then
      s.setStrm k i { st with walking := true }
    else s

/-- Does a stream pass through its sector polder: to the pool, or to what the sector's caches serve? -/
def usesSector (h : List Byte) : Bool := match hKind h with | some .put => false | some .copy => false | _ => true

/-- Is a slot ready to issue? -/
def State.ready (s : State) (k i : Nat) : Bool :=
  let st := s.strm k i
  match st.emitted with
  | [] => false
  | e :: _ => st.state == .running && !st.walking && s.otAllows k i && s.gates k st e && !s.stalled k &&
    !(s.sluiced (72 + k / 9) && usesSector st.header)

/-- The class a ready stream is served in: 0 for BOUNDED with a token, else 1 to 4 by priority (08 R215). -/
def Stream.cls (st : Stream) : Nat := if hBounded st.header && decide (0 < st.tokens) then 0 else 1 + hPrio st.header

/-- The slot served next, with its class. -/
def State.pickStrm (s : State) (k : Nat) : Option (Nat × Nat) :=
  (List.range 5).findSome? (fun c =>
    let last := tget 31 (s.slot k).rrLast c
    ((List.range 32).map (fun d => (last + 1 + d) % 32)).findSome? (fun i =>
      if s.ready k i && (s.strm k i).cls == c then some (i, c) else none))

/-- Does a transfer break an address rule of R199, EM translation apart, or a right of the pool (01 R30)? -/
def State.badAddr (s : State) (k : Nat) (h : List Byte) (src dst : Word) (len : Nat) : Bool :=
  let bad := fun (space a : Nat) =>
    match space with
    | 0 => tsBeyond a len
    | 1 => decide (s.poolSize (k / 9) < a + len) || tfind s.cfg.poolOwner (k / 9) != some (s.slot k).fleet
    | 2 => decide (2 ^ 48 ≤ a)
    | _ => false
  bad (hSrc h) src.toNat || bad (hDst h) dst.toNat

/-- Merge following transfers that start where the merged one ends and stay in one far-end block (08 R217);
one that breaks an address rule is left for itself. -/
def State.mergeEmits (s : State) (k : Nat) (st : Stream) : Emit → List Emit → Nat → Emit × List Emit × Nat
  | e, [], m => (e, [], m)
  | e, f :: fs, m =>
    let far := (farOf st.header e.src e.dst).toNat
    if f.src = e.src + BitVec.ofNat 64 e.len ∧ f.dst = e.dst + BitVec.ofNat 64 e.len ∧
        far % 256 + e.len + f.len ≤ 256 ∧ s.gates k st f ∧ !s.badAddr k st.header f.src f.dst f.len then
      s.mergeEmits k st { e with len := e.len + f.len } fs (m + 1)
    else (e, f :: fs, m)

/-- Is the far end behind a closed dike? -/
def State.farClosed (s : State) (k : Nat) (h : List Byte) (t : Option Target) : Bool :=
  match hKind h with
  | some .put => s.behind (.core (hDcore h))
  | some .copy => false
  | _ =>
    match t with
    | some (.em pa) => match s.place pa with | some pl => s.behind (.port pl.stack) | none => false
    | some (.partner node _) => (match s.routeTo node with | some l => s.behind (.link l) | none => false)
    | some (.host _) => s.behind .attach
    | none =>
      let sp := if hKind h = some .fetch then hSrc h else hDst h
      if sp = 1 then s.behind (.sector (k / 9)) else s.behind .attach

/-- The narrowest scope whose FQ REL waits for a transfer (10 R269). -/
def State.scopeOf (s : State) (k : Nat) (h : List Byte) (t : Option Target) : Nat :=
  match hKind h with
  | some .put => if hDcore h / 8 = s.idOf k / 8 then 1 else 2
  | some .writeOut =>
    match t with
    | some (.em _) => 2
    | some _ => 3
    | none => if hDst h = 1 then 1 else 3
  | _ => 0

/-- The far end of a transfer. -/
def State.farEnd (s : State) (k : Nat) (h : List Byte) (t : Option Target) : Endpoint :=
  match hKind h with
  | some .put => .core (hDcore h)
  | some .copy => .core (s.idOf k)
  | _ =>
    match t with
    | some (.em pa) => match s.place pa with | some pl => .port pl.stack | none => .keep
    | some (.partner node _) => .link node
    | some (.host _) => .attach
    | none => if (if hKind h = some .fetch then hSrc h else hDst h) = 1 then .sector (k / 9) else .attach

/-- Send a transfer on its way (08 R197, R198, R213, R218). -/
def State.launch (s : State) (k : Nat) (h : List Byte) (e : Emit) (t : Option Target) (xid : Nat) (xl : XlUse) : State :=
  let me := s.idOf k
  let sec := k / 9
  let fl := (s.slot k).fleet
  let src := e.src.toNat
  let dst := e.dst.toNat
  let pid := if hBounded h then (s.slot k).passage else 0
  let bs := if hSrc h = 0 then s.tsRead k src e.len else []
  match hKind h, t with
  | some .copy, _ => s.send .data (.core me) (.core me) (.xferData xid 0 bs)
  | some .put, _ => s.send .data (.core me) (.core (hDcore h)) (.put xid dst bs (hTally h))
  | some .writeOut, none =>
    if hDst h = 1 then (s.poolWrite sec dst bs).send .reply (.sector sec) (.core me) (.xferAck xid 0)
    else s.askHost true dst e.len bs me xid none .none
  | some .writeOut, some (.em pa) =>
    s.send .data (.core me) (s.farEnd k h t) (.mem xid ⟨true, pa, dst, e.len, bs, hPrio h, hBounded h, fl, false, pid⟩)
  | some .writeOut, some (.partner node pa) =>
    s.askRemote ⟨node, 0, true, false, pa, e.len, bs, me, xid, some (sec, fl, dst), false, 0, xl, false⟩
  | some .writeOut, some (.host a) => s.askHost true a e.len bs me xid (some (sec, fl, dst)) xl
  | _, none =>
    if hSrc h = 1 then
      if s.poolBad sec src e.len then s.send .data (.sector sec) (.core me) (.xferData xid 0x0B [])
      else s.send .data (.sector sec) (.core me) (.xferData xid 0 (s.poolRead sec src e.len))
    else s.askHost false src e.len [] me xid none .none
  | _, some tgt =>
    match (if hb h 33 1 then none else s.cacheFind sec fl (src / 256)) with
    | some l => (s.cachePut sec l).send .data (.sector sec) (.core me) (.xferData xid 0 ((l.bytes.drop (src % 256)).take e.len))
    | none =>
      match tgt with
      | .em pa => s.send .data (.core me) (s.farEnd k h t) (.mem xid ⟨false, pa, src, e.len, [], hPrio h, hBounded h, fl, hb h 33 0, pid⟩)
      | .partner node pa => s.askRemote ⟨node, 0, false, hConvoy h, pa, e.len, [], me, xid,
        if hb h 33 0 then some (sec, fl, src / 256) else none, false, 0, xl, false⟩
      | .host a => s.askHost false a e.len [] me xid (if hb h 33 0 then some (sec, fl, src / 256) else none) xl

/-- Issue the first emitted transfer of slot `i`, merged, in class `c` (08 R215 to R217, R224). -/
def State.issueXfer (s : State) (k i c : Nat) : State :=
  let st := s.strm k i
  match st.emitted with
  | [] => s
  | e0 :: es =>
    let h := st.header
    let m := s.mergeEmits k st e0 es 0
    let e := m.1
    let far := (farOf h e.src e.dst).toNat
    let fl := (s.slot k).fleet
    if s.badAddr k h e.src e.dst e.len then s.endStrm k i 0x04
    else
      let hit := if farEm h then s.secHit (k / 9) fl far (strmAccess h) else none
      let t := hit.map (fun x => leafTarget x.pte x.big far)
      if s.farClosed k h t then s.endStrm k i 0x0E
      else
        let xid := (s.slot k).nextXfer
        let o : Out := {
          id := xid, stream := i, ser := st.ser, kind := (hKind h).getD .fetch, len := e.len, dst := e.dst.toNat,
          tally := hTally h, scope := s.scopeOf k h t, far := s.farEnd k h t, dropped := false, xl := match hit with | some x => pageSize x.big | none => 0,
          fleet := fl, va := far, inv := false, pass := if hBounded h then (s.slot k).passage else 0 }
        let s := match hit with
          | some x => s.setSector (k / 9) { s.sector (k / 9) with tlb := tlbPut (s.sector (k / 9)).tlb secSets secWays x }
          | none => s
        let s := s.setStrm k i { st with
          emitted := m.2.1, issuedBytes := st.issuedBytes + e.len, tokens := if c = 0 then st.tokens - 1 else st.tokens }
        let s := s.modSlot k (fun d => { d with outs := d.outs ++ [o], nextXfer := xid + 1, rrLast := tput d.rrLast c i })
        let s := s.perfAdd (Reg.FE_XFER k) 1 (Reg.FE_PERF k) F.FE_PERF_XFER_OVF F.FE_PERF_OVF_AE
        let s := s.perfAdd (Reg.FE_MERGED k) m.2.2 (Reg.FE_PERF k) F.FE_PERF_MRG_OVF F.FE_PERF_OVF_AE
        s.launch k h e t xid (match hit with | some x => ⟨pageSize x.big, fl, far⟩ | none => .none)

/-- One step of the fetch engine: every RUNNING slot runs its chart, missing translations are asked for, and one ready
transfer is issued (08 R202, R215). -/
def State.fetchStep (s : State) (k : Nat) : State :=
  let s := (List.range 32).foldl (fun s i =>
    let st := s.strm k i
    if st.state = .running then ((s.setStrm k i (st.advance 4)).startWalk k i).settleStrm k i else s) s
  match s.pickStrm k with
  | none => s
  | some (i, c) => s.issueXfer k i c

/-! ## Walks, tokens, deadlines (08 R216, R223, R230, R231) -/

/-- The walk of slot `i`'s first emitted transfer ends (08 R223, 11 R309). -/
def State.walkDone (s : State) (k i : Nat) : State :=
  let st := s.strm k i
  match st.walking, st.emitted with
  | true, e :: _ =>
    let fl := (s.slot k).fleet
    if s.walkerFull fl then s
    else s.overEm fun s =>
      let va := (farOf st.header e.src e.dst).toNat
      let r := s.secTranslate (k / 9) fl va (strmAccess st.header) ⟨0, s.idOf k, i⟩
      if r.1.1 = 0 then r.2.modStrm k i (fun x => { x with walking := false })
      else r.2.faultStrm k i r.1.1
  | _, _ => s

/-- One token (08 R216). -/
def State.gainToken (s : State) (k i : Nat) : State :=
  let st := s.strm k i
  if st.state ≠ .idle ∧ hBounded st.header then
    s.setStrm k i { st with tokens := min (hRate st.header) (st.tokens + 1) }
  else s

/-- Bytes of a stream's run that have not landed: still to be generated, generated, outstanding (08 R231). -/
def State.notLanded (s : State) (k i : Nat) : Nat :=
  (s.strm k i).left + ((s.strm k i).emitted.map (fun e => e.len)).foldl (· + ·) 0 + ((s.outsOf k i).map (fun o => o.len)).foldl (· + ·) 0

/-- A BOUNDED stream's deadline passes (08 R230, R231). -/
def State.strmDeadline (s : State) (k i : Nat) : State :=
  let st := s.strm k i
  if hBounded st.header ∧ st.state ≠ .idle ∧ st.state ≠ .done ∧ !st.late then
    let s := ({ s with time := max s.time st.deadline }.setStrm k i { st with late := true }).setFld (Reg.STRM_STAT k i) F.STRM_STAT_MISS 1
    let s := s.report ⟨0x24, 2, k, 1, s.idOf k, (s.slot k).fleet, 0x05, [s.strmStat k i, BitVec.ofNat 64 (s.notLanded k i)]⟩
    let s := s.alert 10
    if s.rtMode then
      { s with missReports := s.missReports ++
          [[(s.slot k).passage, s.idOf k, i, (s.strm k i).state.code, s.notLanded k i]] }
    else s
  else s

end Sys2Proof.Machine
end

