-- ==== Sys2Proof/Machine/Sync.lean ====
section
/-!
DEFINITION. Machine/Sync.lean: REL, ACQ and TWAIT, their signals and polls, the scope checker (10 R269 to R283), and the
landing and acknowledgement of transfers (08 R213, R221).
-/

namespace Sys2Proof.Machine

/-! ## TWAIT (10 R273) -/

/-- The entry that held a queue and whose condition is met. -/
def Queue.metEntry (q : Queue) : Option (Entry × List Byte) :=
  q.inflight.findSome? (fun e => match e.phase with | .met d => some (e.entry, d) | _ => none)

/-- The entry holding a queue, its condition not yet met. -/
def Queue.heldEntry (q : Queue) : Option (Entry × Nat × List Byte) :=
  q.inflight.findSome? (fun e => match e.phase with | .held w d => some (e.entry, w, d) | _ => none)

/-- TWAIT: accepted, it holds its queue; it completes when its tally has reached the target. -/
def State.twait (s : State) (k : Nat) (q : QSel) (op : Nat) : State :=
  let s := match s.takeHead k q (· == op) with
    | some (e, r) => s.setQueue k q (r.accept e (.held 0 []))
    | none => s
  match (s.queue k q).metEntry, (s.queue k q).heldEntry with
  | some (e, _), _ => if opcode e.word = op then s.completeEntry k q e.ticket 0 else s
  | none, some (e, _, _) =>
    if opcode e.word = op ∧ s.tallyMet k (cf e.word 119 116) (cf e.word 63 0) then s.completeEntry k q e.ticket 0 else s
  | none, none => s

/-! ## ACQ (10 R274 to R278) -/

/-- An SP doubleword outside the addressable part, or in a pool of another fleet (10 R278, 01 R30). -/
def State.badPool (s : State) (k a : Nat) : Bool :=
  decide (s.poolSize (k / 9) < a + 8) || tfind s.cfg.poolOwner (k / 9) != some (s.slot k).fleet

/-- The checks of an ACQ: of its word, and of its descriptor where it is read (10 R278); space codes as of a REL (log entry 53). -/
def State.acqCheck (s : State) (k : Nat) (w : Cmd) (d : List Byte) : Option Nat :=
  let word := acqCond w == 1 || acqCond w == 2
  let first := firstFail
    [ (acqCond w == 3 || (acqRange w && decide (acqScope w < 2)), 0x80),
      (acqReads w && cf w 95 64 % 32 != 0, 0x82),
      (acqReads w && tsBeyond (cf w 95 64) 32, 0x04) ]
  match first with
  | some st => some st
  | none =>
    if !acqReads w then none
    else firstFail
      [ (word && (acqSpace d == 3 || (acqSpace d == 1 && acqScope w == 0) || (acqSpace d == 2 && decide (acqScope w < 2))), 0x80),
        ((word && (acqAddr d % 8 != 0 || bits (blk d 0 8) 50 14 != 0)) || blk d 28 4 != 0 ||
          (acqRange w && (blk d 16 8 % 256 != 0 || blk d 24 4 % 256 != 0 || blk d 24 4 == 0 || decide (2 ^ 24 < blk d 24 4))), 0x82),
        (word && ((acqSpace d == 0 && tsBeyond (acqAddr d) 8) || (acqSpace d == 1 && s.badPool k (acqAddr d))), 0x04) ]

/-- The condition has been met: the range is invalidated, and the ACQ completes (10 R276). -/
def State.acqDone (s : State) (k : Nat) (q : QSel) (e : Entry) (d : List Byte) : State :=
  let w := e.word
  let s := if acqRange w then
      s.cacheDrop (k / 9) (s.slot k).fleet (fun l => overlaps (256 * l) 256 (blk d 16 8) (blk d 24 4))
    else s
  s.completeEntry k q e.ticket 0

/-- Does an ACQ on a tally or an own Tile Store word meet its condition now? -/
def State.acqMet (s : State) (k : Nat) (w : Cmd) (d : List Byte) : Bool :=
  if acqCond w = 0 then s.tallyMet k (cf w 115 112) (cf w 63 0)
  else acqSpace d == 0 && acqWordMet w d (s.tsLE k (acqAddr d) 8)

/-- Test an ACQ on a tally or an own Tile Store word. -/
def State.acqTest (s : State) (k : Nat) (q : QSel) (e : Entry) (d : List Byte) : State :=
  if s.acqMet k e.word d then (s.acqCompare k e d).acqDone k q e d else s

/-- ACQ: accepted, it holds its queue; a condition on a tally or an own word is tested when it starts
and at every write and addition, and completes by this command where it holds. -/
def State.acq (s : State) (k : Nat) (q : QSel) (op : Nat) : State :=
  match s.takeHead k q (· == op) with
  | some (e, r) =>
    let d := if acqReads e.word then s.tsRead k (cf e.word 95 64) 32 else []
    match s.acqCheck k e.word d with
    | some st => s.failCmd k q e r st
    | none => (s.setQueue k q (r.accept e (.held 0 d))).acqTest k q e d
  | none =>
    match (s.queue k q).metEntry, (s.queue k q).heldEntry with
    | some (e, d), _ => if opcode e.word = op then s.acqDone k q e d else s
    | none, some (e, _, d) => if opcode e.word = op then s.acqTest k q e d else s
    | none, none => s

/-- The router reads an ACQ's SP word (10 R276). -/
def State.acqSpPoll (s : State) (k : Nat) (q : QSel) : State :=
  if (s.slot k).stopping then s else match (s.queue k q).heldEntry with
  | some (e, _, d) =>
    if isAcqOn e.word d 1 then
      if s.behind (.sector (k / 9)) then s.completeEntry k q e.ticket 0x0E
      else if s.poolBad (k / 9) (acqAddr d) 8 then s.completeEntry k q e.ticket 0x0B
      else if acqWordMet e.word d (leNat (s.poolRead (k / 9) (acqAddr d) 8)) then s.acqDone k q e d else s
    else s
  | none => s

/-- Translate again, writing a record only for a status that differs from the last (10 R278). -/
def State.retryTranslate (s : State) (k va prev : Nat) (a : XlAccess) : (Nat × Target) × State :=
  let fl := (s.slot k).fleet
  match s.secHit (k / 9) fl va a with
  | some e => ((0, leafTarget e.pte e.big va), s)
  | none =>
    match s.path (.core (s.idOf k)) (.port (s.walkerOf fl)) with
    | .wait => ((0, .em 0), s.askSluice)
    | .closed => ((0x0E, .em 0), s)
    | .ok =>
    let r := s.walk fl va a
    if r.1.status = 0 then
      let sec := r.2.sector (k / 9)
      ((0, leafTarget r.1.pte r.1.big va),
        r.2.setSector (k / 9) { sec with tlb := tlbPut sec.tlb secSets secWays ⟨fl, va / pageSize r.1.big, r.1.big, r.1.pte⟩ })
    else if r.1.status = prev then ((r.1.status, .em 0), r.2)
    else ((r.1.status, .em 0), r.2.faultRecord va r.1 a fl ⟨1, s.idOf k, 0xFF⟩)

/-- An outstanding access of a REL or ACQ to a remote page; `n` is 32 or 34 (10 R272, R276). -/
def State.pushOut (s : State) (k n : Nat) (q : QSel) (ticket : Nat) (kind : XferKind) (far : Endpoint) (va : Nat) : Nat × State :=
  let xid := (s.slot k).nextXfer
  let o : Out := ⟨xid, n + q.num, ticket, kind, 8, 0, none, 3, far, false,
    (s.xlOf (k / 9) (s.slot k).fleet va).size,
    (s.slot k).fleet, va, false, 0⟩
  (xid, s.modSlot k (fun d => { d with outs := d.outs ++ [o], nextXfer := xid + 1 }))

/-- The router reads an ACQ's EM word FRESH (10 R276, R278). -/
def State.acqEmPoll (s : State) (k : Nat) (q : QSel) : State :=
  if (s.slot k).stopping then s else match (s.queue k q).heldEntry with
  | some (e, walk, d) =>
    if isAcqOn e.word d 2 && walk == 0 && !(s.slot k).outs.any (fun o => o.stream == 34 + q.num && !o.dropped) &&
        !s.walkerFull (s.slot k).fleet && !s.stalled k then
      s.overEm fun s => match s.retryTranslate k (acqAddr d) 0 ⟨false, false, false⟩ with
      | ((0, t), s) =>
        let me := s.idOf k
        let xl := s.xlOf (k / 9) (s.slot k).fleet (acqAddr d)
        match t with
        | .em pa =>
          (match s.emLoadBy (.core me) (clsPrio 0) pa 8 with
            | (0, bs, s) => if acqWordMet e.word d (leNat bs) then s.acqDone k q e d else s
            | (st, _, s) => s.completeEntry k q e.ticket st)
        | .partner node pa =>
          let r := s.pushOut k 34 q e.ticket .fetch (.link node) (acqAddr d)
          r.2.askRemote ⟨node, 0, false, false, pa, 8, [], me, r.1, none, false, 0, xl, false⟩
        | .host a =>
          let r := s.pushOut k 34 q e.ticket .fetch .attach (acqAddr d)
          r.2.askHost false a 8 [] me r.1 none xl
      | ((st, _), s) => s.setQueue k q ((s.queue k q).setPhase e.ticket (.held st d))
    else s
  | none => s

/-! ## REL (10 R269 to R272) -/

/-- The checks of a REL (10 R278). DEDUCED (log entry 53): a space code that it does not accept is FORMAT, as R278 says, where 01 R22 speaks
of PERM_FAULT. -/
def State.relCheck (s : State) (k : Nat) (w : Cmd) : Option Nat :=
  let word := relSig w == 2
  firstFail
    [ (relSig w == 3 || (word && relSpace w == 3), 0x80),
      (word && (relAddr w % 8 != 0 || (relSpace w != 2 && cf w 95 80 != 0)), 0x82),
      (word && ((relSpace w == 0 && tsBeyond (relAddr w) 8) || (relSpace w == 1 && s.badPool k (relAddr w))), 0x04),
      (relRemote w && s.notPeer k (cf w 114 109), 0x04) ]

/-- The streams an FQ REL waits for: every stream armed before it that has not ended, and every run with transfers
outstanding. -/
def State.relStreams (s : State) (k : Nat) (q : QSel) : List (Nat × Nat) :=
  match q with
  | .xq => []
  | .fq => (s.busySlots k).map (fun i => (i, (s.strm k i).ser)) ++
      ((s.slot k).outs.filter (fun o => decide (o.stream < 32))).map (fun o => (o.stream, o.ser))

/-- REL is accepted and does not hold its queue. -/
def State.rel (s : State) (k : Nat) (q : QSel) (op : Nat) : State :=
  match s.takeHead k q (· == op) with
  | none => s
  | some (e, r) =>
    match s.relCheck k e.word with
    | some st => s.failCmd k q e r st
    | none => s.setQueue k q (r.accept e (.rel (s.relStreams k q)))

/-- Is the wait set of a REL met (10 R271)? -/
def State.relMet (s : State) (k : Nat) (q : QSel) (e : Entry) (streams : List (Nat × Nat)) : Bool :=
  match q with
  | .xq => (s.queue k .xq).inflight.all (fun f => decide (e.ticket ≤ f.entry.ticket) ||
      f.phase == .done)
  | .fq =>
    streams.all (fun p =>
      let st := s.strm k p.1
      (st.ser != p.2 || st.state == .idle || st.state == .done || (st.stop && st.emitted.isEmpty)) &&
      (s.slot k).outs.all (fun o => !(o.stream == p.1 && o.ser == p.2) || decide (relScope e.word < o.scope))) &&
    (s.queue k .fq).inflight.all (fun f => decide (e.ticket ≤ f.entry.ticket) ||
      (match f.phase with | .rel _ => false | .relSent w => w == 0 | _ => true))

/-- Perform the signal of a REL to an EM word (10 R272, R278); `prev` is the status of the last failed walk. -/
def State.relEm (s : State) (k : Nat) (q : QSel) (e : Entry) (prev : Nat) : State :=
  let w := e.word
  let me := s.idOf k
  let va := relAddr w
  let fl := (s.slot k).fleet
  let bs := natLE 8 (cf w 31 0)
  if s.walkerFull fl || (s.slot k).stopping then s
  else s.overEm fun s =>
    match s.retryTranslate k va prev ⟨true, false, false⟩ with
    | ((0, t), s) =>
      let xl := s.xlOf (k / 9) fl va
      let fill := some (k / 9, fl, va)
      let s := s.setQueue k q ((s.queue k q).setPhase e.ticket (.relSent 0))
      (match t with
        | .em pa =>
          let far := match s.place pa with | some pl => Endpoint.port pl.stack | none => .keep
          let r := s.pushOut k 32 q e.ticket .writeOut far va
          r.2.send .data (.core me) far (.mem r.1 ⟨true, pa, va, 8, bs, 0, false, fl, false, 0⟩)
        | .partner node pa =>
          let r := s.pushOut k 32 q e.ticket .writeOut (.link node) va
          r.2.askRemote ⟨node, 0, true, false, pa, 8, bs, me, r.1, fill, false, 0, xl, false⟩
        | .host a =>
          let r := s.pushOut k 32 q e.ticket .writeOut .attach va
          r.2.askHost true a 8 bs me r.1 fill xl)
    | ((st, _), s) => s.setQueue k q ((s.queue k q).setPhase e.ticket (.relSent st))

/-- The first REL of a queue that has not signalled, with its wait set. -/
def Queue.firstRel (q : Queue) : Option (Entry × List (Nat × Nat)) :=
  q.inflight.findSome? (fun e => match e.phase with | .rel l => some (e.entry, l) | _ => none)

/-- A REL whose wait set is met performs its signal (10 R271, R272). -/
def State.relSignal (s : State) (k : Nat) (q : QSel) : State :=
  match (s.queue k q).firstRel with
  | none => s
  | some (e, l) =>
    if !s.relMet k q e l || s.stalled k || (s.slot k).stopping then s
    else
      let w := e.word
      let me := s.idOf k
      let dst := if relRemote w then cf w 114 109 else me
      let ks := (s.slot k).kser
      let sent := s.setQueue k q ((s.queue k q).setPhase e.ticket (.relSent 0))
      match relSig w with
      | 0 => s.completeEntry k q e.ticket 0
      | 1 => sent.send .reply (.core me) (.core dst) (.tallySig ks q.num e.ticket (relScope w) (cf w 108 105) (cf w 31 0))
      | _ =>
        match relSpace w with
        | 0 => sent.send .reply (.core me) (.core dst) (.wordSig ks q.num e.ticket (relScope w) 0 (relAddr w) (cf w 31 0))
        | 1 => sent.send .data (.core me) (.sector (k / 9)) (.wordSig ks q.num e.ticket (relScope w) 1 (relAddr w) (cf w 31 0))
        | _ => s.relEm k q e 0

/-- The queue of a number. -/
def QSel.ofNum (n : Nat) : QSel := if n % 2 = 0 then .xq else .fq

/-- The REL that sent a signal completes with a status, where its kernel still runs. -/
def State.relAck (s : State) (src : Endpoint) (ks q t status : Nat) : State :=
  match src with
  | .core id =>
    match s.slotOf id with
    | none => s
    | some k => if (s.slot k).kser = ks then s.completeEntry k (QSel.ofNum q) t status else s
  | _ => s

/-- The sender of a signal. -/
def srcId : Endpoint → Nat | .core id => id | _ => 0

/-- A TALLY signal arrives (10 R272). -/
def State.tallySignal (s : State) (i : Nat) : State :=
  match s.arrival i with
  | some ⟨_, src, .core id, .tallySig ks q t scope tally value⟩ =>
    let s := s.takePacket i
    match s.slotOf id with
    | some c =>
      if s.closed c then s.relAck src ks q t 0x0E
      else (s.tallySet c tally (s.rd (Reg.TALLY c tally) + BitVec.ofNat 64 value) (some ⟨scope, srcId src⟩)).relAck src ks q t 0
    | none => s.relAck src ks q t 0x0E
  | _ => s

/-- A WORD signal to a Tile Store or a pool arrives (10 R272). -/
def State.wordSignal (s : State) (i : Nat) : State :=
  match s.arrival i with
  | some ⟨_, src, .core id, .wordSig ks q t scope 0 a v⟩ =>
    let s := s.takePacket i
    match s.slotOf id with
    | some c =>
      if s.closed c then s.relAck src ks q t 0x0E
      else ((s.sckWordSig c a ⟨scope, srcId src⟩).tsWrite c a (natLE 8 v)).relAck src ks q t 0
    | none => s.relAck src ks q t 0x0E
  | some ⟨_, src, .sector n, .wordSig ks q t _ 1 a v⟩ =>
    let s := s.takePacket i
    if s.behind (.sector n) then s.relAck src ks q t 0x0E
    else (s.poolWrite n a (natLE 8 v)).relAck src ks q t 0
  | _ => s

/-- The router walks again for a REL or ACQ whose address failed translation, until the kernel ends or is aborted (10 R278). -/
def State.walkRetry (s : State) (k : Nat) (q : QSel) : State :=
  let waiting := (s.queue k q).inflight.findSome? (fun e => match e.phase with
    | .relSent w => if w = 0 then none else some (e.entry, w, none)
    | .held w d => if w = 0 then none else some (e.entry, w, some d)
    | _ => none)
  match waiting with
  | none => s
  | some (e, w, none) => s.relEm k q e w
  | some (e, w, some d) =>
    if s.walkerFull (s.slot k).fleet || (s.slot k).stopping then s
    else s.overEm fun s =>
      let r := s.retryTranslate k (acqAddr d) w ⟨false, false, false⟩
      r.2.setQueue k q ((r.2.queue k q).setPhase e.ticket (.held r.1.1 d))

/-! ## Landing and acknowledgement (08 R213, R221) -/

/-- The outstanding transfer of a number. -/
def State.findOut (s : State) (k xid : Nat) : Option Out := (s.slot k).outs.find? (fun o => o.id == xid)
def State.dropOut (s : State) (k xid : Nat) : State :=
  s.modSlot k (fun c => { c with outs := c.outs.filter (fun o => o.id != xid) })

/-- A transfer is no longer outstanding, with a status: 0 adds its length to its tally; else its stream ends (08 R221,
R224). -/
def State.endXfer (s : State) (k : Nat) (o : Out) (status : Nat) : State :=
  let s := s.dropOut k o.id
  if 32 ≤ o.stream then
    (if o.dropped then s else s.completeEntry k (QSel.ofNum o.stream) o.ser status)
  else if status ≠ 0 then s.endOwner k o status
  else
    let s := match o.tally with
      | some t => if o.kind = .put then s else s.tallyAdd k t o.len
      | none => s
    if (s.strm k o.stream).ser = o.ser then s.settleStrm k o.stream else s

/-- Data of a fetch or local copy lands in the Tile Store of slot `k` (08 R212, R221, R224). -/
def State.landData (s : State) (k xid status : Nat) (bs : List Byte) : State :=
  match s.findOut k xid with
  | none => s
  | some o =>
    if o.dropped then s.dropOut k xid
    else if status ≠ 0 then s.endXfer k o status
    else if 34 ≤ o.stream then
      let s := s.dropOut k xid
      let q := QSel.ofNum o.stream
      match (s.queue k q).heldEntry with
      | some (e, _, d) => if e.ticket = o.ser ∧ acqWordMet e.word d (leNat bs) then s.acqDone k q e d else s
      | none => s
    else (s.tsWrite k o.dst bs).endXfer k o 0

/-- A far end's acknowledgement of a put or write-out. -/
def State.ackXfer (s : State) (k xid status : Nat) : State :=
  match s.findOut k xid with
  | none => s
  | some o => s.endXfer k o status

/-- A put lands at a core (08 R197, R221, R224). -/
def State.landPut (s : State) (src : Endpoint) (id xid a : Nat) (bs : List Byte) (tally : Option Nat) : State :=
  match s.slotOf id with
  | none => s.send .reply (.core id) src (.xferAck xid 0x0E)
  | some c =>
    if s.closed c then s.send .reply (.core id) src (.xferAck xid 0x0E)
    else
      let s := s.tsWrite c a bs
      let s := match tally with | some t => s.tallyAdd c t bs.length | none => s
      s.send .reply (.core id) src (.xferAck xid 0)

end Sys2Proof.Machine
end

