-- ==== Sys2Proof/Machine/Messages.lean ====
section
/-!
DEFINITION. Machine/Messages.lean: receive rings, message commands, admission, refusal and wakes, reply reservations,
multicast, combining nodes (09 R233 to R261, 18 R469), and NMU intakes and staging (12 R316 to R319).
-/

namespace Sys2Proof.Machine

/-! ## Near-Memory Units: storage and intake -/

def State.nmu (s : State) (n : Nat) : Nmu := tget Nmu.reset s.nmus n
def State.setNmu (s : State) (n : Nat) (v : Nmu) : State := { s with nmus := tput s.nmus n v }
def State.modNmu (s : State) (n : Nat) (f : Nmu → Nmu) : State := s.setNmu n (f (s.nmu n))

/-- The size of the general area of staging (12 R316). -/
def generalArea : Nat := 0x100000
def State.stRead (s : State) (n a len : Nat) : List Byte := readBytes zeroByte (s.nmu n).staging a len
def State.stPut (s : State) (n a : Nat) (bs : List Byte) : State :=
  s.modNmu n (fun c => { c with staging := writeBytes zeroByte c.staging a bs })

/-- Bytes land in the general area; NMU_ARRIVE counts them (12 R318). Answers the status. -/
def State.stLand (s : State) (n a : Nat) (bs : List Byte) : Nat × State :=
  if generalArea < a + bs.length then (0x04, s)
  else (0, (s.stPut n a bs).wr (Reg.NMU_ARRIVE n) (s.rd (Reg.NMU_ARRIVE n) + BitVec.ofNat 64 bs.length))

/-! ## Rings -/

/-- Whose ring: a core's channel or one of the host complex's. -/
inductive Home where
  | core (k c : Nat)
  | host (c : Nat)
  deriving DecidableEq, Repr

/-- The channel's register block. -/
def Home.blk : Home → Nat
  | .core k c => Reg.CH_CFG k c
  | .host c => Reg.HCH_CFG c
def Home.lastReg : Home → Nat
  | .core k c => Reg.CH_LAST k c
  | .host c => Reg.HCH_LAST c
/-- The polder that a record of the channel names. -/
def State.homePolder (s : State) : Home → Nat
  | .core k _ => k
  | .host c => s.polderOf (.host (s.fld (Reg.HCH_CFG c) F.HCH_CFG_HART))

def State.homeWait (s : State) : Home → List (Nat × Nat)
  | .core k c => s.waiters k c
  | .host c => tget [] s.hostWait c
def State.setHomeWait (s : State) (h : Home) (ws : List (Nat × Nat)) : State :=
  match h with
  | .core k c => s.modSlot k (fun d => { d with chWait := tput d.chWait c ws })
  | .host c => { s with hostWait := tput s.hostWait c ws }

/-- CH_STAT and HCH_STAT (09 R261, 18 R469). -/
def State.chStat (s : State) (h : Home) : Word :=
  let w := putF (s.rd (ringStat h.blk)) F.CH_STAT_WAITERS (s.homeWait h).length
  match h with
  | .core k c => putF w F.CH_STAT_PEND (b01 (tfind (s.slot k).hpend c).isSome)
  | .host _ => w

/-- The ring's address. -/
def State.ringBase (s : State) (h : Home) : Nat :=
  match h with
  | .core k c => s.fld (Reg.CH_CFG k c) F.CH_CFG_BASE
  | .host c => s.fld (Reg.HCH_CFG c) F.HCH_CFG_BASE

/-- Bytes that land through the host complex's shared cache are in its lines too (18 R468). -/
def State.cacheLand (s : State) (a : Nat) (bs : List Byte) : State :=
  { s with hcache := s.hcache.map (fun (l : HLine) => { l with
      bytes := (List.range 64).map (fun i =>
        if a ≤ 64 * l.line + i then bs.getD (64 * l.line + i - a) (l.bytes.getD i 0) else l.bytes.getD i 0) }) }

/-- Write bytes of the ring at an address. -/
def State.ringBytes (s : State) (h : Home) (a : Nat) (bs : List Byte) : State :=
  match h with
  | .core k _ => s.tsWrite k a bs
  | .host c => ((s.emStoreBy (.host (s.fld (Reg.HCH_CFG c) F.HCH_CFG_HART)) (clsPrio 0) a bs).2).cacheLand a bs

/-- Write bytes from a ring position on, going round at its end (09 R234, R239). -/
def State.ringPut (s : State) (h : Home) (pos : Nat) (bs : List Byte) : State :=
  let size := s.ringSize h.blk
  let p := pos % size
  let base := s.ringBase h
  if p + bs.length ≤ size then s.ringBytes h (base + p) bs
  else (s.ringBytes h (base + p) (bs.take (size - p))).ringBytes h base (bs.drop (size - p))

/-! ## Ring entries (09 R236 to R239) -/

/-- The length of an entry with `pw` payload words (R237). -/
def entryLen (pw : Nat) : Nat := cdiv (16 + 8 * pw) 16 * 16

/-- Word 0 of an entry's header (R236). -/
def Msg.word0 (m : Msg) : Nat :=
  m.type * 2 ^ 60 + m.pay.length * 2 ^ 57 + b01 m.rq * 2 ^ 56 + (if m.rq then m.rch else 0) * 2 ^ 52 + m.kind * 2 ^ 50 +
  m.sid * 2 ^ 44 + m.fleet * 2 ^ 40 + m.status * 2 ^ 32 + m.tag * 2 ^ 16 + entryLen m.pay.length

/-- An entry's bytes, for the position it begins at. -/
def Msg.bytes (m : Msg) (wpos : Nat) : List Byte :=
  let b := natLE 8 m.word0 ++ natLE 8 (m.user * 2 ^ 32 + wpos) ++ (m.pay.flatMap (fun (w : Word) => natLE 8 w.toNat))
  b ++ List.replicate (entryLen m.pay.length - b.length) 0

/-- The contiguous tail of the ring (R238). -/
def State.ringTail (s : State) (h : Home) : Nat :=
  s.ringSize h.blk - s.fld (ringPtr h.blk) F.CH_PTR_WP % s.ringSize h.blk

/-- Does an entry go behind a SKIP entry? Never in DN-16 mode (R238, R239). -/
def State.skips (s : State) (h : Home) (pw : Nat) : Bool := !s.dn16 && decide (s.ringTail h < entryLen pw)

/-- The bytes an entry needs (R238, R239). -/
def State.needs (s : State) (h : Home) (pw : Nat) : Nat :=
  if s.skips h pw then s.ringTail h + entryLen pw else entryLen pw

/-- An entry sets the pending bit of a channel with DISP (R250), or its bit of HC_IP (18 R469). -/
def State.setPending (s : State) (h : Home) (addr : Nat) : State :=
  if !s.flag h.blk F.CH_CFG_DISP then s
  else
    match h with
    | .core k c =>
      if (tfind (s.slot k).hpend c).isSome then s else s.modSlot k (fun d => { d with hpend := tput d.hpend c addr })
    | .host c =>
      let ip := Reg.HC_IP (s.fld (Reg.HCH_CFG c) F.HCH_CFG_HART)
      (s.setFld (Reg.HCH_STAT c) F.HCH_STAT_PEND 1).wr ip (s.rd ip ||| BitVec.ofNat 64 (2 ^ c))

/-- Write an admitted message: a SKIP entry where it does not fit the tail, the entry, WP, LAST, the count, the pending
bit (R237 to R239, R250, R261). -/
def State.writeEntry (s : State) (h : Home) (m : Msg) : State :=
  let b := h.blk
  let wp := s.fld (ringPtr b) F.CH_PTR_WP
  let t := s.ringTail h
  let sk := s.skips h m.pay.length
  let s := if sk then s.ringPut h wp (natLE 8 (0xF * 2 ^ 60 + t) ++ natLE 8 wp) else s
  let pos := if sk then (wp + t) % 2 ^ 32 else wp
  let s := s.ringPut h pos (m.bytes pos)
  let s := s.setFld (ringPtr b) F.CH_PTR_WP ((pos + entryLen m.pay.length) % 2 ^ 32)
  let s := s.wr h.lastReg (BitVec.ofNat 64 m.word0)
  let s := match h with
    | .core k _ => s.perfAdd (Reg.MU_RX k) 1 (Reg.MU_STAT k) F.MU_STAT_RX_OVF F.MU_STAT_RX_AE
    | .host _ => s
  s.setPending h (s.ringBase h + pos % s.ringSize b)

/-! ## Channel configuration (09 R233, R235, R261; 18 R469) -/

/-- Pointers, reservations, waiting set and pending bit of a channel go back (R235). -/
def State.resetRing (s : State) (h : Home) : State :=
  let s := ((s.wr (ringPtr h.blk) 0).setFld (ringStat h.blk) F.CH_STAT_RSVN 0).setHomeWait h []
  match h with
  | .core k c => s.modSlot k (fun d => { d with hpend := serase c d.hpend })
  | .host c => s.setFld (Reg.HCH_STAT c) F.HCH_STAT_PEND 0

/-- Does the ring lie where it may: inside the Tile Store, or wholly within one region? -/
def State.ringPlaced (s : State) (h : Home) : Bool :=
  match h with
  | .core _ _ => decide (s.ringBase h + s.ringSize h.blk ≤ tsSize)
  | .host _ => (s.regionFor (s.ringBase h) (s.ringSize h.blk)).isSome

/-- A write of CH_CFG or HCH_CFG. Reserved encodings keep a field's value (00 R10). -/
def State.chCfgWrite (s : State) (h : Home) (v : Word) : State :=
  let b := h.blk
  let on := s.flag b F.CH_CFG_EN
  let s := s.setFld b F.CH_CFG_DISP (getF v F.CH_CFG_DISP)
  let s := if on then s
    else
      let s := (s.setFld b F.CH_CFG_KIND (getF v F.CH_CFG_KIND)).setFld b F.CH_CFG_FLEET (getF v F.CH_CFG_FLEET)
      let s := if getF v F.CH_CFG_SIZE ≤ 12 then s.setFld b F.CH_CFG_SIZE (getF v F.CH_CFG_SIZE) else s
      match h with
      | .core _ _ => if getF v F.CH_CFG_BASE % 256 = 0 then s.setFld b F.CH_CFG_BASE (getF v F.CH_CFG_BASE) else s
      | .host _ =>
        let s := if getF v F.HCH_CFG_BASE % 256 = 0 then s.setFld b F.HCH_CFG_BASE (getF v F.HCH_CFG_BASE) else s
        if getF v F.HCH_CFG_HART < s.opts.hostCores then s.setFld b F.HCH_CFG_HART (getF v F.HCH_CFG_HART) else s
  let s := if getF v F.CH_CFG_EN = 0 then s.setFld b F.CH_CFG_EN 0
    else if on then s
    else if s.ringPlaced h then (s.setFld b F.CH_CFG_EN 1).resetRing h
    else s.setFld (ringStat b) F.CH_STAT_CFG_ERR 1
  if getF v F.CH_CFG_RESET = 1 then s.resetRing h else s

/-! ## Senders (09 R242) -/

/-- A send buffer: a core's context, or the send block of a host core (18 R470). -/
inductive Sender where
  | core (k : Nat) (h : Bool)
  | host (a : Nat)
  deriving DecidableEq, Repr

def State.sendBuf (s : State) : Sender → List SendEntry
  | .core k h => if h then (s.slot k).sendH else (s.slot k).sendM
  | .host a => tget [] s.hostSend a
def State.setSendBuf (s : State) (d : Sender) (es : List SendEntry) : State :=
  match d with
  | .core k h => s.modSlot k (fun c => if h then { c with sendH := es } else { c with sendM := es })
  | .host a => { s with hostSend := tput s.hostSend a es }
def State.senderOf (s : State) : Sender → Endpoint
  | .core k _ => .core (s.idOf k)
  | .host a => .host a

/-- Bulk multicasts hold their send-buffer entry until their last packet is injected. -/
def Bulk.len (b : Bulk) : Nat := cf b.word 112 96
def State.sendOcc (s : State) (k : Nat) (h : Bool) : Nat :=
  (s.sendBuf (.core k h)).length + (if h then 0 else ((s.slot k).bulks.filter (fun b => decide (b.pos < b.len))).length)

/-- The sender that a message came from, where its buffer can hold it. -/
def State.senderAt (s : State) (e : Endpoint) : Option Sender :=
  match e with
  | .core id => (s.slotOf id).map (fun k => .core k false)
  | .host a => some (.host a)
  | _ => none

/-- The own channel that a request's reply is reserved on. -/
def Sender.replyHome (d : Sender) (rch : Nat) : Home :=
  match d with
  | .core k _ => .core k rch
  | .host _ => .host rch

/-- One reservation of a reply channel is given back (09 R243, R247, R248). -/
def State.unreserve (s : State) (h : Home) : State :=
  s.setFld (ringStat h.blk) F.CH_STAT_RSVN (s.fld (ringStat h.blk) F.CH_STAT_RSVN - 1)

/-- MU_STAT (09 R261). -/
def State.muStat (s : State) (k : Nat) : Word :=
  let w := putF (s.rd (Reg.MU_STAT k)) F.MU_STAT_M_OCC (s.sendOcc k false)
  let w := putF w F.MU_STAT_H_OCC (s.sendOcc k true)
  putF w F.MU_STAT_M_WAIT (b01 ((s.slot k).sendM.any (fun e => !e.refused.isEmpty)))

/-- Bits [127:64] of the oldest command in a send buffer. -/
def State.sendHead (s : State) (k : Nat) (h : Bool) : Word :=
  let es := (s.sendBuf (.core k h)).map (fun e => (e.id, e.word)) ++
    (if h then [] else ((s.slot k).bulks.filter (fun b => decide (b.pos < b.len))).map (fun b => (b.id, b.word)))
  match es with
  | [] => 0
  | e :: r => BitVec.ofNat 64 ((r.foldl (fun (a : Nat × Cmd) x => if x.1 < a.1 then x else a) e).2.toNat / 2 ^ 64)

/-- A message or bulk packet of a core was dropped: FAIL, its record, the message alert (09 R247, R255). -/
def State.msgFail (s : State) (k status op : Nat) : State :=
  let s := s.setFld (Reg.MU_STAT k) F.MU_STAT_FAIL 1
  let s := (s.setFld (Reg.MU_STAT k) F.MU_STAT_FAIL_STATUS status).setFld (Reg.MU_STAT k) F.MU_STAT_FAIL_OP op
  (s.report ⟨0x31, 1, k, 1, s.idOf k, (s.slot k).fleet, status, [s.muStat k, s.sendHead k false]⟩).alert 5

/-- The reply entry that a requester's own unit writes for a request that will have none (09 R247, R249). -/
def ownReply (kind sid fleet status tag user : Nat) : Msg := ⟨2, [], false, 0, kind, sid, 0, fleet, status, tag, user, 0, 0, false⟩

/-- A request is settled without a reply: the entry is written where RQ was set, else the drop is recorded. -/
def State.settleRequest (s : State) (d : Sender) (m : Msg) (status : Nat) : State :=
  if m.rq then
    let h := d.replyHome m.rch
    (s.writeEntry h (ownReply m.kind m.sid m.fleet status m.tag m.user)).unreserve h
  else
    match d with
    | .core k _ => s.msgFail k status m.op
    | .host a => s.setFld (Reg.HCS_GO a) F.HCS_GO_STATUS status

/-- A host send block is busy until its message is admitted or settled (18 R470). -/
def State.hostFree (s : State) (d : Sender) : State :=
  match d with
  | .host a => if (s.sendBuf d).isEmpty then s.setFld (Reg.HCS_GO a) F.HCS_GO_BUSY 0 else s
  | .core _ _ => s

/-! ## Message commands (09 R240 to R242, R248) -/

def dkind (w : Cmd) : Nat := cf w 119 118
def did (w : Cmd) : Nat := cf w 117 112
def dch (w : Cmd) : Nat := cf w 111 108
def mcBulk (w : Cmd) : Bool := cb w 119
def mcGroup (w : Cmd) : Nat := cf w 118 113
def bulkOff (w : Cmd) : Nat := cf w 95 72
/-- Payload words: at other bits for MSG.COMB. -/
def msgPw (w : Cmd) : Nat := if opcode w = 0xA3 then cf w 114 112 else cf w 102 100
def isBulk (w : Cmd) : Bool := opcode w == 0xA2 && mcBulk w
def padd (w : Cmd) : Nat := cf w 63 32

/-- Member cores and NMUs of a group (09 R253, R261). -/
def State.groupCores (s : State) (g : Nat) : List Nat := (List.range 64).filter (fun i => bit (s.rd (Reg.MG_CORES g)).toNat i)
def State.groupNmus (s : State) (g : Nat) : List Nat :=
  (List.range s.opts.memPorts).filter (fun i => bit (s.fld (Reg.MG_CFG g) F.MG_CFG_NMUS) i)

/-- The destinations of a message command. -/
def State.msgDests (s : State) (w : Cmd) : List Endpoint :=
  match opcode w with
  | 0xA2 => (s.groupCores (mcGroup w)).map Endpoint.core ++ (if mcBulk w then (s.groupNmus (mcGroup w)).map Endpoint.nmu else [])
  | 0xA3 => [.cn (cf w 119 115)]
  | _ =>
    match dkind w with
    | 0 => [.core (did w)]
    | 1 => [.host (s.fld (Reg.HCH_CFG (did w)) F.HCH_CFG_HART)]
    | _ => [.nmu (did w)]

/-- Is a core a destination that the fleet may not name: UNBOUND, or of another fleet? -/
def State.notOf (s : State) (fleet id : Nat) : Bool := (s.slotOf id).isNone || s.fleetOf id != some fleet

/-- The checks of a message command in their order (09 R240). `pick` tells which apply to the sender: a host core's payload
is not in a Tile Store, and it has no fleet of its own. -/
def State.msgCheck (s : State) (d : Sender) (w : Cmd) : Option Nat :=
  let op := opcode w
  let host := match d with | .host _ => true | .core _ _ => false
  let fleet := match d with | .core k _ => (s.slot k).fleet | .host _ => 0
  let sendRep := op == 0xA0 || op == 0xA1
  let g := mcGroup w
  let cnr := cf w 119 115
  let rb := (d.replyHome (cf w 106 103)).blk
  firstFail
    [ (decide (0xA4 ≤ op) || (sendRep && dkind w == 3) || (!isBulk w && decide (4 < msgPw w)) || (op == 0xA3 && msgPw w == 0), 0x80),
      ((!isBulk w && !host && padd w % 32 != 0) ||
        (isBulk w && (cf w 63 32 % 16 != 0 || bulkOff w % 16 != 0 || cf w 112 96 % 16 != 0 || decide (cf w 112 96 < 16) ||
          decide (65536 < cf w 112 96))) ||
        (op == 0xA3 && cf w 103 86 % 8 != 0) ||
        (sendRep && ((dkind w == 1 && decide (32 ≤ did w)) || (dkind w == 2 && decide (s.opts.memPorts ≤ did w)))) ||
        (op == 0xA0 && dkind w != 0 && dch w != 0) ||
        (op == 0xA0 && cb w 107 && (!s.flag rb F.CH_CFG_EN || !s.flag rb F.CH_CFG_KIND)) ||
        (op == 0xA1 && dkind w == 2), 0x82),
      ((!isBulk w && !host && msgPw w != 0 && decide (tsSize < padd w + 8 * msgPw w)) || (isBulk w && decide (tsSize < cf w 63 32 + cf w 112 96)) ||
        (sendRep && dkind w == 0 && (if host then (s.slotOf (did w)).isNone else s.notOf fleet (did w))) ||
        (op == 0xA2 && (!s.flag (Reg.MG_CFG g) F.MG_CFG_VALID || s.fld (Reg.MG_CFG g) F.MG_CFG_FLEET != fleet)) ||
        (op == 0xA3 && (!s.flag (Reg.CN_CFG cnr) F.CN_CFG_VALID || s.fld (Reg.CN_CFG cnr) F.CN_CFG_FLEET != fleet)), 0x04),
      ((s.msgDests w).any s.behind, 0x0E) ]

/-- What issuing a message command comes to: it stalls, or retires with a status. -/
inductive MsgRes where
  | stall
  | done (status : Nat) (s : State)

/-- The channel that copies of a message go to. -/
def State.msgChan (s : State) (w : Cmd) : Nat :=
  match opcode w with
  | 0xA2 => s.fld (Reg.MG_CFG (mcGroup w)) F.MG_CFG_CH
  | _ => match dkind w with | 0 => dch w | 1 => did w | _ => 0

/-- The message that a command makes. -/
def State.msgOf (s : State) (d : Sender) (w : Cmd) (pay : List Word) (entry : Nat) : Msg where
  type := match opcode w with | 0xA0 => 1 | 0xA1 => 2 | _ => 3
  pay := pay
  rq := opcode w == 0xA0 && cb w 107
  rch := cf w 106 103
  kind := match d with | .core _ _ => 0 | .host _ => 1
  sid := match d with | .core k _ => s.idOf k | .host a => a
  cx := match d with | .core _ h => b01 h | .host _ => 0
  fleet := match d with | .core k _ => (s.slot k).fleet | .host _ => 0
  status := if opcode w = 0xA1 then cf w 79 72 else 0
  tag := cf w 95 80
  user := cf w 31 0
  entry := entry
  op := opcode w
  retry := false

/-- Can the reservation that a request with RQ needs be made (09 R248)? -/
def State.canReserve (s : State) (h : Home) : Bool :=
  decide (80 * (s.fld (ringStat h.blk) F.CH_STAT_RSVN + 1) ≤ s.ringFree h.blk)

/-- Send one message that passed its checks. -/
def State.msgSend (s : State) (d : Sender) (w : Cmd) (pay : List Word) : State :=
  let me := s.senderOf d
  let ch := s.msgChan w
  let dests := s.msgDests w
  match opcode w with
  | 0xA3 =>
    dests.foldl (fun (t : State) e =>
      t.send .data me e (.contrib (cf w 111 104) (cf w 103 86) (pay.flatMap (fun (x : Word) => natLE 8 x.toNat)))) s
  | 0xA1 =>
    let m := s.msgOf d w pay 0
    dests.foldl (fun (t : State) e => t.send .reply me e (.msg ch m)) s
  | _ =>
    let id := s.nextEntry
    let m := s.msgOf d w pay id
    let s := { s with nextEntry := id + 1 }
    let s := if dests.isEmpty then s
      else s.setSendBuf d (s.sendBuf d ++ [(⟨id, w, m, dests.map (fun e => (e, ch)), [], []⟩ : SendEntry)])
    let s := if m.rq then
        let h := d.replyHome m.rch
        s.setFld (ringStat h.blk) F.CH_STAT_RSVN (s.fld (ringStat h.blk) F.CH_STAT_RSVN + 1)
      else s
    dests.foldl (fun (t : State) e => t.send .request me e (.msg ch m)) s

/-- Does a new multicast wait for a change of its group that is being applied (16 R424)? -/
def State.groupChanging (s : State) (w : Cmd) : Bool :=
  opcode w == 0xA2 && s.fld Reg.ZN_STAT F.ZN_STAT_STATE == 4 &&
  (match s.zen.plan with | p :: _ => p.what.contains (.group (mcGroup w)) | [] => false)

/-- NCX.ISSUE of a message command from a context of slot `k`. At a sluice a core injects nothing new but replies (16 R422); at a relief's
stop nothing at all (17 R444). -/
def State.msgIssue (s : State) (k : Nat) (h : Bool) (w : Cmd) : MsgRes :=
  let d := Sender.core k h
  match s.msgCheck d w with
  | some st => .done st s
  | none =>
    if 4 ≤ s.sendOcc k h || s.paused k || (opcode w != 0xA1 && s.stalled k) || s.groupChanging w then .stall
    else if opcode w == 0xA0 && cb w 107 && !s.canReserve (d.replyHome (cf w 106 103)) then .stall
    else if isBulk w then
      .done 0 ({ s with nextEntry := s.nextEntry + 1 }.modSlot k (fun c => { c with
        bulks := c.bulks ++ [(⟨s.nextEntry, b01 h, w, 0, [], false⟩ : Bulk)] }))
    else
      let pay := (List.range (msgPw w)).map (fun i => BitVec.ofNat 64 (s.tsLE k (padd w + 8 * i) 8))
      .done 0 (s.msgSend d w pay)

/-! ## Arrival (09 R245 to R249; 12 R319) -/

/-- Why a message is refused for good: its status (09 R247, 17 R448). -/
def State.finalRefusal (s : State) (h : Home) (m : Msg) (reply : Bool) : Option Nat :=
  let b := h.blk
  if !s.flag b F.CH_CFG_EN || s.flag b F.CH_CFG_KIND != reply then some 0x09
  else if m.kind ≠ 1 ∧ s.fld b F.CH_CFG_FLEET ≠ m.fleet then some 0x04
  else none

/-- An admitted request with RQ is a lease of its responder (09 R249, 17 R449). -/
def State.addRing (s : State) (dst : Endpoint) (m : Msg) : State :=
  if m.rq then { s with leases := s.leases ++ [(⟨s.polderOf dst, 1, m.kind * 64 + m.sid, m.rch, m.tag + 2 ^ 16 * m.fleet, m.user⟩ : Lease)] }
  else s

/-- The endpoint's home for a channel, where it has one. -/
def State.homeAt (s : State) (dst : Endpoint) (ch : Nat) : Option Home :=
  match dst with
  | .core id => (s.slotOf id).map (fun k => .core k ch)
  | .host _ => some (.host ch)
  | _ => none

/-- Add a sender to a waiting set. -/
def addWait (ws : List (Nat × Nat)) (w : Nat × Nat) : List (Nat × Nat) := if ws.contains w then ws else ws ++ [w]

/-- A request or short multicast arrives at a ring. -/
def State.ringArrival (s : State) (h : Home) (src dst : Endpoint) (ch : Nat) (m : Msg) : State :=
  match s.finalRefusal h m false with
  | some st => s.send .reply dst src (.refusal ch m.entry st m)
  | none =>
    let ws := s.homeWait h
    let me := (m.kind, m.sid)
    if s.needs h m.pay.length ≤ s.ringFree h.blk ∧ (!ws.contains me || m.retry) then
      ((s.setHomeWait h (ws.filter (· != me))).writeEntry h m).addRing dst m |>.send .reply dst src (.admission ch m.entry)
    else
      ((s.setHomeWait h (addWait ws me)).errCount (ringStat h.blk) F.CH_STAT_REFUSALS (ringStat h.blk) F.CH_STAT_REF_SAT 0
        (s.homePolder h)).send .reply dst src (.refusal ch m.entry 0 m)

/-- An NMU's intake admits or refuses a command (12 R319). -/
def State.intakeArrival (s : State) (n : Nat) (src dst : Endpoint) (m : Msg) : State :=
  let c := s.nmu n
  let me := (m.kind, m.sid)
  if c.intake.length < 32 ∧ (!c.wait.contains me || m.retry) then
    ((s.setNmu n { c with intake := c.intake ++ [m], wait := c.wait.filter (· != me) }).addRing dst m).send .reply dst src
      (.admission 0 m.entry)
  else
    ((s.setNmu n { c with wait := addWait c.wait me }).errCount (Reg.NMU_ERR n) F.NMU_ERR_REFUSALS (Reg.NMU_STAT n)
      F.NMU_STAT_SAT 3 (84 + n / 2)).send .reply dst src (.refusal 0 m.entry 0 m)

/-- A free intake entry wakes the waiting senders, as a read pointer does (09 R246). -/
def State.intakeFreed (s : State) (n : Nat) : State :=
  (s.nmu n).wait.foldl (fun (t : State) (w : Nat × Nat) => t.send .reply (.nmu n) (senderEnd w.1 w.2) (.wake 0)) s

/-- Does a closed dike meet a message: host-complex channels refuse by their EN instead (18 R473). -/
def State.msgBehind (s : State) (dst : Endpoint) : Bool :=
  match dst with | .host _ => false | _ => s.behind dst

/-- An event at an endpoint; the host complex's rings lie in External Memory. -/
def State.overHome (s : State) (dst : Endpoint) (f : State → State) : State :=
  match dst with | .host _ => s.overEm f | _ => f s

/-- A request-plane message arrives. -/
def State.requestArrival (s : State) (i : Nat) : State :=
  match s.arrival i with
  | some ⟨.request, src, dst, .msg ch m⟩ => s.overHome dst fun s =>
    let s := s.takePacket i
    if s.msgBehind dst then s.send .reply dst src (.refusal ch m.entry 0x0E m)
    else
      match dst with
      | .nmu n => s.intakeArrival n src dst m
      | _ =>
        match s.homeAt dst ch with
        | some h => s.ringArrival h src dst ch m
        | none => s.send .reply dst src (.refusal ch m.entry 0x0E m)
  | _ => s

/-- The lease that a reply answers: of its responder, for its channel; the one of its tag where there is one. -/
def State.dropRing (s : State) (src : Endpoint) (a b tag : Nat) : State :=
  let mine := fun (l : Lease) => l.kind == 1 && l.polder == s.polderOf src && l.a == a && l.b == b
  match s.leases.findIdx? (fun l => mine l && l.c % 2 ^ 16 == tag) with
  | some i => { s with leases := s.leases.eraseIdx i }
  | none =>
    match s.leases.findIdx? mine with
    | some i => { s with leases := s.leases.eraseIdx i }
    | none => s

/-- A reply-plane message arrives (09 R247, R248). -/
def State.replyArrival (s : State) (i : Nat) : State :=
  match s.arrival i with
  | some ⟨.reply, src, dst, .msg ch m⟩ => s.overHome dst fun s =>
    let s := s.takePacket i
    if s.msgBehind dst then s
    else
      match s.homeAt dst ch with
      | none => s
      | some h =>
        match s.finalRefusal h m true with
        | some st => s.send .reply dst src (.refusal ch m.entry st m)
        | none =>
          let a := match dst with | .core id => id | .host _ => 64 + ch | _ => 0
          let ls := match dst with
            | .host _ => (List.range 8).foldl (fun (t : State) x => if t.leases.length < s.leases.length then t
                else t.dropRing src (64 + x) ch m.tag) s
            | _ => s.dropRing src a ch m.tag
          if s.fld (ringStat h.blk) F.CH_STAT_RSVN = 0 then
            let s := s.setFld (ringStat h.blk) F.CH_STAT_ORPHAN 1
            let d := [s.chStat h, s.rd h.lastReg]
            let u := match h with | .core k _ => (1, s.idOf k) | .host c => (9, s.fld (Reg.HCH_CFG c) F.HCH_CFG_HART)
            (s.report ⟨0x32, 1, s.homePolder h, u.1, u.2, 0xFF, 0, d⟩).alert 5
          else (ls.writeEntry h m).unreserve h
  | _ => s

/-! ## Acknowledgement, refusal and wake at the sender (09 R242, R246, R247, R254) -/

/-- The entry of a number in a sender's buffer. -/
def State.findEntry (s : State) (d : Sender) (id : Nat) : Option SendEntry := (s.sendBuf d).find? (fun e => e.id == id)

/-- Replace an entry; one with nothing awaited and nothing held leaves. -/
def State.putEntry (s : State) (d : Sender) (e : SendEntry) : State :=
  let s := if e.waiting.isEmpty && e.refused.isEmpty then s.setSendBuf d ((s.sendBuf d).filter (fun x => x.id != e.id))
    else s.setSendBuf d ((s.sendBuf d).map (fun (x : SendEntry) => if x.id = e.id then e else x))
  s.hostFree d

/-- A destination's copy is no longer awaited. -/
def SendEntry.without (e : SendEntry) (x : Endpoint × Nat) : SendEntry := { e with waiting := e.waiting.erase x }

/-- The copies held for a destination and channel go again, oldest first, the first with the retry mark. -/
def State.reinjectHeld (s : State) (d : Sender) (x : Endpoint × Nat) : State :=
  let held := (s.sendBuf d).filter (fun e => e.refused.contains x)
  let s := s.setSendBuf d ((s.sendBuf d).map (fun (y : SendEntry) => if y.refused.contains x then { y with
    waiting := y.waiting ++ [x]
    refused := y.refused.erase x
    woken := y.woken.erase x } else y))
  (held.foldl (fun (acc : State × Bool) e =>
    (acc.1.send .request (s.senderOf d) x.1 (.msg x.2 { e.msg with retry := acc.2 }), false)) (s, true)).1

/-- Must a wake wait: its sender still awaits an answer from the channel, or its polder injects nothing new (R242, 16 R422)? -/
def State.wakeWaits (s : State) (d : Sender) (x : Endpoint × Nat) : Bool :=
  (s.sendBuf d).any (fun e => e.waiting.contains x) || s.stalled (s.polderOf (s.senderOf d))

/-- A wake that came while it had to wait takes effect once nothing keeps it: every message refused meanwhile is held by then, and the
order of issue is kept (R242). -/
def State.wakeHeld (s : State) (d : Sender) (x : Endpoint × Nat) : State :=
  if !s.wakeWaits d x && (s.sendBuf d).any (fun e => e.woken.contains x) then s.reinjectHeld d x else s

/-- Every wake that came while a sender injected nothing new. -/
def State.wakeAll (s : State) (d : Sender) : State :=
  ((s.sendBuf d).flatMap (fun e => e.woken)).dedup.foldl (fun (t : State) x => t.wakeHeld d x) s

/-- An admission acknowledgement arrives. -/
def State.admissionAck (s : State) (i : Nat) : State :=
  match s.arrival i with
  | some ⟨_, src, dst, .admission ch id⟩ =>
    let s := s.takePacket i
    match s.senderAt dst with
    | none => s
    | some d =>
      match s.findEntry d id with
      | none => s
      | some e => (s.putEntry d (e.without (src, ch))).wakeHeld d (src, ch)
  | _ => s

/-- A refusal arrives: for a wake it is held; for good, it is settled. A refusal of a reply, which holds no entry, is
recorded at its sender. -/
def State.refusal (s : State) (i : Nat) : State :=
  match s.arrival i with
  | some ⟨_, src, dst, .refusal ch id final m⟩ => s.overHome dst fun s =>
    let s := s.takePacket i
    match s.senderAt dst with
    | none => s
    | some d =>
      if m.type = 2 then s.settleRequest d m final
      else
        match s.findEntry d id with
        | none => s
        | some e =>
          (if final = 0 then s.putEntry d { e.without (src, ch) with refused := e.refused ++ [(src, ch)] }
          else (s.settleRequest d m final).putEntry d (e.without (src, ch))).wakeHeld d (src, ch)
  | _ => s

/-- A wake arrives: held messages for that channel go again, at once or once nothing keeps it. -/
def State.channelWake (s : State) (i : Nat) : State :=
  match s.arrival i with
  | some ⟨_, src, dst, .wake ch⟩ =>
    let s := s.takePacket i
    match s.senderAt dst with
    | none => s
    | some d =>
      let x := (src, ch)
      if s.wakeWaits d x then
        s.setSendBuf d ((s.sendBuf d).map (fun (y : SendEntry) =>
          if y.refused.contains x then { y with woken := x :: y.woken.erase x } else y))
      else s.reinjectHeld d x
  | _ => s

/-! ## Bulk multicast (09 R255) -/

/-- The landing address of a group at a member. -/
def State.mgBase (s : State) (g : Nat) : Endpoint → Nat
  | .nmu _ => s.fld (Reg.MG_LAND g) F.MG_LAND_NMU_OFF
  | _ => s.fld (Reg.MG_LAND g) F.MG_LAND_TS_BASE
/-- The tally a bulk packet of a group adds to at member cores. -/
def State.mgTally (s : State) (g : Nat) : Option Nat :=
  if s.flag (Reg.MG_LAND g) F.MG_LAND_TALLY_EN then some (s.fld (Reg.MG_LAND g) F.MG_LAND_TALLY) else none
def State.groupAll (s : State) (g : Nat) : List Endpoint := (s.groupCores g).map Endpoint.core ++ (s.groupNmus g).map Endpoint.nmu

/-- A bulk multicast whose last packet is acknowledged ends. -/
def State.bulkSettle (s : State) (k : Nat) (b : Bulk) : State :=
  if b.pos < b.len || !b.out.isEmpty then
    s.modSlot k (fun c => { c with bulks := c.bulks.map (fun (x : Bulk) => if x.id = b.id then b else x) })
  else
    let s := s.modSlot k (fun c => { c with bulks := c.bulks.filter (fun x => x.id != b.id) })
    if !b.failed && cb b.word 67 then s.tallyAdd k (cf b.word 71 68) b.len else s

/-- The MU injects the next bulk packet. -/
def State.bulkPacket (s : State) (k : Nat) : State :=
  match (s.slot k).bulks.find? (fun b => decide (b.pos < b.len)) with
  | none => s
  | some b =>
    if 512 ≤ s.sharedUsed k + s.rsvSum k ∨ s.stalled k then s
    else
      let g := mcGroup b.word
      let n := min 256 (b.len - b.pos)
      let bs := s.tsRead k (cf b.word 63 32 + b.pos) n
      let me := s.idOf k
      let ms := s.groupAll g
      let xid := (s.slot k).nextXfer
      let s := s.modSlot k (fun c => { c with nextXfer := xid + 1 })
      let s := ms.foldl (fun (t : State) e =>
        t.send .data (.core me) e (.bulk xid (t.mgBase g e + bulkOff b.word + b.pos) bs (t.mgTally g))) s
      s.bulkSettle k { b with pos := b.pos + n, out := if ms.isEmpty then b.out else b.out ++ [(xid, ms)] }

/-- Bytes of a multicast or a combined result land at a member (09 R255, R258): a status. -/
def State.landMember (s : State) (dst : Endpoint) (a : Nat) (bs : List Byte) (tally : Option Nat) : Nat × State :=
  if s.behind dst then (0x0E, s)
  else
    match dst with
    | .core id =>
      (match s.slotOf id with
        | none => (0x0E, s)
        | some k =>
          if tsBeyond a bs.length then (0x04, s)
          else
            let s := s.tsWrite k a bs
            (0, match tally with | some t => s.tallyAdd k t bs.length | none => s))
    | .nmu n => s.stLand n a bs
    | _ => (0x04, s)

/-- A member's acknowledgement of a bulk packet arrives. -/
def State.memberAck (s : State) (i : Nat) : State :=
  match s.arrival i with
  | some ⟨_, src, .core id, .bulkAck xid st⟩ =>
    let s := s.takePacket i
    match s.slotOf id with
    | none => s
    | some k =>
      match (s.slot k).bulks.find? (fun b => b.out.any (fun o => o.1 == xid)) with
      | none => s
      | some b =>
        let s := if st = 0 then s else s.msgFail k st 0xA2
        let out := (b.out.map (fun (o : Nat × List Endpoint) => if o.1 = xid then (o.1, o.2.erase src) else o)).filter
          (fun o => !o.2.isEmpty)
        s.bulkSettle k { b with out := out, failed := b.failed || st != 0 }
  | _ => s

/-! ## Combining nodes (09 R256 to R259) -/

def State.cnState (s : State) (c : Nat) : Nat := s.fld (Reg.CN_STAT c) F.CN_STAT_STATE
def State.cnGen (s : State) (c : Nat) : Nat := s.fld (Reg.CN_STAT c) F.CN_STAT_GEN
/-- CN_STAT as it reads (R261). -/
def State.cnStat (s : State) (c : Nat) : Word := putF (s.rd (Reg.CN_STAT c)) F.CN_STAT_INQ (s.cn c).queue.length

/-- ARM (R256): an IDLE session with its numbers in range opens with a zero buffer and count. -/
def State.cnArm (s : State) (c : Nat) : State :=
  let len := s.fld (Reg.CN_SESS c) F.CN_SESS_LEN
  if s.cnState c ≠ 0 ∨ s.fld (Reg.CN_SESS c) F.CN_SESS_NCONTRIB = 0 ∨ len % 16 ≠ 0 ∨ len < 16 ∨ 262144 < len then s
  else
    ((s.setCn c { s.cn c with buf := [], contributors := [] }).wr (Reg.CN_COUNT c) 0).setFld (Reg.CN_STAT c) F.CN_STAT_STATE 1

/-- A session is cancelled with a status (R259). -/
def State.cnCancel (s : State) (c status : Nat) : State :=
  if s.cnState c = 0 then s
  else
    let s := { s with net := s.net.filter (fun p => match p.body with | .result _ _ _ _ => decide (p.src ≠ Endpoint.cn c) | _ => true) }
    let s := s.setCn c { s.cn c with buf := [], outstanding := 0, contributors := [] }
    let s := (s.setFld (Reg.CN_STAT c) F.CN_STAT_STATUS status).setFld (Reg.CN_STAT c) F.CN_STAT_GEN ((s.cnGen c + 1) % 256)
    (s.wr (Reg.CN_COUNT c) 0).setFld (Reg.CN_STAT c) F.CN_STAT_STATE 0

/-- Add a vector of `w`-byte integers into a buffer (R257, 02 R55). -/
def addVec (w : Nat) (buf : Sparse Byte) (off : Nat) (bs : List Byte) : Sparse Byte :=
  (List.range (bs.length / w)).foldl (fun m i =>
    let a := off + w * i
    writeBytes zeroByte m a (natLE w (readLE zeroByte m a w + leNat ((bs.drop (w * i)).take w)))) buf

/-- Where a session's result goes: endpoints, the first address at each, and the tally (R256, R258). -/
def State.cnDests (s : State) (c : Nat) : List (Endpoint × Nat × Option Nat) :=
  let r := Reg.CN_DEST c
  let a := s.fld r F.CN_DEST_ADDR
  let d := s.fld r F.CN_DEST_DID
  match s.fld r F.CN_DEST_DKIND with
  | 0 => [(.core d, a, if s.flag r F.CN_DEST_TALLY_EN then some (s.fld r F.CN_DEST_TALLY) else none)]
  | 1 => (s.groupAll d).map (fun e => (e, s.mgBase d e + a, s.mgTally d))
  | _ => [(.nmu d, a, none)]

/-- Every acknowledgement is in: GEN advances, and the session opens again or rests (R258). -/
def State.cnFinish (s : State) (c : Nat) : State :=
  let s := s.setFld (Reg.CN_STAT c) F.CN_STAT_GEN ((s.cnGen c + 1) % 256)
  let s := (s.wr (Reg.CN_COUNT c) 0).setCn c { s.cn c with contributors := [] }
  s.setFld (Reg.CN_STAT c) F.CN_STAT_STATE (if s.flag (Reg.CN_SESS c) F.CN_SESS_AUTO then 1 else 0)

/-- COUNT is complete: the result leaves in packets of 256 B, and the buffer is zero again (R258). -/
def State.cnDeliver (s : State) (c : Nat) : State :=
  let len := s.fld (Reg.CN_SESS c) F.CN_SESS_LEN
  let ds := s.cnDests c
  let buf := (s.cn c).buf
  let gen := s.cnGen c
  let offs := (List.range (cdiv len 256)).map (256 * ·)
  let s := (s.setFld (Reg.CN_STAT c) F.CN_STAT_STATE 2).setCn c
    { s.cn c with buf := [], outstanding := ds.length * offs.length }
  if ds.isEmpty then s.cnFinish c
  else
    offs.foldl (fun (t : State) o =>
      let bs := readBytes zeroByte buf o (min 256 (len - o))
      ds.foldl (fun (u : State) d => u.send .data (.cn c) d.1 (.result gen (d.2.1 + o) bs d.2.2)) t) s

/-- Kind and number of a contributor. -/
def contribId : Endpoint → Nat × Nat
  | .core id => (0, id)
  | .nmu n => (2, n)
  | _ => (3, 0)

/-- The node takes the packet at the head of its queue, unless it is delivering (R257). -/
def State.cnTake (s : State) (c : Nat) : State :=
  let n := s.cn c
  match n.queue with
  | [] => s
  | (kind, sid, gen, off, bs) :: q =>
    if s.cnState c = 2 then s
    else
      let s := s.setCn c { n with queue := q }
      let len := s.fld (Reg.CN_SESS c) F.CN_SESS_LEN
      if s.cnState c = 1 ∧ gen = s.cnGen c ∧ off + bs.length ≤ len then
        let w := if s.flag (Reg.CN_SESS c) F.CN_SESS_ETYPE then 8 else 4
        let p := s.polderOf (senderEnd kind sid)
        let ps := if n.contributors.contains p then n.contributors else n.contributors ++ [p]
        let s := s.setCn c { n with queue := q, buf := addVec w n.buf off bs, contributors := ps }
        let cnt := s.fld (Reg.CN_COUNT c) F.CN_COUNT_BYTES + bs.length
        let s := s.setFld (Reg.CN_COUNT c) F.CN_COUNT_BYTES cnt
        if cnt = s.fld (Reg.CN_SESS c) F.CN_SESS_NCONTRIB * len then s.cnDeliver c else s
      else
        s.errCount (Reg.CN_STAT c) F.CN_STAT_DISCARDS (Reg.CN_STAT c) F.CN_STAT_DISC_SAT 0 (80 + c / 16)

/-- A step of node `c`: packet `i` joins its queue of 32 if it is a contribution that has arrived; then the node takes the
head of its queue (R257). -/
def State.contribution (s : State) (c i : Nat) : State :=
  let s := match s.arrival i with
    | some ⟨_, src, .cn d, .contrib gen off bs⟩ =>
      if d = c ∧ (s.cn c).queue.length < 32 then
        let x := contribId src
        let s := s.takePacket i
        if s.behind (.cn c) then s else s.setCn c { s.cn c with queue := (s.cn c).queue ++ [(x.1, x.2, gen, off, bs)] }
      else s
    | _ => s
  if s.stalled (80 + c / 16) then s else s.cnTake c

/-- A result packet's acknowledgement arrives (R258). -/
def State.resultAck (s : State) (i : Nat) : State :=
  match s.arrival i with
  | some ⟨_, _, .cn c, .resultAck gen⟩ =>
    let s := s.takePacket i
    if s.cnState c = 2 ∧ gen = s.cnGen c then
      let n := s.cn c
      let s := s.setCn c { n with outstanding := n.outstanding - 1 }
      if n.outstanding ≤ 1 then s.cnFinish c else s
    else s
  | _ => s

/-! ## Landing (08 R221; 09 R255, R258; 12 R324; 18 R462) -/

/-- Packet `i` lands: data of a fetch or copy, a put, a multicast or result packet, or bytes an NMU or the host sends. -/
def State.landing (s : State) (i : Nat) : State :=
  match s.arrival i with
  | some ⟨_, src, .core id, .put xid a bs tally⟩ => (s.takePacket i).landPut src id xid a bs tally
  | some ⟨_, _, .core id, .xferData xid st bs⟩ =>
    let s := s.takePacket i
    (match s.slotOf id with
      | some k => if s.closed k then s else s.landData k xid st bs
      | none => s)
  | some ⟨_, src, dst, .bulk xid a bs tally⟩ =>
    let r := (s.takePacket i).landMember dst a bs tally
    r.2.send .reply dst src (.bulkAck xid r.1)
  | some ⟨_, src, dst, .result gen a bs tally⟩ =>
    let r := (s.takePacket i).landMember dst a bs tally
    r.2.send .reply dst src (.resultAck gen)
  | some ⟨_, src, dst, .deliver tag a bs tally⟩ =>
    let r := (s.takePacket i).landMember dst a bs tally
    r.2.send .reply dst src (.deliverAck tag r.1 bs.length)
  | _ => s

end Sys2Proof.Machine
end

