-- ==== Sys2Proof/Machine/Ports.lean ====
section
/-!
DEFINITION. Machine/Ports.lean: the memory ports: frames of the Uzodal link, the controller's reads and writes, error
correction, stack loss, training and lane sparing, scrubbing, translation registers (11 R286 to R315).
-/

namespace Sys2Proof.Machine

/-! ## Frames (11 R288 to R292) -/

def fSlot (f : List Byte) (i : Nat) : List Byte := (f.drop (256 * i)).take 256
def fDesc (f : List Byte) (i : Nat) : Nat := leNat ((f.drop (3840 + 8 * i)).take 8)
def fCtrl (f : List Byte) : Nat := leNat ((f.drop 3960).take 4)
def fCrcOk (f : List Byte) : Bool := f.length == frameBytes && crc32c (f.take 3964) == leNat ((f.drop 3964).take 4)
def descType (d : Nat) : Nat := bits d 60 4
def descTag (d : Nat) : Nat := bits d 48 12
def ctrlSeq (c : Nat) : Nat := bits c 22 10
def ctrlAck (c : Nat) : Nat := bits c 12 10
def ctrlNak (c : Nat) : Bool := bit c 11

/-- A frame of slots with their descriptors. -/
def mkFrame (slots : List (List Byte × Nat)) (ctrl : Nat) : List Byte :=
  let n := 15 - slots.length
  let body := slots.flatMap (fun p => p.1) ++ List.replicate (256 * n) 0 ++
    slots.flatMap (fun p => natLE 8 p.2) ++ List.replicate (8 * n) 0 ++ natLE 4 ctrl
  body ++ natLE 4 (crc32c body)

/-- Frames covered by an acknowledgement leave: those up to it in the order they were sent. -/
def dropAcked (kept : List (Nat × List Byte)) (ack : Nat) : List (Nat × List Byte) :=
  match kept.findIdx? (fun p => p.1 == ack) with
  | some i => kept.drop (i + 1)
  | none => kept

/-! ## Delivery of reads (11 R304, R306) -/

/-- Count an event of MP_ERR. -/
def State.mpErr (s : State) (p : Nat) (f : Fld) (sat : Nat) : State :=
  s.errCount (Reg.MP_ERR p) f (Reg.MP_STAT p) F.MP_STAT_SAT sat (84 + p / 2)

/-- A block read for someone, or its status. -/
def State.deliverRead (s : State) (p blk : Nat) (who : ReadFor) (st : Nat) (bs : List Byte) : State :=
  match who with
  | .scrub => s
  | .unit =>
    let s := { s with got := s.got.filter (fun (g : Got) => !(g.stack == p && g.blk == blk)) ++ [(⟨p, blk, st, bs, false⟩ : Got)] }
    s.drainFaults s.xfHeld.length
  | .pre n b => { s with nmus := tput s.nmus n (let c := tget Nmu.reset s.nmus n; { c with
      preAsked := c.preAsked.erase b
      pre := if st = 0 ∧ c.preAsked.contains b then tput c.pre b bs else c.pre }) }
  | .xfer to_ xid lo len fill =>
    let s := match fill with
      | some (sec, fleet, line) => if st = 0 then s.cachePut sec ⟨fleet, line, bs⟩ else s
      | none => s
    s.send .data (.port p) to_ (.xferData xid st ((bs.drop lo).take len))

/-- What a block that has come is to whom it was read for: a unit's event takes place now, and sees every write that has passed the
ordering point since (R297). -/
def State.upToDate (s : State) (p blk : Nat) (who : ReadFor) (bs : List Byte) : List Byte :=
  if who = .unit ∧ (s.port p).writing blk then s.emBytes p (256 * blk) 256 else bs

/-- A read that cannot be corrected: in a PROTECTED region it waits to be rebuilt; else it is UNCORRECTABLE until the block
is written whole. -/
def State.readFailed (s : State) (p blk : Nat) (who : ReadFor) : State :=
  if who = .unit ∧ (s.port p).writing blk then s.deliverRead p blk who 0 (s.emBytes p (256 * blk) 256)
  else if (s.protectedAt (256 * blk)).isSome then s.startRebuild p blk who
  else ((if (s.port p).writing blk then s else s.setBad p blk).reportUe p blk).deliverRead p blk who 0x0B []

/-- The class of what is written back corrected or rebuilt. -/
def clsBack : Nat := clsPrio 3

/-- A rebuild's reads have returned (R306): the XOR is delivered, and written back where the stack is in service. While a delta to
the row is pending, it waits. -/
def State.rebuildDone (s : State) (p j : Nat) : State :=
  match (s.port p).rebuilds[j]? with
  | none => s
  | some (blk, who) =>
    if s.deltaPending blk then s
    else s.overEm fun s =>
      let r := s.rebuild p blk
      let t := r.2.2.modPort p (fun c => { c with rebuilds := c.rebuilds.eraseIdx j })
      if r.1 ≠ 0 then (t.reportUe p blk).deliverRead p blk who 0x0B []
      else
        let t := if t.mpLost p || (t.port p).writing blk then t else t.putBlock p blk clsBack 0 r.2.1
        t.deliverRead p blk who 0 r.2.1

/-! ## Requests (11 R297, R298, R305, R306) -/

/-- The class code of a request. -/
def MemReq.cls (r : MemReq) : Nat := if r.bounded then clsCode clsBounded r.prio r.pass else clsPrio r.prio

/-- The acknowledgement of a request that ends at once. -/
def State.endMem (s : State) (p : Nat) (to_ : Endpoint) (xid : Nat) (req : MemReq) (st : Nat) : State :=
  if req.write then s.send .reply (.port p) to_ (.xferAck xid st)
  else s.send .data (.port p) to_ (.xferData xid st [])

/-- What a write does beside its block: the sector of the core that made it updates its copy (08 R219), and host-complex channels take
a read pointer. -/
def State.written (s : State) (to_ : Endpoint) (req : MemReq) : State :=
  (match to_ with | .core c => s.cacheWrite (c / 8) req.fleet req.va req.bytes | _ => s).hostWatch req.pa req.len

/-- A write passes its ordering point. In a PROTECTED row the data port reads the old block and sends the delta, and the write to the
stack waits for it (R305). -/
def State.memWrite (s : State) (p : Nat) (to_ : Endpoint) (xid : Nat) (req : MemReq) (pl : Place) : State :=
  let blk := pl.loc / 256
  let par := match s.protectedAt pl.loc with
    | some r => let ps := s.parityStack r pl.loc; if s.mpLost p || s.mpLost ps then none else some ps
    | none => none
  match par with
  | some ps =>
    (match s.newBlock req.cls pl req.bytes with
      | (0, new, t) =>
        (match t.blockRead req.cls p blk with
          | (0, old, u) =>
            (((u.orderBlock p blk new).queueWrite p blk req.cls req.pass old new true).written to_ req).send .data (.port p)
              (.port ps) (.delta to_ xid blk (xorBytes old new))
          | (st, _, u) => u.endMem p to_ xid req st)
      | (st, _, t) => t.endMem p to_ xid req st)
  | none =>
    let r := s.partWrite req.cls req.pass pl req.bytes
    (if r.1 = 0 then r.2.written to_ req else r.2).endMem p to_ xid req r.1

/-- A read passes its ordering point: from the write buffer, from the stack, or by the table of R306. -/
def State.memRead (s : State) (p : Nat) (to_ : Endpoint) (xid : Nat) (req : MemReq) (pl : Place) : State :=
  let blk := pl.loc / 256
  let who := ReadFor.xfer to_ xid (pl.loc % 256) req.len (match req.alloc, to_ with
    | true, .core c => some (c / 8, req.fleet, req.va / 256)
    | _, _ => none)
  if s.mpLost p then
    (if (s.protectedAt pl.loc).isSome then s.startRebuild p blk who
     else (s.reportUe p blk).deliverRead p blk who 0x0B [])
  else if s.badBlock p blk then s.readFailed p blk who
  else if (s.port p).writing blk then s.deliverRead p blk who 0 (s.emBytes p (256 * blk) 256)
  else s.queueRead p blk req.cls req.pass who

/-- Request packet `i` reaches its memory port controller. One that waits for its old block holds what follows it. -/
def State.memoryRequest (s : State) (i : Nat) : State :=
  match s.arrival i with
  | some ⟨_, src, .port p, .mem xid req⟩ => s.overEm fun s =>
    let s := s.takePacket i
    if s.behind (.port p) then s.endMem p src xid req 0x0E
    else
      match s.place req.pa with
      | none => s.endMem p src xid req 0x04
      | some pl => if req.write then s.memWrite p src xid req pl else s.memRead p src xid req pl
  | _ => s

/-- The delta of port `p`'s oldest held write to a block has passed the parity port: the write goes to the stack. -/
def State.releaseHeld (s : State) (p blk : Nat) : State :=
  match (s.port p).wrHeld.find? (fun w => w.blk == blk) with
  | none => s
  | some w => (s.modPort p (fun c => { c with
      wrHeld := c.wrHeld.erase w
      wrQ := c.wrQ ++ [w] })).mpCount p true

/-- A delta arrives at the parity port, passes its ordering point and is XORed in; then the data port writes, and the write is
acknowledged (R305). -/
def State.parityDelta (s : State) (i : Nat) : State :=
  match s.arrival i with
  | some ⟨_, .port p, .port ps, .delta to_ xid blk bs⟩ => s.overEm fun s =>
    (((s.takePacket i).parityPut ps blk bs).releaseHeld p blk).send .reply (.port ps) to_ (.xferAck xid 0)
  | _ => s

/-- MP_STAT (11 R301). -/
def State.mpStat (s : State) (p : Nat) : Word :=
  putF (putF (s.rd (Reg.MP_STAT p)) F.MP_STAT_RD_OUT (s.port p).rdOut.length) F.MP_STAT_WR_OUT (s.port p).wrOut.length

/-! ## Stack loss (11 R306) -/

/-- Writes that a lost stack has not performed leave their blocks as they were: those not sent, and all but the first `n` of those
sent, a free number. -/
def State.undoWrites (s : State) (p : Nat) : State :=
  let c := s.port p
  let d := if c.wrOut.isEmpty then (0, s) else s.draw
  (c.wrOut.drop (d.1.toNat % (c.wrOut.length + 1)) ++ c.wrQ ++ c.wrHeld).foldr (fun w (t : State) => t.emPut p (256 * w.blk) w.old) d.2

/-- The port becomes LOST: requests outstanding at the stack are answered by the table of R306. -/
def State.loseMp (s : State) (p : Nat) : State :=
  if s.mpLost p then s
  else
    let c := s.port p
    let s := (s.undoWrites p).setFld (Reg.MP_STAT p) F.MP_STAT_STATE 4
    let s := s.report ⟨0x41, 3, 84 + p / 2, 3, p, 0xFF, 0, [s.mpStat p]⟩
    let s := s.setPort p { c with
      kept := []
      resend := []
      rdQ := []
      rdOut := []
      wrQ := []
      wrOut := []
      wrHeld := []
      swaps := []
      moves := [] }
    let s := s.riskPort 0x41 p
    (c.rdOut ++ c.rdQ).foldl (fun (t : State) r =>
      match r.who with
      | .scrub => t
      | .pre _ _ => t.deliverRead p r.blk r.who 0x0B []
      | _ =>
        if (t.protectedAt (256 * r.blk)).isSome then t.startRebuild p r.blk r.who
        else (t.reportUe p r.blk).deliverRead p r.blk r.who 0x0B []) s

/-! ## Training and lane sparing (11 R294 to R296) -/

/-- The field of MP_LANES of a spare. -/
def spareFld (tx : Bool) (n : Nat) : Fld :=
  match tx, n with
  | true, 0 => F.MP_LANES_TXS0
  | true, _ => F.MP_LANES_TXS1
  | false, 0 => F.MP_LANES_RXS0
  | false, _ => F.MP_LANES_RXS1

/-- A spare takes over a lane: MP_LANES and the Logbook record it. -/
def State.takeSpare (s : State) (p : Nat) (w : Swap) : State :=
  (s.setFld (Reg.MP_LANES p) (spareFld w.tx w.spare) (0x80 + w.lane)).report
    ⟨0x42, 0, 84 + p / 2, 3, p, 0xFF, 0, [BitVec.ofNat 64 (b01 w.tx), BitVec.ofNat 64 w.lane, BitVec.ofNat 64 w.spare]⟩

/-- Swaps of a direction whose frame has come take effect (R295). -/
def State.swapAt (s : State) (p : Nat) (tx : Bool) (seq : Nat) : State :=
  let now := (s.port p).moves.filter (fun w => w.tx == tx && w.atSeq == seq)
  now.foldl (fun (t : State) w => t.takeSpare p w) (s.modPort p (fun c => { c with moves := c.moves.filter (fun w => !now.contains w) }))

/-- A training starts: requests wait, none is lost. Frames start again from SEQ 0, and swaps under way are in effect after it. -/
def State.trainMp (s : State) (p : Nat) (fast : Bool) : State :=
  let s := s.riskPort 0 p
  let c := s.port p
  (c.moves ++ c.swaps).foldl (fun (t : State) w => t.takeSpare p w)
    ((s.setFld (Reg.MP_STAT p) F.MP_STAT_STATE 1).setPort p { c with
    txSeq := 0
    rxSeq := 1023
    nak := false
    kept := []
    resend := []
    rdQ := c.rdOut ++ c.rdQ
    rdOut := []
    wrQ := c.wrOut ++ c.wrQ
    wrOut := []
    swaps := []
    moves := []
    fast := fast })

/-- The assignment of lanes that training finds: (lane, spare number) pairs, and whether the direction runs at half width; none where
it has not half its lanes. `w` is the number of working lanes; spares are lanes `w` and on; `old` is the map that the repair map
keeps: its lanes stay replaced where their spares are good. -/
def assignLanes (w : Nat) (spares : Nat) (old : List (Nat × Nat)) (bad : List Nat) : Option (List (Nat × Nat) × Bool) :=
  let kept := old.filter (fun x => !bad.contains (w + x.2))
  let need := (List.range w).filter (fun x => (bad.contains x || old.any (fun o => o.1 == x)) && !kept.any (fun o => o.1 == x))
  let free := (List.range spares).filter (fun x => !bad.contains (w + x) && !kept.any (fun o => o.2 == x))
  if need.length ≤ free.length then some (kept ++ need.zip free, false)
  else if w / 2 ≤ w - need.length + free.length then some (kept ++ need.zip free, true)
  else none

/-- The map byte of a spare (R314): in use, and the lane it replaces. -/
def laneByte (m : List (Nat × Nat)) (spare : Nat) : Nat :=
  match m.find? (fun x => x.2 == spare) with | some x => 0x80 + x.1 | none => 0

/-- The map that a register's bytes of a direction's spares show. -/
def lanesOf (bytes : List Nat) : List (Nat × Nat) :=
  (bytes.zipIdx.filter (fun x => bit x.1 7)).map (fun x => (x.1 % 64, x.2))

/-- A training ends: ACTIVE or HALF, or a failure; three in a row, or too few lanes, lose the port. Lanes replaced before stay so, and
a direction at half width stays so over a fast retrain. While PHY_REFCLK is absent no training ends (19 R492). -/
def State.trainingDone (s : State) (p : Nat) (ok : Bool) (badRx badTx : List Nat) : State :=
  if s.mpState p ≠ 1 ∨ s.phyOff then s
  else if !ok then
    let n := (s.port p).fails + 1
    let s := s.modPort p (fun c => { c with fails := n })
    if 3 ≤ n then s.loseMp p else s
  else
    let old := fun (tx : Bool) => lanesOf ((List.range 2).map (fun i => s.fld (Reg.MP_LANES p) (spareFld tx i)))
    match assignLanes 32 2 (old false) badRx, assignLanes 16 2 (old true) badTx with
    | some rx, some tx =>
      let c := s.port p
      let hr := rx.2 || (c.fast && c.halfRx)
      let ht := tx.2 || (c.fast && c.halfTx)
      let s := s.wr (Reg.MP_LANES p) (BitVec.ofNat 64
        (laneByte rx.1 0 * 2 ^ 24 + laneByte rx.1 1 * 2 ^ 16 + laneByte tx.1 0 * 2 ^ 8 + laneByte tx.1 1))
      let s := (s.setFld (Reg.MP_STAT p) F.MP_STAT_STATE (if hr || ht then 3 else 2)).modPort p (fun c => { c with
        fails := 0
        halfRx := hr
        halfTx := ht })
      let s := if hr || ht then s.report ⟨0x43, 2, 84 + p / 2, 3, p, 0xFF, 0, [s.mpStat p]⟩ else s
      s.drainFaults s.xfHeld.length
    | _, _ => s.loseMp p

/-- A lane is to be replaced by a free spare of its direction, or the direction fast-retrains at half width (R295, R296). -/
def State.laneSwap (s : State) (p : Nat) (tx : Bool) (lane : Nat) : State :=
  let st := s.mpState p
  let c := s.port p
  if (st ≠ 2 ∧ st ≠ 3) ∨ (if tx then 16 else 32) ≤ lane then s
  else
    match (List.range 2).find? (fun n => !bit (s.fld (Reg.MP_LANES p) (spareFld tx n)) 7 &&
        !(c.swaps ++ c.moves).any (fun w => w.tx == tx && w.spare == n)) with
    | none => (s.setPort p { c with halfRx := c.halfRx || !tx, halfTx := c.halfTx || tx }).trainMp p true
    | some n => s.setPort p { c with swaps := c.swaps ++ [⟨tx, n, lane, 0⟩] }

/-- MP_CTL.RETRAIN: ignored unless ACTIVE or HALF. -/
def State.retrainMp (s : State) (p : Nat) : State :=
  if s.mpState p = 2 ∨ s.mpState p = 3 then s.trainMp p true else s

/-! ## Sending frames (11 R290 to R293, R299) -/

/-- The class a request is served in: one of priority 0 to 3 that waited 8 us counts as priority 0 (R299). -/
def aged (now at_ cls : Nat) : Nat :=
  if 2 ≤ codeClass cls ∧ codeClass cls < clsScrub ∧ at_ + 8000 ≤ now then clsPrio 0 else codeClass cls

/-- What a passage has reserved on a port, for reads and writes, in bytes per ns; nothing where it is not held (14 R384). -/
def State.reserved (s : State) (p pid : Nat) : Nat × Nat :=
  match (s.pidAt pid).bind (fun q => tfind s.passages q) with
  | some x => if x.ports.contains p then (x.rdRes, x.wrRes) else (0, 0)
  | none => (0, 0)

/-- Does a port carry a reservation? Then at most 768 reads are outstanding at its stack (14 R384). -/
def State.readLimit (s : State) (p : Nat) : Nat := if s.passages.any (fun x => x.2.ports.contains p) then 768 else 4096

/-- The most that a reservation's meter holds: 25 ns of it, and a block. -/
def meterCap (res : Nat) : Nat := if res = 0 then 0 else max 256 (25 * res)

/-- The bytes that a passage may read and write at a port now. -/
def State.meterNow (s : State) (p : Nat) (m : Sparse (Nat × Nat × Nat)) (pid : Nat) : Nat × Nat :=
  let r := s.reserved p pid
  match tfind m pid with
  | some (a, b, t) => (min (meterCap r.1) (a + r.1 * (s.time - t)), min (meterCap r.2) (b + r.2 * (s.time - t)))
  | none => (meterCap r.1, meterCap r.2)

/-- What a frame takes, while it is filled: reads, writes, and the meters. -/
structure Fill where
  rs : List PRead
  ws : List PWrite
  meter : Sparse (Nat × Nat × Nat)
  deriving DecidableEq, Repr

/-- Does a frame hold `w` writes, `r` reads and `n` other commands: a slot for each write, and one for 32 commands? -/
def fits (w r n : Nat) : Bool := decide (w + cdiv (w + r + n) 32 ≤ 15)

/-- Take a queued read, where there is room for it and, of a BOUNDED one, its passage's meter allows it. -/
def State.fillRead (s : State) (p n : Nat) (f : Fill) (r : PRead) : Fill :=
  let m := s.meterNow p f.meter r.pass
  if !fits f.ws.length (f.rs.length + 1) n || decide (s.readLimit p ≤ (s.port p).rdOut.length + f.rs.length) ||
      (codeClass r.cls == clsBounded && decide (m.1 < 256)) then f
  else { f with
    rs := f.rs ++ [r]
    meter := if codeClass r.cls = clsBounded then tput f.meter r.pass (m.1 - 256, m.2, s.time) else f.meter }

/-- Take a queued write likewise: none whose block a read waits for or an earlier write is queued for (R293, R297). -/
def State.fillWrite (s : State) (p n : Nat) (f : Fill) (w : PWrite) : Fill :=
  let c := s.port p
  let m := s.meterNow p f.meter w.pass
  if !fits (f.ws.length + 1) f.rs.length n || decide (512 ≤ c.wrOut.length + f.ws.length) ||
      (c.rdQ ++ c.rdOut).any (fun r => r.blk == w.blk) ||
      (c.wrQ.takeWhile (· != w)).any (fun x => x.blk == w.blk && !f.ws.contains x) ||
      (codeClass w.cls == clsBounded && decide (m.2 < 256)) then f
  else { f with
    ws := f.ws ++ [w]
    meter := if codeClass w.cls = clsBounded then tput f.meter w.pass (m.1, m.2 - 256, s.time) else f.meter }

/-- What the next frame takes beside `n` other commands, class by class (R299). -/
def State.fillFrame (s : State) (p n : Nat) : Fill :=
  let c := s.port p
  (List.range 7).foldl (fun f k =>
    let f := (c.rdQ.filter (fun r => aged s.time r.at_ r.cls == k)).foldl (fun f r => s.fillRead p n f r) f
    (c.wrQ.filter (fun w => aged s.time w.at_ w.cls == k)).foldl (fun f w => s.fillWrite p n f w) f) ⟨[], [], c.meter⟩

/-- A read's command entry, with its priority and BOUNDED mark (R292). -/
def cmdRd (r : PRead) : Nat :=
  2 ^ 60 + r.tag * 2 ^ 48 + codePrio r.cls * 2 ^ 46 + b01 (codeClass r.cls == clsBounded) * 2 ^ 45 + r.blk
def cmdWr (w : PWrite) : Nat := 2 * 2 ^ 60 + w.tag * 2 ^ 48 + w.blk
def cmdSwap (w : Swap) : Nat :=
  3 * 2 ^ 60 + b01 w.tx * 2 ^ 46 + w.spare * 2 ^ 45 + w.lane * 2 ^ 39 + w.atSeq * 2 ^ 29

/-- The slots of command entries, 32 in each. -/
def cmdSlots (es : List Nat) : List (List Byte × Nat) :=
  (List.range (cdiv es.length 32)).map (fun i =>
    let b := ((es.drop (32 * i)).take 32).flatMap (natLE 8)
    (b ++ List.replicate (256 - b.length) 0, 5 * 2 ^ 60))

/-- Working lanes of a direction. -/
def Port.rxLanes (c : Port) : Nat := if c.halfRx then 16 else 32
def Port.txLanes (c : Port) : Nat := if c.halfTx then 8 else 16

/-- The frame at which a swap announced in the next frame takes effect: 32 frames ahead in its direction (R295). -/
def Port.swapSeq (c : Port) (w : Swap) : Swap := { w with atSeq := ((if w.tx then c.txSeq else c.rxSeq + 1) + 32) % 1024 }

/-- At a frame boundary the port sends a frame again, or a new one. -/
def State.txFrame (s : State) (p : Nat) : State :=
  if s.mpState p ≠ 2 ∧ s.mpState p ≠ 3 then s
  else
    let s := if (s.port p).resend.isEmpty then s.swapAt p true (s.port p).txSeq else s
    let c := s.port p
    match c.resend with
    | n :: rest =>
      -- the frame is sent as it was
      s.setPort p { c with
        resend := rest
        wire := match c.kept.find? (fun x => x.1 == n) with | some x => toWire c.txLanes x.2 | none => c.wire }
    | [] =>
      let sw := (c.swaps.take 4).map c.swapSeq
      let x := s.fillFrame p sw.length
      let cmds := cmdSlots (sw.map cmdSwap ++ x.rs.map cmdRd ++ x.ws.map cmdWr)
      let data := x.ws.map (fun w => (w.bytes, 4 * 2 ^ 60 + w.tag * 2 ^ 48 + blockCheck w.bytes))
      let ctrl := c.txSeq * 2 ^ 22 + c.rxSeq * 2 ^ 12 + b01 c.nak * 2 ^ 11
      let f := mkFrame (cmds ++ data) ctrl
      s.setPort p { c with
        wire := toWire c.txLanes f
        txSeq := (c.txSeq + 1) % 1024
        nak := false
        kept := ((c.txSeq, f) :: c.kept.reverse).take 512 |>.reverse
        rdQ := c.rdQ.filter (fun r => !x.rs.contains r)
        rdOut := c.rdOut ++ x.rs
        wrQ := c.wrQ.filter (fun w => !x.ws.contains w)
        wrOut := c.wrOut ++ x.ws
        meter := x.meter
        swaps := c.swaps.drop 4
        moves := c.moves ++ sw }

/-- A replay delays every read outstanding at the stack; a second one marks the passage of a BOUNDED transfer (14 R391). -/
def State.countReplays (s : State) (p : Nat) : State :=
  let c := s.port p
  let s := s.setPort p { c with rdOut := c.rdOut.map (fun (r : PRead) => { r with replays := r.replays + 1 }) }
  c.rdOut.foldl (fun (t : State) (r : PRead) =>
    if codeClass r.cls = clsBounded ∧ r.replays = 1 then t.atRisk 0 (fun q _ => t.ptPid q == r.pass) else t) s

/-! ## Receiving frames (11 R289 to R293, R303, R304) -/

/-- One slot of an accepted frame. -/
def State.rxSlot (s : State) (p : Nat) (f : List Byte) (i : Nat) : State :=
  let d := fDesc f i
  if descType d = 0 then s
  else
    match (s.port p).rdOut.find? (fun r => r.tag == descTag d) with
    | none => s
    | some r =>
      let s := s.modPort p (fun c => { c with rdOut := c.rdOut.erase r })
      if descType d = 2 then (s.mpErr p F.MP_ERR_POISON 0).readFailed p r.blk r.who
      else
        let newer := (s.port p).writing r.blk
        match eccCheck (fSlot f i) (bits d 0 48) with
        | .good =>
          let s := if newer then s else s.emPut p (256 * r.blk) (fSlot f i)
          s.deliverRead p r.blk r.who 0 (s.upToDate p r.blk r.who (fSlot f i))
        | .corrected bs =>
          let s := s.mpErr p F.MP_ERR_CE 2
          let s := if newer then s else s.putBlock p r.blk clsBack 0 bs
          s.deliverRead p r.blk r.who 0 (s.upToDate p r.blk r.who bs)
        | .bad => (s.mpErr p F.MP_ERR_UE 1).readFailed p r.blk r.who

/-- A good frame of the stack, in order and of listed TYPEs: its CTRL and slots are taken. -/
def State.rxGood (s : State) (p : Nat) (f : List Byte) : State :=
  let ctrl := fCtrl f
  let s := s.swapAt p false (ctrlSeq ctrl)
  let c := s.port p
  let kept := dropAcked c.kept (ctrlAck ctrl)
  let again := if ctrlNak ctrl then kept.map (fun x => x.1) else c.resend.filter (fun n => kept.any (fun x => x.1 == n))
  let s := s.setPort p { c with
    rxSeq := ctrlSeq ctrl
    kept := kept
    resend := again
    wrOut := c.wrOut.drop (bits ctrl 6 5) }
  let s := if ctrlNak ctrl then again.foldl (fun (t : State) _ => t.mpErr p F.MP_ERR_REPLAY 3) (s.countReplays p) else s
  let s := (List.range 15).foldl (fun (t : State) i => t.rxSlot p f i) s
  if bit ctrl 5 then s.loseMp p else s

/-- The 4 096 bytes of a frame from the stack, as the lanes carried them: discarded with NAK on a bad CRC after FEC decoding or a wrong
SEQ; a descriptor of another TYPE retrains the link; else it is taken. -/
def State.rxFrame (s : State) (p : Nat) (w : List Byte) : State :=
  if s.mpState p ≠ 2 ∧ s.mpState p ≠ 3 then s
  else
    let c := s.port p
    let f := (fromWire c.rxLanes w).1
    if !fCrcOk f || ctrlSeq (fCtrl f) != (c.rxSeq + 1) % 1024 then
      let s := s.setPort p { c with nak := true }
      (if c.nak then s else s.countReplays p).mpErr p F.MP_ERR_REPLAY 3
    else if (List.range 15).any (fun i => decide (2 < descType (fDesc f i))) then s.trainMp p true
    else s.rxGood p f

/-! ## Scrubbing (11 R304) -/

/-- Blocks of a stack of 72 GB. -/
def stackBlocks : Nat := 281250000

/-- The controller reads the next block of its scrub cycle. -/
def State.scrubStep (s : State) (p : Nat) : State :=
  if (s.mpState p ≠ 2 ∧ s.mpState p ≠ 3) ∨ s.fld (Reg.MP_CTL p) F.MP_CTL_SCRUB_H = 0 then s
  else
    let b := (s.port p).scrub
    let s := s.modPort p (fun c => { c with scrub := (b + 1) % stackBlocks })
    if (s.port p).writing b then s else s.queueRead p b clsScrub 0 .scrub

/-! ## Translation registers (11 R311, R312, R315) -/

/-- XL_INV.GO: matching translations leave every cache, and the transfers that use one are marked: those of cores and of the host
attach port, and packets of the fleet's reductions on their way to an NMU (R311). -/
def State.xlInvStart (s : State) : State :=
  let r := Reg.XL_INV
  let fl := s.fld r F.XL_INV_FLEET
  let all := s.flag r F.XL_INV_ALL
  let va := s.fld r F.XL_INV_VA * 2 ^ 16
  let n := (s.fld r F.XL_INV_COUNT + 1) * 2 ^ 16
  let gone := fun (e : WalkEntry) => e.fleet == fl && (all || overlaps (e.index * 2 ^ levelShift e.level) (2 ^ levelShift e.level) va n)
  let uses := fun (x : XlUse) => x.size != 0 && x.fleet == fl && (all || overlaps (x.va / x.size * x.size) x.size va n)
  let red := fun (x : Packet) => match x.body with
    | .red _ _ tag _ _ _ => s.fld (Reg.RD_CFG (tag % 64)) F.RD_CFG_FLEET == fl
    | _ => false
  let s := { s with
    sectors := s.sectors.map (fun (p : Nat × Sector) => (p.1, { p.2 with tlb := tlbDrop p.2.tlb fl all va n }))
    nmus := s.nmus.map (fun (p : Nat × Nmu) => (p.1, { p.2 with tlb := tlbDrop p.2.tlb fl all va n }))
    haTlb := tlbDrop s.haTlb fl all va n
    linkTlb := s.linkTlb.map (fun (p : Nat × Sparse (List TlbEntry)) => (p.1, tlbDrop p.2 fl all va n))
    ports := s.ports.map (fun (p : Nat × Port) => (p.1, { p.2 with wcache := p.2.wcache.filter (fun e => !gone e) }))
    slots := s.slots.map (fun (p : Nat × Slot) => (p.1, { p.2 with outs := p.2.outs.map (fun (o : Out) =>
      if uses ⟨o.xl, o.fleet, o.va⟩ then { o with inv := true } else o) }))
    hm := s.hm.map (fun (r : HmReq) => if uses r.xl then { r with inv := true } else r)
    remote := s.remote.map (fun (r : RemoteReq) => if uses r.xl then { r with inv := true } else r)
    xlNet := s.net.filter red }
  s.setFld r F.XL_INV_BUSY 1

/-- A write of XL_INV; ignored while BUSY (R315). -/
def State.xlInvWrite (s : State) (v : Word) : State :=
  let r := Reg.XL_INV
  if s.flag r F.XL_INV_BUSY then s
  else
    let s := ((s.setFld r F.XL_INV_FLEET (getF v F.XL_INV_FLEET)).setFld r F.XL_INV_ALL (getF v F.XL_INV_ALL))
    let s := (s.setFld r F.XL_INV_COUNT (getF v F.XL_INV_COUNT)).setFld r F.XL_INV_VA (getF v F.XL_INV_VA)
    if getF v F.XL_INV_GO = 1 then s.xlInvStart else s

/-- BUSY clears once no transfer that used a removed translation is outstanding (R311). -/
def State.invDone (s : State) : State :=
  if s.slots.any (fun p => p.2.outs.any (fun o => o.inv)) || s.hm.any (fun r => r.inv) || s.remote.any (fun r => r.inv) ||
    s.xlNet.any (fun x => s.net.contains x) || s.nmus.any (fun p => !p.2.preAsked.isEmpty) then s
  else { s with xlNet := [] }.setFld Reg.XL_INV F.XL_INV_BUSY 0

/-- A write of XF_RING (R315): SIZE and BASE only while EN is 0; EN 1 needs the ring wholly in one region. -/
def State.xfRingWrite (s : State) (v : Word) : State :=
  let r := Reg.XF_RING
  let on := s.flag r F.XF_RING_EN
  let s := if on then s
    else
      let s := s.setFld r F.XF_RING_BASE (getF v F.XF_RING_BASE)
      if getF v F.XF_RING_SIZE ≤ 8 then s.setFld r F.XF_RING_SIZE (getF v F.XF_RING_SIZE) else s
  if getF v F.XF_RING_EN = 0 then s.setFld r F.XF_RING_EN 0
  else if on then s
  else if (s.regionFor (s.fld r F.XF_RING_BASE * 4096) s.xfSize).isSome then
    (s.setFld r F.XF_RING_EN 1).drainFaults s.xfHeld.length
  else s

/-- A write of XF_PTR.RP: a value more than WP - RP ahead is ignored (R315); held records go into the space. -/
def State.xfRpWrite (s : State) (v : Nat) : State :=
  let d := (v % 2 ^ 32 + 2 ^ 32 - s.fld Reg.XF_PTR F.XF_PTR_RP) % 2 ^ 32
  if d ≤ s.xfUsed then (s.setFld Reg.XF_PTR F.XF_PTR_RP (v % 2 ^ 32)).drainFaults s.xfHeld.length else s

end Sys2Proof.Machine
end

