-- ==== Sys2Proof/Machine/Vector.lean ====
section
/-!
DEFINITION. Machine/Vector.lean: the vector engine's word-format commands (06 R136 to R164): one definition of every
operation's elements, used by stream mode, which reads and writes the Tile Store, and by register mode.
-/

namespace Sys2Proof.Machine

/-! ## The common fields of a vector word (06 R143, R158) -/

/-- A vector command: `op` is the stream opcode of its operation, `reg` tells register mode, and EXT is numbered by the
stream word's bits. -/
structure VWord where
  reg : Bool
  op : Nat
  et : Nat
  rm : RMode
  sr : Bool
  sum : Bool
  n : Nat
  dst : Nat
  sa : Nat
  sb : Nat
  sc : Nat
  ba : Bool
  bb : Bool
  bc : Bool
  ext : Nat
  addr : Nat
  stride : Nat
  deriving DecidableEq, Repr

/-- EXT bits `[hi : lo]`, in the stream word's numbering (06 R145, R158). -/
def VWord.x (v : VWord) (hi lo : Nat) : Nat := bits v.ext lo (hi + 1 - lo)

/-- A stream word (06 R143). -/
def decodeVS (w : Cmd) : VWord :=
  { reg := false, op := opcode w, et := cf w 119 116, rm := RMode.ofCode (cf w 115 114), sr := cb w 113, sum := cb w 112,
    n := cf w 111 96, dst := cf w 95 73, sa := cf w 72 50, sb := cf w 49 27, sc := cf w 26 4, ba := cb w 3, bb := cb w 2,
    bc := cb w 1, ext := w.toNat % 2 ^ 27, addr := 0, stride := 0 }

/-- A register word (06 R158): bit `50 + x` is EXT bit `x`. -/
def decodeVR (w : Cmd) : VWord :=
  { reg := true, op := if opcode w < 0x78 then opcode w - 0x20 else opcode w, et := cf w 119 116,
    rm := RMode.ofCode (cf w 115 114), sr := cb w 113, sum := cb w 112, n := cf w 111 100, dst := cf w 99 95,
    sa := cf w 94 90, sb := cf w 89 85, sc := cf w 84 80, ba := cb w 79, bb := cb w 78, bc := cb w 77,
    ext := cf w 76 54 * 2 ^ 4, addr := cf w 52 30, stride := cf w 29 14 }

def VWord.dtype (v : VWord) : Nat := v.x 26 23
def VWord.scaleEn (v : VWord) : Bool := v.x 22 22 == 1
def VWord.rop (v : VWord) : Nat := v.x 26 24
/-- Group length of a reduction; 0 means N (06 R145). -/
def VWord.glen (v : VWord) : Nat := if v.x 23 8 = 0 then v.n else v.x 23 8
def VWord.groups (v : VWord) : Nat := if v.n = 0 then 0 else cdiv v.n v.glen
def VWord.gexp (v : VWord) : Int := sint 16 (v.x 22 7)
def VWord.accIn (v : VWord) : Bool := v.x 6 6 == 1
def VWord.grp (v : VWord) : Bool := v.x 5 5 == 1

/-! ## Which operands, types and sizes an operation has (06 R145, R150, R152) -/

/-- Operations that read B as elements of ETYPE: ADD, SUB, MUL, FMA, MIN, MAX, DIV, CMP, SEL, LOGIC. -/
def opReadsB (op : Nat) : Bool := op ≤ 0x45 || op == 0x48 || op == 0x4C || op == 0x4D || op == 0x4E
/-- Operations whose C is a mask: SEL, COMPRESS, EXPAND. -/
def opMask (op : Nat) : Bool := op == 0x4D || op == 0x50 || op == 0x51
/-- Operations with a count output. -/
def opCount (op : Nat) : Bool := op == 0x50 || op == 0x51

/-- The pairs of R52 that the vector engine offers. -/
def cvtPair (s d : Nat) : Bool :=
  match s with
  | 7 => d == 1 || d == 0 || d == 3 || d == 4 || d == 6 || d == 5 || d == 8
  | 8 => d == 3 || d == 4 || d == 7 || d == 6 || d == 5
  | 5 => d == 7 || d == 8
  | 6 => d == 7 || d == 8
  | 0 => d == 7
  | 1 => d == 7 || d == 3 || d == 4
  | 2 => d == 3 || d == 4
  | 3 => d == 1 || d == 2 || d == 3 || d == 7 || d == 8
  | 4 => d == 1 || d == 2 || d == 3 || d == 8
  | _ => false

/-- The pairs that take a scale or multiplier (06 R150). -/
def cvtScaled (s d : Nat) : Bool := (d == 7 && s ≤ 1) || (s == 7 && d ≤ 1)

/-- The result bits of a reduction (06 R152). -/
def redBits (rop et : Nat) : Nat :=
  match rop with
  | 1 => etBits et
  | 2 => etBits et
  | 3 => 64
  | 4 => 64
  | _ => if 5 ≤ et ∧ et ≤ 7 then 32 else 64

/-- Does the operation accept the ETYPE and its EXT fields (06 R139, R145, R150, R152, R154)? -/
def VWord.formatOk (v : VWord) : Bool :=
  let num := etInt v.et || etFlt v.et
  match v.op with
  | 0x48 => v.et == 7 || v.et == 8
  | 0x49 => v.et == 7 || v.et == 8
  | 0x4A => v.et == 7
  | 0x4B => v.et == 7
  | 0x4C => num && v.x 26 24 != 7
  | 0x4D => num
  | 0x4E => etInt v.et && v.x 26 24 != 7
  | 0x4F => cvtPair v.et v.dtype && (!v.scaleEn || cvtScaled v.et v.dtype)
  | 0x50 => num
  | 0x51 => num
  | 0x52 => decide (v.rop < 6) && (if v.rop = 3 ∨ v.rop = 4 then num && v.et != 4 && v.et != 8 else num)
  | 0x53 => v.et == 3 || v.et == 4 || v.et == 7 || v.et == 8
  | 0x54 => v.et == 9 && (v.dtype == 8 || v.dtype == 7 || v.dtype == 6 || v.dtype == 5 || v.dtype == 3 || v.dtype == 4)
  | 0x55 => num || (v.et == 9 && !v.reg)
  | op => decide (0x40 ≤ op ∧ op ≤ 0x47) && num

/-- Bits of a result element; 1 for a mask. -/
def VWord.outBits (v : VWord) : Nat :=
  match v.op with
  | 0x4C => 1
  | 0x4F => etBits v.dtype
  | 0x52 => redBits v.rop v.et
  | 0x53 => 128
  | 0x54 => etBits v.dtype
  | _ => etBits v.et

/-- How many results the command writes. -/
def VWord.outCount (v : VWord) : Nat :=
  match v.op with
  | 0x52 => v.groups
  | 0x53 => if v.grp then 1 else v.n
  | _ => v.n

/-- Does the command read B, as what width and how many elements? -/
def VWord.bIn (v : VWord) : Option (Nat × Nat) :=
  if opReadsB v.op then some (etBits v.et, v.n)
  else if v.op = 0x4F ∧ v.scaleEn then some (32, v.n)
  else if v.op = 0x52 ∧ v.rop = 5 then some (etBits v.et, v.n)
  else if v.op = 0x53 ∧ v.accIn then some (128, v.outCount)
  else none

/-- Does the command read C, and as what width? -/
def VWord.cIn (v : VWord) : Option (Nat × Nat) :=
  if v.op = 0x43 then some (etBits v.et, v.n) else if opMask v.op then some (1, v.n) else none

/-! ## Elements -/

/-- Elements of the operands, as bit patterns. -/
structure Elems where
  a : Nat → Nat
  b : Nat → Nat
  c : Nat → Nat
  m : Nat → Bool

/-- The maximum and minimum of R146, on values without NaNs. -/
def pick (isMax : Bool) (a b : Val) : Bool := if isMax then a.cmp b != .lt else a.cmp b != .gt

/-- The floating-point result of ADD to LOG2 (06 R146). -/
def fltOp (op : Nat) (f : FFmt) (rm : RMode) (a b c : Nat) : Nat :=
  let x := decodeF f a
  let y := decodeF f b
  match op with
  | 0x40 => encodeF f rm (x.add rm y)
  | 0x41 => encodeF f rm (x.add rm y.neg)
  | 0x42 => encodeF f rm (x.mul y)
  | 0x43 => encodeF f rm ((x.mul y).add rm (decodeF f c))
  | 0x44 => if x = .nan ∨ y = .nan then f.canonNaN else if pick false x y then a else b
  | 0x45 => if x = .nan ∨ y = .nan then f.canonNaN else if pick true x y then a else b
  | 0x46 => encodeF f .rne x.abs
  | 0x47 => encodeF f .rne x.neg
  | 0x48 => divF f rm x y
  | 0x49 => sqrtF f rm x
  | 0x4A => exp2F f rm x
  | _ => log2F f rm x

/-- The integer result of ADD to NEG, modulo 2^w (06 R147). -/
def intOp (op w : Nat) (a b c : Nat) : Nat :=
  let x := sint w a
  let y := sint w b
  match op with
  | 0x40 => wrapInt w (x + y)
  | 0x41 => wrapInt w (x - y)
  | 0x42 => wrapInt w (x * y)
  | 0x43 => wrapInt w (x * y + sint w c)
  | 0x44 => wrapInt w (min x y)
  | 0x45 => wrapInt w (max x y)
  | 0x46 => wrapInt w (x.natAbs : Int)
  | _ => wrapInt w (-x)

/-- A bitwise operation or shift (06 R145, R147). -/
def logicOp (lop w a b : Nat) : Nat :=
  match lop with
  | 0 => a &&& b
  | 1 => a ||| b
  | 2 => a ^^^ b
  | 3 => a &&& (2 ^ w - 1 - b)
  | 4 => a * 2 ^ (b % w) % 2 ^ w
  | 5 => wrapInt w (sint w a / 2 ^ (b % w))
  | _ => a / 2 ^ (b % w)

/-- A predicate of two values in order `o`; `un` tells that one is NaN (06 R145, R146). -/
def predOf (p : Nat) (un : Bool) (o : Ordering) : Bool :=
  match p with
  | 0 => !un && o == .eq
  | 1 => un || o != .eq
  | 2 => !un && o == .lt
  | 3 => !un && o != .gt
  | 4 => !un && o == .gt
  | 5 => !un && o != .lt
  | _ => un

/-- CMP of two patterns (06 R146: zeros of either sign are equal). -/
def cmpElem (et p a b : Nat) : Bool :=
  match etFloat et with
  | some f =>
    let x := decodeF f a
    let y := decodeF f b
    let o := if x.isZero && y.isZero then .eq else x.cmp y
    predOf p (decide (x = .nan) || decide (y = .nan)) o
  | none => predOf p false (compare (sint (etBits et) a) (sint (etBits et) b))

/-- The range of a conversion into an integer type (02 R37, R50, R65). -/
def intRange (dn16 : Bool) : Nat → Int × Int
  | 0 => (int4Lo dn16, 7)
  | 1 => (int8Lo dn16, 127)
  | 2 => (-2 ^ 15, 2 ^ 15 - 1)
  | 3 => (-2 ^ 31, 2 ^ 31 - 1)
  | _ => (-2 ^ 63, 2 ^ 63 - 1)

/-- One conversion of VS.CVT (06 R150; 02 R48 to R52). `sc` is S or Q, 1.0 where SCALE_EN is clear. -/
def cvtElem (dn16 : Bool) (rm : RMode) (et dt a : Nat) (sc : Val) : Conv :=
  let r : Val := match etFloat et with
    | some f => decodeSrc dn16 f a
    | none => if dt = 7 ∧ et ≤ 1 then scaleInt (sint (etBits et) a) [sc] else valOfInt (sint (etBits et) a)
  match etFloat dt with
  | some g => convFloat dn16 rm g r
  | none =>
    let q := if et = 7 ∧ dt ≤ 1 then scaleBy r sc else r
    convInt rm (intRange dn16 dt).1 (intRange dn16 dt).2 (etBits dt) r q

/-- Truncated `m × 2^e`. -/
def truncMag (m : Nat) (e : Int) : Nat := if 0 ≤ e then m * 2 ^ e.toNat else m / 2 ^ (-e).toNat

/-- One long-accumulate contribution: `T(x × 2^G)`, with NF and RNG (06 R153). -/
def laccTerm (et a : Nat) (g : Int) : Int × Bool × Bool :=
  let v := match etFloat et with | some f => decodeF f a | none => valOfInt (sint (etBits et) a)
  match v with
  | .fin neg m e =>
    let t := truncMag m (e + g)
    let u : Nat := if 2 ^ 126 ≤ t then 2 ^ 126 - 1 else t
    (if neg then -(u : Int) else (u : Int), false, decide (2 ^ 126 ≤ t))
  | _ => (0, true, false)

/-- `t × 2^e` as an exact value; +0 for 0 (04 R104). -/
def valShift (t : Int) (e : Int) : Val := if t = 0 then .fin false 0 0 else .fin (decide (t < 0)) t.natAbs e

/-- One rounding of a 128-bit integer times `2^e` into a type (06 R154, 04 R104). DEDUCED (log entry 54): +0 is the result where the
integer is 0; a negative one that rounds to zero gives -0. -/
def roundInt128 (dn16 : Bool) (rm : RMode) (dt : Nat) (t e : Int) : Conv :=
  let r := valShift t e
  match etFloat dt with
  | some f => convFloat dn16 rm f r
  | none => convInt rm (intRange dn16 dt).1 (intRange dn16 dt).2 (etBits dt) r r

/-! ## Reductions (06 R151, R152) -/

/-- One level of the fixed tree. -/
def treeLevel {α : Type} (op : α → α → α) : List α → List α
  | x :: y :: zs => op x y :: treeLevel op zs
  | zs => zs

/-- The fixed tree, with a level for each bit of the length as fuel. -/
def treeFuel {α : Type} (op : α → α → α) : Nat → List α → List α
  | 0, vs => vs
  | k + 1, vs => match vs with | _ :: _ :: _ => treeFuel op k (treeLevel op vs) | _ => vs

/-- The fixed tree over a group (06 R151). -/
def tree {α : Type} (op : α → α → α) (d : α) (vs : List α) : α := (treeFuel op (Nat.log2 vs.length + 1) vs).headD d

/-- The format of a floating-point reduction's result: FP32 for the 16- and 32-bit floats (06 R152). -/
def redFmt (et : Nat) : FFmt := if et = 8 then fp64 else fp32

/-- A node of MAXIDX or MINIDX: the left input unless the right is strictly better; a NaN before a number (06 R152). -/
def idxNode (isMax : Bool) (p q : Nat × Val) : Nat × Val :=
  match p.2, q.2 with
  | .nan, _ => p
  | _, .nan => q
  | x, y => if x.cmp y = (if isMax then .lt else .gt) then q else p

/-- The result of one group (06 R152): its pattern. -/
def redGroup (rop et : Nat) (as bs : List Nat) : Nat :=
  let w := etBits et
  match etFloat et with
  | some f =>
    let g := redFmt et
    let add := fun x y => encodeF g .rne ((decodeF g x).add .rne (decodeF g y))
    let mm := fun isMax x y =>
      if decodeF f x = .nan ∨ decodeF f y = .nan then f.canonNaN
      else if pick isMax (decodeF f x) (decodeF f y) then x else y
    match rop with
    | 0 => tree add 0 (as.map (fun a => encodeF g .rne (decodeF f a)))
    | 1 => tree (mm false) 0 (as.map (fun a => encodeF f .rne (decodeF f a)))
    | 2 => tree (mm true) 0 (as.map (fun a => encodeF f .rne (decodeF f a)))
    | 5 => tree add 0 (List.zipWith (fun a b => encodeF g .rne ((decodeF f a).mul (decodeF f b))) as bs)
    | _ =>
      let r := tree (idxNode (rop == 3)) (0, .nan) (as.mapIdx (fun i a => (i, decodeF f a)))
      r.1 + 2 ^ 32 * encodeF fp32 .rne r.2
  | none =>
    match rop with
    | 0 => wrapInt 64 ((as.map (sint w)).foldl (· + ·) 0)
    | 1 => wrapInt w (tree min 0 (as.map (sint w)))
    | 2 => wrapInt w (tree max 0 (as.map (sint w)))
    | 5 => wrapInt 64 ((List.zipWith (fun a b => sint w a * sint w b) as bs).foldl (· + ·) 0)
    | _ =>
      let r := tree (idxNode (rop == 3)) (0, .nan) (as.mapIdx (fun i a => (i, valOfInt (sint w a))))
      let v : Int := match r.2 with | .fin neg m _ => if neg then -(m : Int) else (m : Int) | _ => 0
      r.1 + 2 ^ 32 * wrapInt 32 v

/-! ## A command's results -/

/-- What a command yields: results by element index, a count, and what its elements have shown. -/
structure VRes where
  outs : List (Nat × Nat)
  count : Option Nat
  seen : Seen
  deriving DecidableEq, Repr

/-- Note a floating-point result: NF for a NaN or infinity, its magnitude for the summary (06 R160, R161). -/
def Seen.flt (t : Seen) (f : FFmt) (pos w : Nat) : Seen :=
  { t with mag := scoutMax t.mag (scoutMag (decodeF f w)), nf := noteAt t.nf (nonFiniteF f w) pos }

/-- What plain results show: nothing for integers, masks and counts. -/
def seenOf (fmt : Option FFmt) (outs : List (Nat × Nat)) : Seen :=
  match fmt with
  | none => Seen.none
  | some f => outs.foldl (fun t o => t.flt f o.1 o.2) Seen.none

/-- Results computed one by one from the element index. -/
def plainRes (fmt : Option FFmt) (n : Nat) (g : Nat → Nat) : VRes :=
  let outs := (List.range n).map (fun i => (i, g i))
  ⟨outs, none, seenOf fmt outs⟩

/-- Results of converting elements (06 R160). -/
def convRes (n : Nat) (g : Nat → Conv) : VRes :=
  let r := (List.range n).foldl (fun (st : List (Nat × Nat) × Seen) i =>
    let c := g i
    ((i, c.code) :: st.1, st.2.conv i c)) ([], Seen.none)
  ⟨r.1.reverse, none, r.2⟩

/-- COMPRESS: the kept elements, in order (06 R149). -/
def compressRes (fmt : Option FFmt) (n : Nat) (e : Elems) : VRes :=
  let kept := ((List.range n).filter e.m).map e.a
  let outs := kept.mapIdx (fun j v => (j, v))
  ⟨outs, some kept.length, seenOf fmt outs⟩

/-- EXPAND: the next unread element of A at every selected index (06 R149). -/
def expandRes (fmt : Option FFmt) (n : Nat) (e : Elems) : VRes :=
  let outs := ((List.range n).filter e.m).mapIdx (fun j i => (i, e.a j))
  ⟨outs, some outs.length, seenOf fmt outs⟩

/-- Long accumulate (06 R153). DESIGN CHOICE (log entry 39): with GRP set the position of NF and RNG is that of the source element. -/
def laccRes (v : VWord) (e : Elems) : VRes :=
  let terms := (List.range v.n).map (fun i => laccTerm v.et (e.a i) v.gexp)
  let seen := terms.foldl (fun (st : Nat × Seen) t =>
    (st.1 + 1, { st.2 with nf := noteAt st.2.nf t.2.1 st.1, rng := noteAt st.2.rng t.2.2 st.1 })) (0, Seen.none)
  let base := fun i => if v.accIn then sint 128 (e.b i) else 0
  let outs :=
    if v.grp then [(0, wrapInt 128 (base 0 + terms.foldl (fun a t => a + t.1) 0))]
    else terms.mapIdx (fun i t => (i, wrapInt 128 (base i + t.1)))
  ⟨outs, none, seen.2⟩

/-- Every operation's results (06 R145 to R154). -/
def vResult (dn16 : Bool) (v : VWord) (e : Elems) : VRes :=
  let f := etFloat v.et
  let w := etBits v.et
  match v.op with
  | 0x4C => plainRes none v.n (fun i => b01 (cmpElem v.et (v.x 26 24) (e.a i) (e.b i)))
  | 0x4D => plainRes f v.n (fun i => if e.m i then e.a i else e.b i)
  | 0x4E => plainRes none v.n (fun i => logicOp (v.x 26 24) w (e.a i) (e.b i))
  | 0x4F => convRes v.n (fun i => cvtElem dn16 v.rm v.et v.dtype (e.a i)
      (if v.scaleEn then decodeSrc dn16 fp32 (e.b i) else valOfInt 1))
  | 0x50 => compressRes f v.n e
  | 0x51 => expandRes f v.n e
  | 0x52 => plainRes (match f with
        | none => none
        | some g => if v.rop = 1 ∨ v.rop = 2 then some g else some (redFmt v.et)) v.groups (fun g =>
      let idx := (List.range (min v.glen (v.n - g * v.glen))).map (g * v.glen + ·)
      redGroup v.rop v.et (idx.map e.a) (idx.map e.b))
  | 0x53 => laccRes v e
  | 0x54 => convRes v.n (fun i => roundInt128 dn16 v.rm v.dtype (sint 128 (e.a i)) (-v.gexp))
  | 0x55 => plainRes f v.n e.a
  | op => plainRes f v.n (fun i => match f with
      | some g => fltOp op g v.rm (e.a i) (e.b i) (e.c i)
      | none => intOp op w (e.a i) (e.b i) (e.c i))

/-- An index entry's value, not its pattern, is what shows in MAXIDX and MINIDX. DESIGN CHOICE (log entry 56): in a float ETYPE it is a
result that NF looks at, as is a value that VR.ST stores. -/
def idxSeen (v : VWord) (r : VRes) : VRes :=
  if v.op = 0x52 ∧ (v.rop = 3 ∨ v.rop = 4) then
    { r with seen := seenOf ((etFloat v.et).map (fun _ => fp32)) (r.outs.map (fun o => (o.1, o.2 / 2 ^ 32))) }
  else r

/-- Is the command a converting one (06 R160)? -/
def VWord.converting (v : VWord) : Bool := v.op == 0x4F || v.op == 0x54

/-- Flags, SCOUT1 and the held summary pointer after a word-format command (06 R160, R161; 02 R57 to R62). -/
def State.vNote (s : State) (k : Nat) (v : VWord) (seen : Seen) : State :=
  let s := if v.converting then s.scouted k true v.sr seen else s
  let s := s.numStat k (if v.reg then 3 else 2) seen
  if v.sum then
    let p := s.fld (Reg.VE_SUM k) F.VE_SUM_ADDR
    (s.tsWrite k (16 * p) seen.summary).setFld (Reg.VE_SUM k) F.VE_SUM_ADDR (p + 1)
  else s

/-! ## Stream mode -/

/-- A byte range: start, element bits, element count. -/
structure Span where
  at_ : Nat
  w : Nat
  n : Nat
  deriving DecidableEq, Repr

def Span.bytes (p : Span) : Nat := runBytes p.n p.w
def Span.badAlign (p : Span) : Bool := 8 ≤ p.w && p.at_ % (p.w / 8) != 0
def Span.beyond (p : Span) : Bool := tsBeyond p.at_ p.bytes

/-- The input ranges of a stream command; a broadcast counts its element 0 (06 R142). -/
def VWord.ins (v : VWord) : List Span :=
  [⟨v.sa, etBits v.et, if v.ba then min 1 v.n else v.n⟩] ++
  (match v.bIn with | some (w, n) => [⟨v.sb, w, if v.bb then min 1 n else n⟩] | none => []) ++
  (match v.cIn with | some (w, n) => [⟨v.sc, w, if v.bc then min 1 n else n⟩] | none => [])

/-- Its result range, and its count output. -/
def VWord.outs (v : VWord) : List Span :=
  [⟨v.dst, v.outBits, v.outCount⟩] ++ (if opCount v.op then [⟨v.sb, 32, 1⟩] else [])

/-- May the result be written over an input with the same start and element size (06 R142): element `i` depends on that
input's element `i` only. -/
def VWord.elementwise (v : VWord) : Bool := !opCount v.op && (v.op != 0x52 || v.glen == 1 || v.n == 1)

/-- Does some output overlap some input, and not in place? `sum` is the place of the summary, where the command writes one. -/
def VWord.overlap (v : VWord) (sum : Option Nat) : Bool :=
  v.outs.any (fun o => v.ins.any (fun i =>
    overlaps o.at_ o.bytes i.at_ i.bytes && !(v.elementwise && decide (o = i)))) ||
  (match sum with | some a => v.ins.any (fun i => overlaps a 16 i.at_ i.bytes) | none => false)

/-- The checks of a stream command, in order (06 R144). -/
def vsCheck (sum : Option Nat) (v : VWord) : Option Nat :=
  let all := v.ins ++ v.outs
  firstFail
    [ (!v.formatOk, 0x80),
      (v.n == 0 || all.any Span.badAlign, 0x82),
      (v.overlap sum, 0x88),
      (all.any Span.beyond, 0x04) ]

/-- Where a word-format command writes its summary: the held summary pointer (06 R161). -/
def State.sumAt (s : State) (k : Nat) (v : VWord) : Option Nat :=
  if v.sum then some (16 * s.fld (Reg.VE_SUM k) F.VE_SUM_ADDR) else none

/-- The operands of a stream command. -/
def State.vsElems (s : State) (k : Nat) (v : VWord) : Elems :=
  let run := fun (a w : Nat) (bc : Bool) (n : Nat) =>
    let bs := s.tsRead k a (runBytes (if bc then 1 else n) w)
    fun i => if w = 1 then b01 (maskAt bs (if bc then 0 else i)) else elemAt bs w (if bc then 0 else i)
  let a := run v.sa (etBits v.et) v.ba v.n
  let b := match v.bIn with | some (w, n) => run v.sb w v.bb n | none => fun _ => 0
  let c := match v.cIn with | some (w, n) => run v.sc w v.bc n | none => fun _ => 0
  ⟨a, b, c, fun i => c i == 1⟩

/-- Write results to the Tile Store (06 R141, R148). -/
def State.vsWrite (s : State) (k : Nat) (v : VWord) (r : VRes) : State :=
  let s :=
    if v.op = 0x4C then s.tsWrite k v.dst (packMask (r.outs.map (fun o => o.2 == 1)))
    else if v.op = 0x51 then
      r.outs.foldl (fun t o => t.tsWrite k (v.dst + o.1 * (v.outBits / 8)) (natLE (v.outBits / 8) o.2)) s
    else s.tsWrite k v.dst (packElems v.outBits (r.outs.map Prod.snd))
  match r.count with | some n => s.tsWrite k v.sb (natLE 4 n) | none => s

/-- Record a failed vector command in VE_STAT (06 R144, R166). -/
def State.veFail (s : State) (k op st : Nat) : State :=
  (s.setFld (Reg.VE_STAT k) F.VE_STAT_LAST_ERR st).setFld (Reg.VE_STAT k) F.VE_STAT_LAST_OP op

/-- The effect of a word-format stream command (06 R138 to R161). -/
def vsEffect (k : Nat) (w : Cmd) (s : State) : Except Nat (State × Nat) :=
  let v := decodeVS w
  match vsCheck (s.sumAt k v) v with
  | some st => .error st
  | none =>
    let r := idxSeen v (vResult s.dn16 v (s.vsElems k v))
    .ok ((s.vsWrite k v r).vNote k v r.seen, v.n)

/-- VS.SUMAT sets the held summary pointer (06 R161). DESIGN CHOICE (log entry 39): its N, also 0, is ignored. -/
def sumatEffect (k : Nat) (w : Cmd) (s : State) : Except Nat (State × Nat) :=
  .ok (s.setFld (Reg.VE_SUM k) F.VE_SUM_ADDR (cf w 95 73 / 16), 0)

/-- What a stream command abandoned after its first `n` results leaves (06 R164): those results, and their part of
SCOUT1. -/
def State.vsPartial (s : State) (k : Nat) (w : Cmd) (n : Nat) : State :=
  let v := decodeVS w
  match vsCheck (s.sumAt k v) v with
  | some _ => s
  | none =>
    let e := s.vsElems k v
    let r := vResult s.dn16 v e
    let whole := if v.outBits = 1 then n / 8 * 8 else if v.outBits = 4 then n / 2 * 2 else n
    let s := s.vsWrite k v { r with outs := r.outs.take whole, count := none }
    if v.converting then s.scout (Reg.SCOUT1 k) v.sr (vResult s.dn16 { v with n := min n v.n } e).seen.mag else s

/-! ## Register mode (06 R137, R158, R159) -/

/-- The byte address of vector register `r` in the register file. -/
def vBase (r : Nat) : Nat := 512 * r
/-- Element `i` of width `w` of a register. -/
def Slot.vElem (c : Slot) (r w i : Nat) : Nat := readLE zeroByte c.v (vBase r + i * (w / 8)) (w / 8)
/-- Mask bit `i` of a register. -/
def Slot.vMask (c : Slot) (r i : Nat) : Bool := bit (sget zeroByte c.v (vBase r + i / 8)).toNat (i % 8)
/-- Write an element of a register. -/
def Slot.setVElem (c : Slot) (r w i x : Nat) : Slot :=
  { c with v := writeBytes zeroByte c.v (vBase r + i * (w / 8)) (natLE (w / 8) x) }
/-- Write a mask bit of a register. -/
def Slot.setVMask (c : Slot) (r i : Nat) (b : Bool) : Slot :=
  let a := vBase r + i / 8
  let o := (sget zeroByte c.v a).toNat
  let n := if bit o (i % 8) == b then o else if b then o + 2 ^ (i % 8) else o - 2 ^ (i % 8)
  { c with v := sset zeroByte c.v a (BitVec.ofNat 8 n) }

/-- The widest element a register command reads or writes; a count output is no element (06 R140). -/
def VWord.widest (v : VWord) : Nat :=
  max (max (etBits v.et) (if v.op = 0x4C then 1 else v.outBits)) (match v.bIn with | some (w, _) => w | none => 1)

/-- The conversions that read INT4 from the Tile Store (06 R150). -/
def VWord.fromTs (v : VWord) : Bool := v.op == 0x4F && v.et == 0

/-- The checks of a word-format register command, in order (06 R136, R140, R144). INT4 never enters a register. -/
def vrCheck (lead : Bool) (v : VWord) : Option Nat :=
  firstFail
    [ (!v.formatOk || (v.op == 0x4F && v.dtype == 0), 0x80),
      (!lead, 0x89),
      (v.n == 0 || decide (4096 < v.n * v.widest), 0x82),
      (v.fromTs && tsBeyond v.addr (runBytes (if v.ba then min 1 v.n else v.n) 4), 0x04) ]

/-- The operands of a register command. -/
def State.vrElems (s : State) (k : Nat) (v : VWord) : Elems :=
  let c := s.slot k
  let run := fun (r w : Nat) (bc : Bool) => fun i => c.vElem r w (if bc then 0 else i)
  let a := if v.fromTs then
      let bs := s.tsRead k v.addr (runBytes (if v.ba then 1 else v.n) 4)
      fun i => elemAt bs 4 (if v.ba then 0 else i)
    else run v.sa (etBits v.et) v.ba
  let b := match v.bIn with | some (w, _) => run v.sb w v.bb | none => fun _ => 0
  ⟨a, b, run v.sc (etBits v.et) v.bc, fun i => c.vMask v.sc (if v.bc then 0 else i)⟩

/-- Write results to VD and a count to VB (06 R158). DESIGN CHOICE (log entry 39): VR.CMP keeps the bits of VD from N upwards, also
those of the last mask byte. -/
def State.vrWrite (s : State) (k : Nat) (v : VWord) (r : VRes) : State :=
  s.modSlot k (fun c =>
    let c := r.outs.foldl (fun c o =>
      if v.op = 0x4C then c.setVMask v.dst o.1 (o.2 == 1) else c.setVElem v.dst v.outBits o.1 o.2) c
    match r.count with | some n => c.setVElem v.sb 32 0 n | none => c)

/-- The effect of a word-format register command (06 R158). -/
def vrEffect (k : Nat) (w : Cmd) (s : State) : Except Nat (State × Nat) :=
  let v := decodeVR w
  match vrCheck (s.isLead k) v with
  | some st => .error st
  | none =>
    let r := idxSeen v (vResult s.dn16 v (s.vrElems k v))
    .ok ((s.vrWrite k v r).vNote k v r.seen, v.n)

/-- The checks of VR.LD and VR.ST (06 R140, R159). -/
def vrMemCheck (lead store : Bool) (v : VWord) : Option Nat :=
  let sz := etBits v.et / 8
  firstFail
    [ (!(etInt v.et || etFlt v.et), 0x80),
      (!lead, 0x89),
      (v.n == 0 || decide (4096 < v.n * etBits v.et) || v.addr % sz != 0 || v.stride % sz != 0 || (store && v.stride == 0), 0x82),
      (tsBeyond (v.addr + (v.n - 1) * v.stride) sz, 0x04) ]

/-- VR.LD (06 R159). -/
def vrLdEffect (k : Nat) (w : Cmd) (s : State) : Except Nat (State × Nat) :=
  let v := decodeVR w
  let sz := etBits v.et / 8
  match vrMemCheck (s.isLead k) false v with
  | some st => .error st
  | none =>
    let outs := (List.range v.n).map (fun i => (i, s.tsLE k (v.addr + i * v.stride) sz))
    .ok ((s.modSlot k (fun c => outs.foldl (fun c o => c.setVElem v.dst (8 * sz) o.1 o.2) c)).vNote k v
      (seenOf (etFloat v.et) outs), v.n)

/-- VR.ST (06 R159). -/
def vrStEffect (k : Nat) (w : Cmd) (s : State) : Except Nat (State × Nat) :=
  let v := decodeVR w
  let sz := etBits v.et / 8
  match vrMemCheck (s.isLead k) true v with
  | some st => .error st
  | none =>
    let outs := (List.range v.n).map (fun i => (i, (s.slot k).vElem v.dst (8 * sz) i))
    .ok ((outs.foldl (fun t o => t.tsWrite k (v.addr + o.1 * v.stride) (natLE sz o.2)) s).vNote k v
      (seenOf (etFloat v.et) outs), v.n)

end Sys2Proof.Machine
end

