-- ==== Sys2Proof/Machine/Nmu.lean ====
section
/-!
DEFINITION. Machine/Nmu.lean: the operation engine of a Near-Memory Unit: commands and their checks, accesses to External
Memory, the units of every operation, completion, scale collections, aborts (12 R316 to R336, R343).
-/

namespace Sys2Proof.Machine

/-! ## Commands and parameter blocks (R319 to R321) -/

/-- Payload word 0 of a command. -/
def Msg.nmuWord (m : Msg) : Nat := (m.pay.getD 0 0).toNat
def Msg.nop (m : Msg) : Nat := bits m.nmuWord 56 8
def Msg.sr (m : Msg) : Bool := bit m.nmuWord 55
def Msg.waitEn (m : Msg) : Bool := bit m.nmuWord 54
def Msg.pblk (m : Msg) : Nat := bits m.nmuWord 0 22
/-- The class of a command's requests for External Memory: by PRIO (R319, 11 R299). -/
def Msg.nmuCls (m : Msg) : Nat := clsPrio (bits m.nmuWord 52 2)
/-- The fleet a command runs in. -/
def Msg.nmuFleet (m : Msg) : Nat := if m.kind = 1 then bits m.nmuWord 48 4 else m.fleet
/-- Is the command one of the reduction engine's? -/
def Msg.isRed (m : Msg) : Bool := m.nop == 0x50 || m.nop == 0x51

/-- A parameter block's fields. -/
def PBlk.ofBytes (b : List Byte) : PBlk where
  opa := blk b 0 8
  opb := blk b 8 8
  opc := blk b 16 8
  n := blk b 24 4
  k := blk b 28 2
  str := blk b 30 2
  p1 := blk b 32 4
  p2 := blk b 36 4
  step := blk b 40 4
  x := blk b 44 4
  dkind := blk b 48 1 % 4
  did := blk b 49 1
  dgen := blk b 50 1
  mode := blk b 51 1
  daddr := blk b 52 4
  last := blk b 56 8

/-- The parameter block a command names. -/
def State.pblkOf (s : State) (n : Nat) (m : Msg) : PBlk := PBlk.ofBytes (s.stRead n m.pblk 64)

/-- Weights of an MV: INT8 or INT4. -/
def PBlk.wBits (b : PBlk) : Nat := if bit b.mode 0 then 8 else 4
def PBlk.cols (b : PBlk) : Bool := bit b.mode 1
def PBlk.nv (b : PBlk) : Nat := bits b.mode 2 4 + 1
/-- Source and destination types of a CVT. -/
def PBlk.srcT (b : PBlk) : Nat := b.mode % 16
def PBlk.dstT (b : PBlk) : Nat := b.mode / 16
/-- Element bytes of an IRED. -/
def PBlk.iBytes (b : PBlk) : Nat := if bit b.mode 2 then 8 else 4
/-- Bytes of a list entry of EMB and SCATTER. -/
def PBlk.embEntry (b : PBlk) : Nat := cdiv (16 + 4 * b.k) 16 * 16
def PBlk.scatEntry (b : PBlk) : Nat := cdiv (16 + b.k) 16 * 16

/-- Units of commit of an operation (R320). -/
def PBlk.units (b : PBlk) (nop : Nat) : Nat :=
  match nop with
  | 0x10 => if b.cols then 1 else b.n
  | 0x20 => cdiv b.n 256
  | 0x22 => cdiv b.n b.k
  | 0x30 => cdiv b.n 256
  | 0x31 => cdiv b.n 64
  | 0x01 => 1
  | _ => b.n

/-! ## Checks at the start (R322) -/

/-- The pairs of types that the NMU's CVT offers (02 R52). -/
def nmuPair (s d : Nat) : Bool :=
  match s with
  | 7 => d == 1 || d == 0 || d == 6 || d == 5
  | 5 => d == 7
  | 6 => d == 7
  | 1 => d == 7
  | 0 => d == 7
  | _ => false

/-- A range of staging that leaves the general area. -/
def stOut (a n : Nat) : Bool := decide (generalArea < a + n)

/-- Extent of a command's output at its destination. -/
def PBlk.outExtent (b : PBlk) (nop : Nat) : Nat :=
  match nop with
  | 0x10 => (b.nv - 1) * b.p1 + 4 * (if b.cols then b.k else b.n)
  | 0x22 => cdiv (cdiv b.n b.k) 8
  | 0x40 => b.n * b.k
  | _ => 0

/-- Extent of a command's input at X. -/
def PBlk.inExtent (b : PBlk) (nop : Nat) : Nat :=
  match nop with
  | 0x10 => (b.nv - 1) * b.p2 + (if b.cols then b.n else b.k)
  | 0x21 => b.n * b.embEntry
  | 0x40 => 4 * b.n
  | 0x41 => b.n * b.scatEntry
  | _ => 0

/-- Does an operation break an alignment rule, or have a count out of range? Fields it does not use are ignored (R321). -/
def PBlk.shapeBad (b : PBlk) (nop : Nat) : Bool :=
  (nop != 0x22 && decide (2 ^ 48 ≤ b.opa)) || b.n == 0 ||
  (match nop with
  | 0x10 => b.k == 0 || b.opa % 256 != 0 || decide (b.str * 16 < cdiv (b.k * b.wBits) 8)
  | 0x20 => b.opa % 1024 != 0 || b.opb % 1024 != 0 || decide (2 ^ 48 ≤ b.opb) ||
      (bit b.mode 0 && (b.opc % 256 != 0 || decide (2 ^ 48 ≤ b.opc) || b.last % 16 != 0 || decide (2 ^ 48 ≤ b.last)))
  | 0x21 => b.k == 0 || decide (1024 < b.k) || decide (2 ^ 48 ≤ b.opc) || stOut b.daddr 128
  | 0x22 => b.k == 0 || decide (2 ^ 48 ≤ b.opc)
  | 0x30 => decide (2 ^ 48 ≤ b.opb) || b.opa % (32 * etBits b.srcT) != 0 || b.opb % (32 * etBits b.dstT) != 0
  | 0x31 => b.k == 0 || decide (16 < b.k) || (!bit b.mode 3 && decide (2 ^ 48 ≤ b.opb))
  | 0x40 => b.k == 0 || decide (4096 < b.k)
  | 0x41 => decide (b.k < 16) || decide (4096 < b.k)
  | _ => false) ||
  (b.inExtent nop != 0 && stOut b.x (b.inExtent nop)) ||
  (b.dkind == 3 && (nop == 0x10 || nop == 0x22 || nop == 0x40) && stOut b.daddr (b.outExtent nop))

/-- The operation engine's operations. -/
def opNops : List Nat := [0x01, 0x10, 0x20, 0x21, 0x22, 0x30, 0x31, 0x40, 0x41]

/-- Is an operation one that delivers? -/
def delivers (nop : Nat) : Bool := nop == 0x10 || nop == 0x22 || nop == 0x40

/-- The checks of an operation-engine command in their order. -/
def State.nmuCheck (s : State) (n : Nat) (m : Msg) : Option Nat :=
  let nop := m.nop
  let b := s.pblkOf n m
  let fl := m.nmuFleet
  let st := nop == 0x01
  let cn := Reg.CN_CFG (b.did % 32)
  firstFail
    [ (!opNops.contains nop || (nop == 0x20 && m.waitEn) || (nop == 0x30 && !nmuPair b.srcT b.dstT) ||
        (nop == 0x31 && b.mode % 4 == 3), 0x80),
      (if st then m.pblk % 16 != 0 || stOut m.pblk 16
       else m.pblk % 64 != 0 || stOut m.pblk 64 || b.shapeBad nop, 0x82),
      (!st && delivers nop && ((b.dkind == 1 && (decide (64 ≤ b.did) || (s.slotOf b.did).isNone || s.fleetOf b.did != some fl)) ||
        (b.dkind == 2 && (decide (32 ≤ b.did) || !s.flag cn F.CN_CFG_VALID || s.fld cn F.CN_CFG_FLEET != fl))), 0x04),
      (!st && delivers nop && ((b.dkind == 1 && s.behind (.core b.did)) || (b.dkind == 2 && s.behind (.cn b.did))), 0x0E) ]

/-! ## Accesses to External Memory (R317) -/

def nmuSets : Nat := 64
def nmuWays : Nat := 8

/-- Translate for an NMU; an access reaches LOCAL pages only. -/
def State.nmuXlate (s : State) (n fleet va : Nat) (write : Bool) : (Nat × Nat) × State :=
  let r := s.translate (s.nmu n).tlb nmuSets nmuWays fleet va ⟨write, true, false⟩ ⟨2, n, 0xFF⟩
  let s := r.2.2.modNmu n (fun c => { c with tlb := r.2.1 })
  match r.1 with
  | (0, .em pa) => ((0, pa), s)
  | (0, _) => ((0x04, 0), s)
  | (st, _) => ((st, 0), s)

/-- Translate a range, 64 KiB at a time at most: the pieces as (physical address, length). The fuel is the pieces at most. -/
def State.nmuRange (s : State) (n fleet : Nat) (write : Bool) : Nat → Nat → Nat → (Nat × List (Nat × Nat)) × State
  | 0, _, _ => ((0, []), s)
  | f + 1, va, len =>
    if len = 0 then ((0, []), s)
    else
      let m := min len (65536 - va % 65536)
      match s.nmuXlate n fleet va write with
      | ((0, pa), s) =>
        let r := s.nmuRange n fleet write f (va + m) (len - m)
        ((r.1.1, (pa, m) :: r.1.2), r.2)
      | ((st, _), s) => ((st, []), s)

def State.nmuPieces (s : State) (n fleet va len : Nat) (write : Bool) : (Nat × List (Nat × Nat)) × State :=
  if 2 ^ 48 < va + len then ((0x04, []), s) else s.nmuRange n fleet write (len / 65536 + 2) va len

/-- Do physical pieces lie wholly on one stack? -/
def State.onStack (s : State) (stack : Nat) (ps : List (Nat × Nat)) : Bool :=
  ps.all (fun p => (piecesOf p.1 p.2).all (fun q => match s.place q.1 with | some pl => pl.stack == stack | none => false))

/-- Count the blocks an NMU reads. -/
def State.nmuRdb (s : State) (n blocks : Nat) : State :=
  s.perfAdd (Reg.NMU_RDB n) blocks (Reg.NMU_STAT n) F.NMU_STAT_RDB_OVF F.NMU_STAT_OVF_AE

/-- Read physical pieces in class `cls`. -/
def State.nmuReadPa (s : State) (n cls : Nat) (ps : List (Nat × Nat)) : Nat × List Byte × State :=
  ps.foldl (fun (acc : Nat × List Byte × State) p =>
    if acc.1 ≠ 0 then acc
    else
      let r := (acc.2.2.nmuRdb n (piecesOf p.1 p.2).length).emLoadBy (.nmu n) cls p.1 p.2
      (r.1, acc.2.1 ++ r.2.1, r.2.2)) (0, [], s)

/-- Read a virtual range: its status and bytes. -/
def State.nmuLoad (s : State) (n cls fleet va len : Nat) : Nat × List Byte × State :=
  match s.nmuPieces n fleet va len false with
  | ((0, ps), s) => s.nmuReadPa n cls ps
  | ((st, _), s) => (st, [], s)

/-- Write bytes over physical pieces. -/
def State.nmuWritePa (s : State) (n cls : Nat) (ps : List (Nat × Nat)) (bs : List Byte) : Nat × State :=
  (ps.foldl (fun (acc : (Nat × State) × Nat) p =>
    if acc.1.1 ≠ 0 then acc
    else (acc.1.2.emStoreBy (.nmu n) cls p.1 ((bs.drop acc.2).take p.2), acc.2 + p.2)) ((0, s), 0)).1

/-- Write what a unit writes, together: every address is translated before the first byte is written, and a unit that fails
writes nothing (R324). -/
def State.nmuStores (s : State) (n cls fleet : Nat) (ws : List (Nat × List Byte)) : Nat × State :=
  let x := ws.foldl (fun (acc : Nat × List (List (Nat × Nat) × List Byte) × State) (w : Nat × List Byte) =>
    if acc.1 ≠ 0 then acc
    else
      let r := acc.2.2.nmuPieces n fleet w.1 w.2.length true
      (r.1.1, acc.2.1 ++ [(r.1.2, w.2)], r.2)) (0, [], s)
  if x.1 ≠ 0 then (x.1, x.2.2)
  else
    let y := x.2.1.foldl (fun (acc : Nat × State) w => if acc.1 ≠ 0 then acc else acc.2.nmuWritePa n cls w.1 w.2) (0, x.2.2)
    if y.1 = 0 then y else (y.1, { x.2.2 with reports := y.2.reports, asks := y.2.asks, got := y.2.got })

/-! ## Delivery (R323, R324, R327) -/

/-- Cut bytes into packets of at most 256. -/
def packets (a : Nat) (bs : List Byte) : List (Nat × List Byte) :=
  (List.range (cdiv bs.length 256)).map (fun i => (a + 256 * i, (bs.drop (256 * i)).take 256))

/-- Deliver bytes to a command's destination, at an offset from DADDR. Bytes for a core count as delivered once they have landed. -/
def State.nmuDeliver (s : State) (n : Nat) (r : Run) (off : Nat) (bs : List Byte) : State × Run :=
  let a := r.blk.daddr + off
  let ps := packets a bs
  match r.blk.dkind with
  | 1 => (ps.foldl (fun (t : State) p =>
      t.send .data (.nmu n) (.core r.blk.did) (.deliver r.msg.entry p.1 p.2 none)) s,
      { r with outstanding := r.outstanding + ps.length })
  | 2 => (ps.foldl (fun (t : State) p => t.send .data (.nmu n) (.cn r.blk.did) (.contrib r.blk.dgen p.1 p.2)) s, r)
  | 3 => ((s.stLand n a bs).2, r)
  | _ => (s, r)

/-! ## Units -/

/-- The lower of two positions. -/
def noteMin (o : Option Nat) (b : Bool) (pos : Nat) : Option Nat :=
  if b then (match o with | some p => some (min p pos) | none => some pos) else o

/-- Add a product to an accumulator of 32 bits, keeping whether an addition overflowed (R326). -/
def macStep (a : Int × Bool) (p : Int) : Int × Bool :=
  let t := a.1 + p
  if -2 ^ 31 ≤ t ∧ t < 2 ^ 31 then (t, a.2) else (sint 32 (wrapInt 32 t), true)

/-- The weights of a row, and an input vector's elements. -/
def PBlk.weight (b : PBlk) (row : List Byte) (k : Nat) : Int := sint b.wBits (elemAt row b.wBits k)
def State.nmuVec (s : State) (n : Nat) (b : PBlk) (v j : Nat) : Int := sint 8 (leNat (s.stRead n (b.x + v * b.p2 + j) 1))

/-- The blocks of the own stack that physical pieces lie in, each with the part wanted of it. -/
def State.ownBlocks (s : State) (ps : List (Nat × Nat)) : List (Nat × Nat × Nat) :=
  ps.flatMap (fun p => (piecesOf p.1 p.2).filterMap (fun q => (s.place q.1).map (fun pl => (pl.loc / 256, pl.loc % 256, q.2))))

/-- Bytes of a row that the prefetch window holds whole (R316). -/
def fromWindow (pre : Sparse (List Byte)) (bs : List (Nat × Nat × Nat)) : Option (List Byte) :=
  if bs.all (fun b => (tfind pre b.1).isSome) then some (bs.flatMap (fun b => ((tget [] pre b.1).drop b.2.1).take b.2.2)) else none

/-- Where row `r` of weights lies, and how long it is. -/
def PBlk.rowAt (b : PBlk) (r : Nat) : Nat := b.opa + r * b.str * 16
def PBlk.rowLen (b : PBlk) : Nat := cdiv (b.k * b.wBits) 8

/-- The blocks of row `i` that no later row of the command reads: all of them, but for the last one where the next row begins in it. -/
def PBlk.usedUp (b : PBlk) (i : Nat) (bs : List (Nat × Nat × Nat)) : List (Nat × Nat × Nat) :=
  if i + 1 < b.n ∧ b.rowAt (i + 1) / 256 ≤ (b.rowAt i + b.rowLen - 1) / 256 then bs.dropLast else bs

/-- Blocks that leave the prefetch window, or will not enter it. -/
def State.preDrop (s : State) (n : Nat) (bs : List Nat) : State :=
  s.modNmu n (fun c => { c with pre := bs.foldl (fun t b => serase b t) c.pre, preAsked := c.preAsked.filter (fun b => !bs.contains b) })

/-- The bytes of a row of weights, which must lie on the own stack (R317): from the prefetch window where it holds them, else from the
stack. The blocks that no later row reads leave the window: another command reads them anew (R323). -/
def State.mvRow (s : State) (n : Nat) (r : Run) (i : Nat) : Nat × List Byte × State :=
  match s.nmuPieces n r.fleet (r.blk.rowAt i) r.blk.rowLen false with
  | ((0, ps), s) =>
    if !s.onStack n ps then (0x90, [], s)
    else
      let bs := s.ownBlocks ps
      let gone := (r.blk.usedUp i bs).map (fun b => b.1)
      (match fromWindow (s.nmu n).pre bs with
      | some row => (0, row, s.preDrop n gone)
      | none => (s.preDrop n gone).nmuReadPa n r.msg.nmuCls ps)
  | ((st, _), s) => (st, [], s)

/-- Count products of an MV. -/
def State.nmuMac (s : State) (n count : Nat) : State :=
  s.perfAdd (Reg.NMU_MAC n) count (Reg.NMU_STAT n) F.NMU_STAT_MAC_OVF F.NMU_STAT_OVF_AE

/-- One row of a ROWS product (R326, R327). -/
def State.mvRowUnit (s : State) (n : Nat) (r : Run) : State × Run :=
  let b := r.blk
  match s.mvRow n r r.next with
  | (0, row, s) =>
    (List.range b.nv).foldl (fun (acc : State × Run) v =>
      let o := (List.range b.k).foldl (fun a k => macStep a (b.weight row k * s.nmuVec n b v k)) (0, false)
      acc.1.nmuDeliver n { acc.2 with wrap := noteMin acc.2.wrap o.2 (v * b.n + r.next) } (v * b.p1 + 4 * r.next)
        (natLE 4 (wrapInt 32 o.1))) (s.nmuMac n (b.k * b.nv), r)
  | (st, _, s) => (s, { r with status := st })

/-- A COLS product, all at once (R326, R327); one that fails has formed the products of the rows before. -/
def State.mvColsUnit (s : State) (n : Nat) (r : Run) : State × Run :=
  let b := r.blk
  let x := (List.range b.n).foldl (fun (acc : Nat × List (List (Int × Bool)) × State) i =>
    if acc.1 ≠ 0 then acc
    else
      match acc.2.2.mvRow n r i with
      | (0, row, s) => (0, acc.2.1.zipIdx.map (fun (p : List (Int × Bool) × Nat) =>
          p.1.zipIdx.map (fun (q : (Int × Bool) × Nat) => macStep q.1 (s.nmuVec n b p.2 i * b.weight row q.2))),
          s.nmuMac n (b.k * b.nv))
      | (st, _, s) => (st, [], s)) (0, List.replicate b.nv (List.replicate b.k (0, false)), s)
  if x.1 ≠ 0 then (x.2.2, { r with status := x.1 })
  else
    x.2.1.zipIdx.foldl (fun (acc : State × Run) (p : List (Int × Bool) × Nat) =>
      let w := p.1.zipIdx.foldl (fun (o : Option Nat) (q : (Int × Bool) × Nat) => noteMin o q.1.2 (p.2 * b.k + q.2)) acc.2.wrap
      acc.1.nmuDeliver n { acc.2 with wrap := w } (p.2 * b.p1) (p.1.flatMap (fun q => natLE 4 (wrapInt 32 q.1))))
      (x.2.2, r)

/-- FP32 arithmetic of the NMU: one rounding, to nearest (R329, 06 R146). -/
def fAdd (a b : Nat) : Nat := fltOp 0x40 fp32 .rne a b 0
def fSub (a b : Nat) : Nat := fltOp 0x41 fp32 .rne a b 0
def fMul (a b : Nat) : Nat := fltOp 0x42 fp32 .rne a b 0

/-- One element of the optimiser update: the new w (R329). -/
def sgdElem (lr decay g w : Nat) : Nat := fSub (fMul w decay) (fMul lr g)

/-- The INT8 copy of an element: sat127 of the once-rounded exact product with Qcur (R329, 02 R65). -/
def sgdCopy (dn16 : Bool) (qcur w : Nat) : Conv :=
  let r := decodeSrc dn16 fp32 w
  convInt .rne (int8Lo dn16) 127 8 r (scaleBy r (decodeSrc dn16 fp32 qcur))

/-- Words of 32 bits. -/
def word32s (bs : List Byte) : List Nat := (List.range (bs.length / 4)).map (fun i => leNat ((bs.drop (4 * i)).take 4))

/-- SGD over one unit of at most 256 elements, `x`: g at OPA, w and q where the command says (R329). The unit
belongs to the share only if its g lies on the own stack (R331); `qen` writes the copy. A scale Qcur that is a NaN or infinite makes the
rounded product a NaN, which is recorded (02 R48, R50). DESIGN CHOICE (log entry 39): in DN-16 mode the scout takes |w[e]| of the element
as it is, a subnormal one included, where 02 R65 reads it as zero. -/
def State.sgdUnit (s : State) (n : Nat) (r : Run) (x : Nat) (qen : Bool) (elems : Nat) : State × Run :=
  let b := r.blk
  let cnt := min 256 (elems - 256 * x)
  match s.nmuPieces n r.fleet (b.opa + 1024 * x) (4 * cnt) false with
  | ((0, gp), s) =>
    if !s.onStack n gp then (s, r)
    else
      match s.nmuPieces n r.fleet (b.opb + 1024 * x) (4 * cnt) false with
      | ((0, wp), s) =>
        if !s.onStack n wp then (s, { r with status := 0x90 })
        else
          (match s.nmuReadPa n r.msg.nmuCls gp with
          | (0, gb, s) =>
            (match s.nmuReadPa n r.msg.nmuCls wp with
            | (0, wb, s) =>
              let ws := List.zipWith (sgdElem b.p1 b.p2) (word32s gb) (word32s wb)
              let cs := ws.map (sgdCopy s.dn16 (bits r.scale.toNat 32 32))
              let wr := [(b.opb + 1024 * x, ws.flatMap (natLE 4))] ++
                (if qen then [(b.opc + 256 * x, cs.flatMap (fun c => natLE 1 c.code))] else [])
              match s.nmuStores n r.msg.nmuCls r.fleet wr with
              | (0, s) =>
                let mags := if qen then ws.map (fun w => scoutMag (decodeF fp32 w)) else []
                let mx := mags.foldl scoutMax 0
                let nf := ws.zipIdx.foldl (fun o (p : Nat × Nat) => noteMin o (nonFiniteF fp32 p.1) (256 * x + p.2)) r.nf
                let nf := if qen then cs.zipIdx.foldl (fun o (p : Conv × Nat) => noteMin o p.1.nf (256 * x + p.2)) nf else nf
                let rg := if qen then cs.zipIdx.foldl (fun o (p : Conv × Nat) => noteMin o p.1.rng (256 * x + p.2)) r.rng else r.rng
                (if qen then s.scout (Reg.NMU_SCOUT n) false mx else s,
                  { r with doneU := r.doneU + 1, scout := max r.scout mx, nf := nf, rng := rg })
              | (st, s) => (s, { r with status := st })
            | (st, _, s) => (s, { r with status := st }))
          | (st, _, s) => (s, { r with status := st }))
      | ((st, _), s) => (s, { r with status := st })
  | ((st, _), s) => (s, { r with status := st })

/-- The row of an embedding after the decay of `miss` steps it missed (R332). -/
def decayRow (tab row : List Nat) (miss : Nat) : List Nat :=
  (List.range 32).foldl (fun r j => if bit miss j then r.map (fun e => fMul e (tab.getD j 0)) else r) row

/-- One list entry of EMB (R332). -/
def State.embUnit (s : State) (n : Nat) (r : Run) : State × Run :=
  let b := r.blk
  let ent := s.stRead n (b.x + r.next * b.embEntry) b.embEntry
  let i := leNat (ent.take 4)
  let grad := word32s ((ent.drop 16).take (4 * b.k))
  let tab := word32s (s.stRead n b.daddr 128)
  let ra := b.opa + i * b.str * 16
  let sa := b.opc + 4 * i
  match s.nmuLoad n r.msg.nmuCls r.fleet ra (4 * b.k) with
  | (0, rowb, s) =>
    (match s.nmuLoad n r.msg.nmuCls r.fleet sa 4 with
    | (0, sb, s) =>
      let stamp := leNat sb
      let row := decayRow tab (word32s rowb) (b.step - stamp)
      let row := List.zipWith (fun w g => fSub w (fMul b.p1 g)) row grad
      (match s.nmuStores n r.msg.nmuCls r.fleet [(ra, row.flatMap (natLE 4)), (sa, natLE 4 (max stamp b.step))] with
      | (0, s) => (s, { r with doneU := r.doneU + 1 })
      | (st, s) => (s, { r with status := st }))
    | (st, _, s) => (s, { r with status := st }))
  | (st, _, s) => (s, { r with status := st })

/-- One group of SCAN: its bit; bits are delivered 256 B at a time (R333). -/
def State.scanUnit (s : State) (n : Nat) (r : Run) : State × Run :=
  let b := r.blk
  let cnt := min b.k (b.n - b.k * r.next)
  match s.nmuLoad n r.msg.nmuCls r.fleet (b.opc + 4 * b.k * r.next) (4 * cnt) with
  | (0, bs, s) =>
    let set := (word32s bs).all (fun t => decide ((b.p2 : Int) ≤ (b.step : Int) - (t : Int)))
    let hold := if r.next % 8 = 0 then r.hold ++ [BitVec.ofNat 8 (b01 set)]
      else r.hold.dropLast ++ [BitVec.ofNat 8 ((r.hold.getLastD 0).toNat + b01 set * 2 ^ (r.next % 8))]
    let r := { r with doneU := r.doneU + 1, hold := hold }
    if r.next % 2048 = 2047 then
      let d := s.nmuDeliver n r (r.next / 2048 * 256) hold
      (d.1, { d.2 with hold := [] })
    else (s, r)
  | (st, _, s) => (s, { r with status := st })

/-- One unit of CVT (R335). -/
def State.cvtUnit (s : State) (n : Nat) (r : Run) : State × Run :=
  let b := r.blk
  let w := etBits b.srcT
  let v := etBits b.dstT
  let cnt := min 256 (b.n - 256 * r.next)
  match s.nmuLoad n r.msg.nmuCls r.fleet (b.opa + 32 * w * r.next) (cdiv (cnt * w) 8) with
  | (0, bs, s) =>
    let sc := if cvtScaled b.srcT b.dstT then decodeSrc s.dn16 fp32 b.p1 else valOfInt 1
    let cs := (List.range cnt).map (fun i => cvtElem s.dn16 .rne b.srcT b.dstT (elemAt bs w i) sc)
    (match s.nmuStores n r.msg.nmuCls r.fleet [(b.opb + 32 * v * r.next, packElems v (cs.map (fun c => c.code)))] with
    | (0, s) =>
      let mx := cs.foldl (fun m c => scoutMax m c.mag) 0
      let base := 256 * r.next
      (s.scout (Reg.NMU_SCOUT n) false mx,
        { r with
          doneU := r.doneU + 1
          scout := max r.scout mx
          nf := cs.zipIdx.foldl (fun o (p : Conv × Nat) => noteMin o p.1.nf (base + p.2)) r.nf
          rng := cs.zipIdx.foldl (fun o (p : Conv × Nat) => noteMin o p.1.rng (base + p.2)) r.rng })
    | (st, s) => (s, { r with status := st }))
  | (st, _, s) => (s, { r with status := st })

/-- Combine two integers of `w` bits (R336). -/
def iredOp (mode w a b : Nat) : Nat :=
  match mode % 4 with
  | 0 => (a + b) % 2 ^ w
  | 1 => if sint w a ≤ sint w b then a else b
  | _ => if sint w a ≤ sint w b then b else a

/-- One unit of IRED (R336). -/
def State.iredUnit (s : State) (n : Nat) (r : Run) : State × Run :=
  let b := r.blk
  let eb := b.iBytes
  let cnt := min 64 (b.n - 64 * r.next)
  let elems := fun (bs : List Byte) => (List.range cnt).map (fun i => leNat ((bs.drop (eb * i)).take eb))
  let x := (List.range b.k).foldl (fun (acc : Nat × List Nat × State) i =>
    if acc.1 ≠ 0 then acc
    else
      match acc.2.2.nmuLoad n r.msg.nmuCls r.fleet (b.opa + i * b.str * 4096 + 64 * eb * r.next) (cnt * eb) with
      | (0, bs, s) => (0, if i = 0 then elems bs else List.zipWith (iredOp b.mode (8 * eb)) acc.2.1 (elems bs), s)
      | (st, _, s) => (st, [], s)) (0, [], s)
  if x.1 ≠ 0 then (x.2.2, { r with status := x.1 })
  else if bit b.mode 3 then
    let v := match x.2.1 with
      | [] => r.scalar
      | e :: es => if r.next = 0 then es.foldl (iredOp b.mode (8 * eb)) e else (e :: es).foldl (iredOp b.mode (8 * eb)) r.scalar
    (x.2.2, { r with doneU := r.doneU + 1, scalar := v })
  else
    match x.2.2.nmuStores n r.msg.nmuCls r.fleet [(b.opb + 64 * eb * r.next, x.2.1.flatMap (natLE eb))] with
    | (0, s) => (s, { r with doneU := r.doneU + 1 })
    | (st, s) => (s, { r with status := st })

/-- One index of GATHER (R334). -/
def State.gatherUnit (s : State) (n : Nat) (r : Run) : State × Run :=
  let b := r.blk
  let i := leNat (s.stRead n (b.x + 4 * r.next) 4)
  match s.nmuLoad n r.msg.nmuCls r.fleet (b.opa + i * b.str * 16) b.k with
  | (0, bs, s) => s.nmuDeliver n { r with doneU := r.doneU + 1 } (r.next * b.k) bs
  | (st, _, s) => (s, { r with status := st })

/-- One entry of SCATTER (R334). -/
def State.scatterUnit (s : State) (n : Nat) (r : Run) : State × Run :=
  let b := r.blk
  let ent := s.stRead n (b.x + r.next * b.scatEntry) (16 + b.k)
  match s.nmuStores n r.msg.nmuCls r.fleet [(b.opa + leNat (ent.take 4) * b.str * 16, ent.drop 16)] with
  | (0, s) => (s, { r with doneU := r.doneU + 1 })
  | (st, s) => (s, { r with status := st })

/-- The unit a command is at; `next` is not yet advanced. -/
def State.nmuUnit (s : State) (n : Nat) (r : Run) : State × Run :=
  match r.msg.nop with
  | 0x01 =>
    ((s.stLand n r.msg.pblk (natLE 8 (r.msg.pay.getD 1 0).toNat ++ natLE 8 (r.msg.pay.getD 2 0).toNat)).2,
      { r with doneU := r.doneU + 1 })
  | 0x10 =>
    let x := if r.blk.cols then s.mvColsUnit n r else s.mvRowUnit n r
    (x.1, if x.2.status = 0 then { x.2 with doneU := x.2.doneU + 1 } else x.2)
  | 0x20 => s.sgdUnit n r r.next (bit r.blk.mode 0) r.blk.n
  | 0x21 => s.embUnit n r
  | 0x22 => s.scanUnit n r
  | 0x30 => s.cvtUnit n r
  | 0x31 => s.iredUnit n r
  | 0x40 => s.gatherUnit n r
  | 0x41 => s.scatterUnit n r
  | _ => (s, r)

/-! ## Scale records and collections (R330, R331) -/

/-- The parity of a command. -/
def PBlk.par (b : PBlk) : Nat := b.step % 2

/-- Does a command take part in a collection: SGD with Q_EN, or TAGRES with FINISH SGD? -/
def collects (nop : Nat) (b : PBlk) : Bool := (nop == 0x20 && bit b.mode 0) || (nop == 0x50 && b.mode % 4 == 2)

/-- Is the collection of a command open at an NMU? -/
def State.collecting (s : State) (n fleet tag par : Nat) : Bool :=
  (s.nmu n).collects.any (fun c => c.fleet == fleet && c.tag == tag && c.par == par)

/-- Open a collection, where there is none. -/
def State.openCollect (s : State) (n fleet tag par scale : Nat) : State :=
  if s.collecting n fleet tag par then s
  else s.modNmu n (fun c => { c with collects := c.collects ++ [(⟨fleet, tag, par, scale, 0, 0⟩ : Collect)] })

/-- The stack that holds a scale record: the home's number. -/
def State.homeOf (s : State) (n fleet scale : Nat) : Option Nat × State :=
  match s.nmuXlate n fleet scale false with
  | ((0, pa), s) => ((s.place pa).map (fun p => p.stack), s)
  | ((_, _), s) => (none, s)

/-- Read the entry of a command's parity (R330): a status, and S and Q. -/
def State.readScale (s : State) (n cls fleet : Nat) (b : PBlk) : Nat × Word × State :=
  match s.nmuLoad n cls fleet (b.last + 8 * b.par) 8 with
  | (st, bs, s) => (st, BitVec.ofNat 64 (leNat bs), s)

/-- A report is sent to the home NMU (R331). -/
def State.sendScout (s : State) (n : Nat) (r : Run) : State :=
  match s.homeOf n r.fleet r.blk.last with
  | (some h, s) => s.send .data (.nmu n) (.nmu h) (.scout r.fleet r.msg.tag r.blk.par r.blk.last r.scout)
  | (none, s) => s

/-- A report reaches the home; after the last of them the home writes the next entry (R331). -/
def State.scoutReport (s : State) (i : Nat) : State :=
  match s.arrival i with
  | some ⟨_, _, .nmu h, .scout fleet tag par scale value⟩ => s.overEm fun s =>
    if !s.collecting h fleet tag par && decide (16 ≤ (s.nmu h).collects.length) then s
    else
      let s := (s.takePacket i).openCollect h fleet tag par scale
      let mine := fun (c : Collect) => c.fleet == fleet && c.tag == tag && c.par == par
      let s := s.modNmu h (fun c => { c with collects := c.collects.map (fun (x : Collect) =>
        if mine x then { x with got := x.got + 1, max := max x.max value } else x) })
      match (s.nmu h).collects.find? mine with
      | none => s
      | some c =>
        if c.got < s.opts.memPorts then s
        else
          let e := scaleFrom c.max 127
          let s := (s.nmuStores h (clsPrio 0) fleet [(scale + 8 * (1 - par), natLE 4 e.1 ++ natLE 4 e.2)]).2
          s.modNmu h (fun c => { c with collects := c.collects.filter (fun x => !mine x) })
  | _ => s

/-! ## Starting and running a command (R319, R322, R323) -/

def Run.start (m : Msg) (b : PBlk) (status : Nat) : Run where
  msg := m
  blk := b
  fleet := m.nmuFleet
  next := 0
  doneU := 0
  status := status
  sent := 0
  outstanding := 0
  scout := 0
  nf := none
  rng := none
  wrap := none
  scalar := 0
  scale := 0
  hold := []
  reported := status != 0
  already := false

/-- The oldest command of the operation engine in the intake. -/
def Nmu.headOp (c : Nmu) : Option Msg := c.intake.find? (fun m => !m.isRed)

/-- The operation engine takes its next command, where the next is of operation `nop`; a reserved NOP goes with STAGE. -/
def State.nmuStart (s : State) (n nop : Nat) : State :=
  match (s.nmu n).run, (s.nmu n).headOp with
  | none, some m => s.overEm fun s =>
    if m.nop ≠ nop ∧ !(nop = 0x01 ∧ !opNops.contains m.nop) then s
    else
      let take := fun (t : State) (r : Run) =>
        (t.modNmu n (fun c => { c with intake := c.intake.erase m, run := some r })).intakeFreed n
      match s.nmuCheck n m with
      | some st => take s (Run.start m (s.pblkOf n m) st)
      | none =>
        let b := s.pblkOf n m
        let r := Run.start m b 0
        if !collects m.nop b then
          take (if m.nop = 0x30 ∧ m.sr then s.setFld (Reg.NMU_SCOUT n) F.NMU_SCOUT_MAX 0 else s) r
        else
          let h := s.homeOf n r.fleet b.last
          if h.1 = some n ∧ !s.collecting n r.fleet m.tag b.par ∧ 16 ≤ (s.nmu n).collects.length then s
          else
            let s := if h.1 = some n then h.2.openCollect n r.fleet m.tag b.par b.last else h.2
            let s := if m.sr then s.setFld (Reg.NMU_SCOUT n) F.NMU_SCOUT_MAX 0 else s
            match s.readScale n m.nmuCls r.fleet b with
            | (0, e, s) => take s { r with scale := e }
            | (st, _, s) => take s { r with status := st }
  | _, _ => s

/-- Is the running command waiting on NMU_ARRIVE (R318, R319)? -/
def State.nmuWaits (s : State) (n : Nat) (r : Run) : Bool :=
  r.msg.waitEn && r.msg.nop != 0x01 && decide (0 < (BitVec.ofNat 64 r.blk.last - s.rd (Reg.NMU_ARRIVE n)).toInt)

/-- Has every unit been done, or one failed? -/
def Run.over (r : Run) : Bool := r.status != 0 || decide (r.blk.units r.msg.nop ≤ r.next)

/-- The next unit of the running command, unless it is over. -/
def State.nmuNext (s : State) (n : Nat) : State :=
  match (s.nmu n).run with
  | none => s
  | some r =>
    if r.over then s
    else s.overEm fun s =>
      let x := s.nmuUnit n r
      x.1.modNmu n (fun c => { c with run := some (if x.2.status = 0 then { x.2 with next := x.2.next + 1 } else x.2) })

/-- Run up to `f` units; one that waits for a block holds those after it. -/
def State.nmuLoop (s : State) (n : Nat) : Nat → State
  | 0 => s
  | f + 1 => (s.nmuNext n).nmuLoop n f

/-! ## The prefetch window (R316, R323) -/

/-- Blocks that the window holds. -/
def windowBlocks : Nat := 4096

/-- The MV whose weights may be prefetched: the running one while it waits on NMU_ARRIVE, else the next, once the running command
makes no more writes. -/
def State.preTarget (s : State) (n : Nat) : Option Run :=
  match (s.nmu n).run, (s.nmu n).headOp with
  | none, _ => none
  | some r, next =>
    if r.msg.nop = 0x10 ∧ s.nmuWaits n r then some r
    else if r.over || [0x01, 0x10, 0x22, 0x40].contains r.msg.nop then
      match next with
      | some m => if m.nop = 0x10 ∧ s.nmuCheck n m = none then some (Run.start m (s.pblkOf n m) 0) else none
      | none => none
    else none

/-- The blocks of a row that the translation cache finds on the own stack. -/
def State.preRow (s : State) (n : Nat) (r : Run) (i : Nat) : List Nat :=
  let va := r.blk.rowAt i
  let pieces := (List.range (r.blk.rowLen / 65536 + 2)).filterMap (fun j =>
    let a := if j = 0 then va else (va / 65536 + j) * 65536
    let b := min (va + r.blk.rowLen) ((va / 65536 + j + 1) * 65536)
    if a < b then some (a, b - a) else none)
  pieces.flatMap (fun p =>
    match tlbFind (s.nmu n).tlb nmuSets r.fleet p.1 with
    | some e =>
      if !s.leafOk e.pte e.big ⟨false, true, false⟩ then []
      else
        (match leafTarget e.pte e.big p.1 with
        | .em pa => if s.onStack n [(pa, p.2)] then (s.ownBlocks [(pa, p.2)]).map (fun b => b.1) else []
        | _ => [])
    | none => [])

/-- One block is read into the window, unless it is there or on its way, or cannot be read from the stack now. -/
def State.preBlock (s : State) (n cls b : Nat) : State :=
  let c := s.nmu n
  if (tfind c.pre b).isSome || c.preAsked.contains b || decide (windowBlocks ≤ c.pre.length + c.preAsked.length) ||
      s.mpLost n || s.behind (.port n) || s.badBlock n b || (s.port n).writing b then s
  else ((s.modNmu n (fun c => { c with preAsked := c.preAsked ++ [b] })).queueRead n b cls 0 (.pre n b)).nmuRdb n 1

/-- The next MV reads its weights into the window, of up to `m` rows that are not in it whole. -/
def State.prefetch (s : State) (n m : Nat) : State :=
  match s.preTarget n with
  | none => s
  | some r =>
    let c := s.nmu n
    let rows := ((List.range (min (r.blk.n - r.next) 65536)).map (fun i => s.preRow n r (r.next + i))).filter
      (fun bs => bs.any (fun b => !((tfind c.pre b).isSome || c.preAsked.contains b)))
    ((rows.take m).flatMap id).foldl (fun (t : State) b => t.preBlock n r.msg.nmuCls b) s

/-- The operation engine starts a command of operation `nop`, or carries it on, by up to `m` units. -/
def State.nmuRun (s : State) (n nop m : Nat) : State :=
  let s := s.nmuStart n nop
  match (s.nmu n).run with
  | none => s
  | some r =>
    if (r.msg.nop ≠ nop ∧ !(nop = 0x01 ∧ !opNops.contains r.msg.nop)) ∨ s.stalled (84 + n / 2) then s
    else if s.nmuWaits n r ∨ s.walkerFull r.fleet then s.prefetch n m
    else (s.nmuLoop n m).prefetch n m

/-! ## Completion (R324) -/

/-- The record's words. -/
def Run.record (r : Run) (done next : Nat) : List Word :=
  let w := fun (a b : Nat) => BitVec.ofNat 64 (a * 2 ^ 32 + b)
  let flags := b01 r.nf.isSome + 2 * b01 r.wrap.isSome + 4 * b01 r.rng.isSome + 128
  [w done r.scout, w (r.nf.getD 0) (r.rng.getD 0), w (r.wrap.getD 0) (flags * 2 ^ 24),
    if r.msg.nop = 0x31 ∧ bit r.blk.mode 3 ∧ r.status = 0 then BitVec.ofNat 64 (wrapInt 64 (sint (8 * r.blk.iBytes) r.scalar))
    else BitVec.ofNat 64 next]

/-- Send a completion record, where RQ was set, and count how the command ended (R324, R343). -/
def State.nmuRecord (s : State) (n : Nat) (m : Msg) (status : Nat) (words : List Word) : State :=
  let s := if status = 0x03 ∨ status = 0x04 ∨ status = 0x90 then
      s.errCount (Reg.NMU_ERR n) F.NMU_ERR_FAULTS (Reg.NMU_STAT n) F.NMU_STAT_SAT 2 (84 + n / 2)
    else if status = 0x0B then s.errCount (Reg.NMU_ERR n) F.NMU_ERR_UNCORR (Reg.NMU_STAT n) F.NMU_STAT_SAT 1 (84 + n / 2)
    else s
  if m.rq then
    s.send .reply (.nmu n) (senderEnd m.kind m.sid)
      (.msg m.rch ⟨2, words, false, 0, 2, n, 0, m.nmuFleet, status, m.tag, m.user, 0, 0, false⟩)
  else s

/-- Did a command that takes part in collections fail its checks, which alone give it these statuses (R322)? It reports nothing. -/
def Run.unchecked (r : Run) : Bool := r.status == 0x80 || r.status == 0x82

/-- Has everything an NMU delivered landed? -/
def State.nmuLanded (s : State) (n : Nat) (r : Run) : Bool :=
  r.outstanding == 0 && !s.net.any (fun p => p.src == .nmu n && (match p.body with | .contrib _ _ _ => true | _ => false))

/-- The index of the first unit not committed, or N; of STAGE, which has no block, the one unit it is. -/
def Run.nextOf (r : Run) : Nat :=
  if r.msg.nop = 0x01 then r.next
  else if r.status ≠ 0 ∧ (r.next < r.blk.units r.msg.nop ∨ r.next = 0) then r.next
  else r.blk.n

/-- Bits of SCAN that fill no packet are delivered at the end. -/
def State.flushHold (s : State) (n : Nat) (r : Run) : State × Run :=
  if r.hold.isEmpty then (s, r)
  else
    let d := s.nmuDeliver n r ((r.doneU - 1) / 2048 * 256) r.hold
    (d.1, { d.2 with hold := [] })

/-- The running command completes, in the steps of R324: what is left is delivered; an SGD reports its scout; then, once all
has landed and, at the home, the collection is over, the tally and the record. -/
def State.opComplete (s : State) (n : Nat) : State :=
  match (s.nmu n).run with
  | none => s
  | some r =>
    if !r.over then s
    else s.overEm fun s =>
      let f := s.flushHold n r
      let r := f.2
      let s := f.1.modNmu n (fun c => { c with run := some r })
      if collects r.msg.nop r.blk && !r.reported then
        (s.sendScout n r).modNmu n (fun c => { c with run := some { r with reported := true } })
      else if !s.nmuLanded n r || (collects r.msg.nop r.blk && !r.unchecked && s.collecting n r.fleet r.msg.tag r.blk.par) then s
      else
        let s := if r.blk.dkind = 1 ∧ delivers r.msg.nop ∧ bit r.blk.dgen 4 ∧ r.sent ≠ 0 then
            match s.slotOf r.blk.did with
            | some k => if s.closed k then s else s.tallyAdd k (r.blk.dgen % 16) r.sent
            | none => s
          else s
        let st := if r.status = 0 ∧ r.already then 0x01 else r.status
        (s.nmuRecord n r.msg st (r.record r.doneU r.nextOf)).modNmu n (fun c => { c with
          run := none
          pre := if r.msg.nop = 0x10 ∧ r.status ≠ 0 then [] else c.pre
          preAsked := if r.msg.nop = 0x10 ∧ r.status ≠ 0 then [] else c.preAsked })

/-- A delivery's acknowledgement reaches the NMU: `len` bytes have landed, or a failed landing gives the command its status. -/
def State.deliverAcked (s : State) (n entry status len : Nat) : State :=
  s.modNmu n (fun c => match c.run with
    | some r => if r.msg.entry = entry then { c with run := some { r with
        outstanding := r.outstanding - 1
        sent := if status = 0 then r.sent + len else r.sent
        status := if r.status = 0 then status else r.status } } else c
    | none => c)

/-! ## ABORT_FLEET (R325) -/

/-- Every queued and running command of the operation engine of a fleet is aborted: its commit point is its completion record (10 R285).
A scout report that has not reached its home is withdrawn. -/
def State.abortFleet (s : State) (n fleet : Nat) : State :=
  let s := match (s.nmu n).run with
    | some r =>
      if r.fleet ≠ fleet then s
      else
        let s := (s.nmuRecord n r.msg 0x02 ({ r with status := 0x02 }.record r.doneU r.nextOf)).modNmu n (fun c => { c with
          run := none
          pre := []
          preAsked := []
          collects := if collects r.msg.nop r.blk then
              c.collects.filter (fun x => !(x.fleet == r.fleet && x.tag == r.msg.tag && x.par == r.blk.par))
            else c.collects })
        if collects r.msg.nop r.blk then { s with net := s.net.filter (fun (p : Packet) => !(p.src == Endpoint.nmu n && (match p.body with
          | .scout fl tag par _ _ => fl == r.fleet && tag == r.msg.tag && par == r.blk.par
          | _ => false))) }
        else s
    | none => s
  let gone := (s.nmu n).intake.filter (fun m => !m.isRed && m.nmuFleet == fleet)
  let s := gone.foldl (fun (t : State) m =>
    (t.nmuRecord n m 0x02 ((Run.start m (t.pblkOf n m) 0x02).record 0 0)).modNmu n (fun c => { c with intake := c.intake.erase m })) s
  if gone.isEmpty then s else (s.intakeFreed n).modNmu n (fun c => { c with pre := [], preAsked := [] })

end Sys2Proof.Machine
end

