-- ==== Sys2Proof/Machine/Tags.lean ====
section
/-!
DEFINITION. Machine/Tags.lean: the reduction engine of a Near-Memory Unit and the reduction directory: tags, windows,
moorings, rank order, contributions and results, and the end of a tag (12 R337 to R341; 13 R360 to R367, R370); and what
joins the queues of a Filic port.
-/

namespace Sys2Proof.Machine

/-! ## Queues of the Filic ports (13 R352, R356, R359) -/

def State.link (s : State) (l : Nat) : Link := tget Link.reset s.links l
def State.setLink (s : State) (l : Nat) (v : Link) : State := { s with links := tput s.links l v }
def State.modLink (s : State) (l : Nat) (f : Link → Link) : State := s.setLink l (f (s.link l))

/-- Virtual channels, by number: REQ, RPL, RED, CNV. -/
def vcRpl : Nat := 1
def vcRed : Nat := 2

/-- A slot joins the queue of its virtual channel at a port. -/
def State.queueSlot (s : State) (l vc : Nat) (x : LSlot) : State :=
  s.modLink l (fun c => { c with queue := tput c.queue vc (tget [] c.queue vc ++ [x]) })

/-- A control entry for a node (13 R353). Where no port in service leads there, it is discarded (R351). -/
def State.ctlTo (s : State) (node : Nat) (w : Nat) : State :=
  match s.routeTo node with
  | some l => if s.flLost l then s else s.modLink l (fun c => { c with ctl := c.ctl ++ [(node, BitVec.ofNat 64 w)] })
  | none => s

def ctlWack (n : Nat) : Nat := 2 ^ 60 + n
def ctlCack (tag g : Nat) : Nat := 2 * 2 ^ 60 + tag * 2 ^ 32 + g * 2 ^ 14
def ctlCref (tag g cause : Nat) : Nat := 3 * 2 ^ 60 + tag * 2 ^ 32 + g * 2 ^ 14 + cause
def ctlWake (tag : Nat) : Nat := 4 * 2 ^ 60 + tag * 2 ^ 32

/-! ## Ranks and the directory (13 R359, R361) -/

/-- A fleet's own rank and the nodes of its ranks. -/
def State.ranksOf (s : State) (fleet : Nat) : Nat × List Nat := tget (0, []) s.cfg.ranks fleet
/-- The rank that a node is of a fleet. -/
def State.rankAt (s : State) (fleet node : Nat) : Option Nat := (s.ranksOf fleet).2.findIdx? (· == node)

/-- Does the directory hold a tag? -/
def State.rdHolds (s : State) (tag : Nat) : Bool :=
  let r := Reg.RD_CFG (tag % 64)
  s.flag r F.RD_CFG_VALID && s.fld r F.RD_CFG_TAG == tag

/-- The directory's waiting set of a tag slot is woken (13 R364). -/
def State.rdWakeAll (s : State) (e tag : Nat) : State :=
  let ws := tget [] s.rdWait e
  ws.foldl (fun (t : State) node => t.ctlTo node (ctlWake tag)) { s with rdWait := tput s.rdWait e [] }

/-- RD_STAT.WAKE. -/
def State.rdWake (s : State) (e : Nat) : State := s.rdWakeAll e (s.fld (Reg.RD_CFG e) F.RD_CFG_TAG)

/-- The first TAGRES of a tag writes its directory entry; each one wakes the directory's waiting set (13 R361, R364). DESIGN CHOICE
(log entry 41): a packet that an NMU refused because its own TAGRES was still to come is sent again after that. -/
def State.rdWrite (s : State) (tag fleet : Nat) (b : PBlk) : State :=
  let e := tag % 64
  let s :=
    if s.rdHolds tag then s
    else
      let s := s.wr (Reg.RD_CFG e) (BitVec.ofNat 64 (2 ^ 63 + fleet * 2 ^ 56 + bits b.mode 2 2 * 2 ^ 54 + tag * 2 ^ 32 +
        (b.k - 1) % 4096 * 2 ^ 20 + b.str % 4096 * 2 ^ 8))
      (s.wr (Reg.RD_BASE e) (BitVec.ofNat 64 b.opa)).wr (Reg.RD_LEN e) (BitVec.ofNat 64 b.n)
  s.rdWakeAll e tag

/-- A packet of a reduction that is refused with NOTAG (cause 0) or FAULT (2): counted in its directory entry, its node in the directory's
waiting set (13 R363, R364, R370). -/
def State.rdRefuse (s : State) (snode tag g cause : Nat) : State :=
  let e := tag % 64
  let s := s.errCount (Reg.RD_STAT e) F.RD_STAT_REFUSALS (Reg.RD_STAT e) F.RD_STAT_REF_SAT 0 (s.polderOf .keep)
  let s := if cause = 2 then s.setFld (Reg.RD_STAT e) F.RD_STAT_FAULTED 1 else s
  let ws := tget [] s.rdWait e
  let s := { s with rdWait := tput s.rdWait e (if ws.contains snode then ws else ws ++ [snode]) }
  s.ctlTo snode (ctlCref tag g cause)

/-! ## Tags of an NMU (12 R338, R341) -/

def State.tagSlot (s : State) (n t : Nat) : Option TagSlot := tfind (s.nmu n).tags (t % 64)
/-- The slot that serves exactly this tag. -/
def State.tagOf (s : State) (n tag : Nat) : Option TagSlot :=
  match s.tagSlot n tag with | some t => if t.tag = tag then some t else none | none => none
def State.setTag (s : State) (n : Nat) (t : TagSlot) : State := s.modNmu n (fun c => { c with tags := tput c.tags (t.tag % 64) t })

/-- The oldest unretired tag, or LAST + 1 (R341). -/
def State.settleOldest (s : State) (n : Nat) : State :=
  let r := Reg.NMU_TAG n
  let old := s.fld r F.NMU_TAG_OLDEST
  let tags := (s.nmu n).tags.map (fun p => (p.2.tag + 2 ^ 16 - old) % 2 ^ 16)
  match tags with
  | [] => s.setFld r F.NMU_TAG_OLDEST ((s.fld r F.NMU_TAG_LAST + 1) % 2 ^ 16)
  | d :: ds => s.setFld r F.NMU_TAG_OLDEST ((old + ds.foldl min d) % 2 ^ 16)

/-- May a tag be reserved (R341)? -/
def State.tagFits (s : State) (n tag : Nat) : Bool :=
  let r := Reg.NMU_TAG n
  !s.flag r F.NMU_TAG_ANY ||
  (decide (0 < sdiff 16 tag (s.fld r F.NMU_TAG_LAST)) &&
    decide (0 < sint 16 (wrapInt 16 (64 - sdiff 16 tag (s.fld r F.NMU_TAG_OLDEST)))))

/-! ## The share (12, Moorings and rank order; 13 R360) -/

/-- The physical addresses of a bucket's 64-KiB pages, translated for the NMU; none where one is not LOCAL with NMU. A walk that faults
writes its record (11 R312). -/
def State.bucketPages (s : State) (n fleet : Nat) (b : PBlk) : Option (List (Nat × Nat)) × State :=
  let first := b.opa / 65536
  (List.range ((b.opa + b.n - 1) / 65536 + 1 - first)).foldl (fun (acc : Option (List (Nat × Nat)) × State) i =>
    match acc.1 with
    | none => acc
    | some ps =>
      match acc.2.nmuXlate n fleet ((first + i) * 65536) false with
      | ((0, pa), s) => (some (ps ++ [(first + i, pa)]), s)
      | (_, s) => (none, s)) (some [], s)

/-- The blocks of a bucket that lie on a stack. -/
def State.shareOf (s : State) (stack : Nat) (b : PBlk) (pages : List (Nat × Nat)) : List Nat :=
  (List.range (b.n / 256)).filter (fun g =>
    let va := b.opa + 256 * g
    match tfind pages (va / 65536) with
    | some pa => (match s.place (pa + va % 65536) with | some pl => pl.stack == stack | none => false)
    | none => false)

/-! ## TAGRES (R322, R341; 13 R360, R361) -/

/-- The checks of a TAGRES in their order, but for its pages. -/
def State.tagCheck (s : State) (n : Nat) (m : Msg) : Option Nat :=
  let b := s.pblkOf n m
  let fl := m.nmuFleet
  let rk := s.ranksOf fl
  let sgd := b.mode % 4 == 2
  firstFail
    [ (bits b.mode 2 2 == 3 || b.mode % 4 == 3 || m.waitEn, 0x80),
      (m.pblk % 64 != 0 || stOut m.pblk 64 || decide (b.n < 2 ^ 20) || decide (2 ^ 26 < b.n) || b.k == 0 || decide (4096 < b.k) ||
        decide (2 ^ 48 ≤ b.opa) || (b.mode % 4 != 0 && decide (2 ^ 48 ≤ b.opb)) ||
        (sgd && (b.opa % 1024 != 0 || b.opb % 1024 != 0 || b.opc % 256 != 0 || decide (2 ^ 48 ≤ b.opc) || b.last % 16 != 0 ||
          decide (2 ^ 48 ≤ b.last))), 0x82),
      (!s.tagFits n m.tag || b.n % 256 != 0 || b.k != rk.2.length || b.str != rk.1 || b.opa % 256 != 0 ||
        (List.range s.opts.memPorts).any (fun o => match s.tagOf o m.tag with
          | some t => o != n && (t.blk != b || t.fleet != fl)
          | none => false), 0x09) ]

/-- A command of the reduction engine at the head of its order. -/
def Nmu.headRed (c : Nmu) (nop : Nat) : Option Msg :=
  match c.intake.find? (fun m => m.isRed) with
  | some m => if m.nop = nop then some m else none
  | none => none

def State.takeRed (s : State) (n : Nat) (m : Msg) : State :=
  (s.modNmu n (fun c => { c with intake := c.intake.erase m })).intakeFreed n

/-- A TAGRES is admitted with its share: it takes its tag slot, and is the last tag reserved. -/
def State.admitTag (s : State) (n : Nat) (m : Msg) (b : PBlk) (share : List Nat) : State :=
  let fl := m.nmuFleet
  let s := (s.takeRed n m).setTag n {
    msg := m, tag := m.tag, fleet := fl, blk := b, share := share, wb := 0, sums := [], nexts := [], moor := [], doneB := [],
    sendPos := 0, results := [], sent := [], waiters := [], fin := none, status := 0, ended := false, already := false }
  let r := Reg.NMU_TAG n
  let s := if s.flag r F.NMU_TAG_ANY then s else s.setFld r F.NMU_TAG_OLDEST m.tag
  let s := ((s.setFld r F.NMU_TAG_ANY 1).setFld r F.NMU_TAG_LAST m.tag).settleOldest n
  s.rdWrite m.tag fl b

/-- A TAGRES is admitted, or completes with its status. -/
def State.tagres (s : State) (n : Nat) : State :=
  match (s.nmu n).headRed 0x50 with
  | none => s
  | some m =>
    if s.walkerFull m.nmuFleet then s
    else s.overEm fun s =>
      let b := s.pblkOf n m
      let refuse := fun (t : State) (st : Nat) => (t.takeRed n m).nmuRecord n m st ((Run.start m b st).record 0 0)
      match s.tagCheck n m with
      | some st => refuse s st
      | none =>
        match s.bucketPages n m.nmuFleet b with
        | (some ps, s) => s.admitTag n m b (s.shareOf n b ps)
        | (none, s) => refuse s 0x09

/-- TAGRET retires the oldest tag once it has its record (R341); the last NMU to retire a tag clears its directory entry
(13 R361). -/
def State.tagret (s : State) (n : Nat) : State :=
  match (s.nmu n).headRed 0x51 with
  | none => s
  | some m =>
    let s := s.takeRed n m
    let r := Reg.NMU_TAG n
    let ok := match s.tagOf n m.tag with
      | some t => t.ended && s.fld r F.NMU_TAG_OLDEST == m.tag
      | none => false
    if !ok then s.nmuRecord n m 0x09 ((Run.start m (s.pblkOf n m) 0x09).record 0 0)
    else
      let s := (s.modNmu n (fun c => { c with tags := serase (m.tag % 64) c.tags })).settleOldest n
      let last := (List.range s.opts.memPorts).all (fun o => (s.tagOf o m.tag).isNone)
      let e := m.tag % 64
      let s := if last && s.rdHolds m.tag then
          (((s.wr (Reg.RD_CFG e) 0).wr (Reg.RD_BASE e) 0).wr (Reg.RD_LEN e) 0).wr (Reg.RD_STAT e) 0
        else s
      s.nmuRecord n m 0 ((Run.start m (s.pblkOf n m) 0).record 1 1)

/-! ## Rank order (R337, R338) -/

/-- Element-wise addition of a contribution, by the type of the tag. -/
def addByType (type : Nat) (a b : List Byte) : List Byte :=
  let w := if type = 2 then 8 else 4
  (List.range (256 / w)).flatMap (fun i =>
    let x := leNat ((a.drop (w * i)).take w)
    let y := leNat ((b.drop (w * i)).take w)
    natLE w (if type = 0 then fAdd x y else x + y))

def TagSlot.type (t : TagSlot) : Nat := bits t.blk.mode 2 2
def TagSlot.ownRank (t : TagSlot) : Nat := t.blk.str
def TagSlot.nr (t : TagSlot) : Nat := t.blk.k
/-- The block that share block `b` is, and the rank that owns it (13 R362). -/
def TagSlot.g (t : TagSlot) (b : Nat) : Nat := t.share.getD b 0
def TagSlot.owner (t : TagSlot) (g : Nat) : Nat := g % t.nr
def TagSlot.nextR (t : TagSlot) (b : Nat) : Nat := tget 0 t.nexts b
def TagSlot.inWindow (t : TagSlot) (b : Nat) : Bool := decide (t.wb ≤ b ∧ b < t.wb + 64 ∧ b < t.share.length)
def TagSlot.va (t : TagSlot) (b : Nat) : Nat := t.blk.opa + 256 * t.g b
/-- Every share block is complete. -/
def TagSlot.full (t : TagSlot) : Bool := decide (t.share.length ≤ t.wb)

/-- Add a contribution that is due. -/
def TagSlot.absorb (t : TagSlot) (b : Nat) (bs : List Byte) : TagSlot :=
  let sum := if t.nextR b = 0 then bs else addByType t.type (tget [] t.sums b) bs
  { t with sums := tput t.sums b sum, nexts := tput t.nexts b (t.nextR b + 1) }

/-- Add what is due of share block `b`: the own contribution, read from External Memory, and moored ones, in turn. -/
def State.absorbDue (s : State) (n b : Nat) : Nat → TagSlot → TagSlot × State
  | 0, t => (t, s)
  | f + 1, t =>
    if t.nextR b = t.nr ∨ t.status ≠ 0 then (t, s)
    else if t.nextR b = t.ownRank ∧ t.owner (t.g b) = t.ownRank then
      match s.nmuLoad n t.msg.nmuCls t.fleet (t.va b) 256 with
      | (0, bs, s) => s.absorbDue n b f (t.absorb b bs)
      | (st, _, s) => ({ t with status := st }, s)
    else
      match t.moor.find? (fun m => m.b == b && m.r == t.nextR b) with
      | some m => s.absorbDue n b f ({ t with moor := t.moor.erase m }.absorb b m.bytes)
      | none => (t, s)

/-- A completed block is written over the bucket's own block (R338). -/
def State.finishBlock (s : State) (n b : Nat) (t : TagSlot) (sum : List Byte) : TagSlot × State :=
  match s.nmuStores n t.msg.nmuCls t.fleet [(t.va b, sum)] with
  | (0, s) => ({ t with doneB := if t.doneB.contains b then t.doneB else b :: t.doneB, sums := serase b t.sums }, s)
  | (st, s) => ({ t with status := st }, s)

/-- WB advances past every completed block; owned blocks it passes are to be sent, in block order (13 R363). -/
def TagSlot.advance : Nat → TagSlot → TagSlot
  | 0, t => t
  | f + 1, t =>
    if t.doneB.contains t.wb then
      let rs := if t.owner (t.g t.wb) = t.ownRank then
          ((List.range t.nr).filter (· != t.ownRank)).map (fun r => (t.wb, r))
        else []
      TagSlot.advance f { t with
        wb := t.wb + 1
        doneB := t.doneB.erase t.wb
        nexts := serase t.wb t.nexts
        results := t.results ++ rs }
    else t

/-- The waiting set of an NMU's tag slot is woken (13 R364). -/
def State.wakeTag (s : State) (t : TagSlot) : TagSlot × State :=
  ({ t with waiters := [] }, t.waiters.foldl (fun (u : State) node => u.ctlTo node (ctlWake t.tag)) s)

/-- One pass over the window: what is due is added, completed blocks are written, WB advances, and waiting ranks are woken
where it did or a mooring came free. -/
def State.tagPass (s : State) (n : Nat) (t : TagSlot) : State :=
  let x := (List.range 64).foldl (fun (acc : TagSlot × State) i =>
    let b := t.wb + i
    if !acc.1.inWindow b || acc.1.doneB.contains b || acc.1.status != 0 then acc
    else
      let y := acc.2.absorbDue n b acc.1.nr acc.1
      if y.1.status = 0 ∧ y.1.nextR b = y.1.nr then y.2.finishBlock n b y.1 (tget [] y.1.sums b) else y) (t, s)
  let u := x.1.advance 64
  let z := if u.wb ≠ t.wb ∨ u.moor.length < t.moor.length then x.2.wakeTag u else (u, x.2)
  z.2.setTag n z.1

/-! ## Arrival at the NMU (R338; 13 R363, R364) -/

/-- A contribution discarded as a duplicate (R338). -/
def State.redDup (s : State) (n tag g r : Nat) : State :=
  let s := s.errCount (Reg.NMU_ERR n) F.NMU_ERR_DUPS (Reg.NMU_STAT n) F.NMU_STAT_SAT 0 (84 + n / 2)
  let f := match s.tagOf n tag with | some t => t.fleet | none => 0xFF
  s.report ⟨0x34, 1, 84 + n / 2, 4, n, f, 0, [BitVec.ofNat 64 tag, BitVec.ofNat 64 g, BitVec.ofNat 64 r]⟩

/-- A RED packet that its NMU refuses with WINDOW: its node joins the NMU's waiting set (13 R364). -/
def State.redWindow (s : State) (n : Nat) (t : TagSlot) (snode g : Nat) : State :=
  (s.setTag n { t with waiters := if t.waiters.contains snode then t.waiters else t.waiters ++ [snode] }).ctlTo snode (ctlCref t.tag g 1)

/-- The tag slot that takes packets of a tag: none once the tag has ended or failed. -/
def State.tagLive (s : State) (n tag : Nat) : Option TagSlot :=
  match s.tagOf n tag with
  | some t => if t.ended || t.status != 0 then none else some t
  | none => none

/-- Must a RED packet wait at its NMU: may the walker of its tag's fleet start no walk (11 R312)? -/
def State.redWaits (s : State) (n tag : Nat) : Bool := (s.tagLive n tag).any (fun t => s.walkerFull t.fleet)

/-- Contribution packet `i` reaches the NMU whose stack holds its block. -/
def State.redContrib (s : State) (i : Nat) : State :=
  match s.arrival i with
  | some ⟨_, _, .nmu n, .red false snode tag g _ bs⟩ =>
    if s.redWaits n tag then s
    else s.overEm fun s =>
      let s := s.takePacket i
      match s.tagLive n tag with
      | none => s.rdRefuse snode tag g 0
      | some t =>
        match t.share.findIdx? (· == g), s.rankAt t.fleet snode with
        | some b, some r =>
          if b < t.wb ∨ t.doneB.contains b ∨ r < t.nextR b ∨ t.moor.any (fun m => m.b == b && m.r == r) then
            (s.redDup n tag g r).ctlTo snode (ctlCack tag g)
          else if !t.inWindow b then s.redWindow n t snode g
          else if r = t.nextR b then (s.tagPass n (t.absorb b bs)).ctlTo snode (ctlCack tag g)
          else if t.moor.length < 64 then
            (s.tagPass n { t with moor := t.moor ++ [(⟨b, r, bs⟩ : Moored)] }).ctlTo snode (ctlCack tag g)
          else s.redWindow n t snode g
        | _, _ => s.rdRefuse snode tag g 2
  | _ => s

/-- Result packet `i` reaches the NMU: it completes its block if the block lies in the window, else WINDOW (13 R363); FAULT where the
block cannot be written. -/
def State.redResult (s : State) (i : Nat) : State :=
  match s.arrival i with
  | some ⟨_, _, .nmu n, .red true snode tag g _ bs⟩ =>
    if s.redWaits n tag then s
    else s.overEm fun s =>
      let s := s.takePacket i
      match s.tagLive n tag with
      | none => s.rdRefuse snode tag g 0
      | some t =>
        match t.share.findIdx? (· == g) with
        | some b =>
          if !t.inWindow b then s.redWindow n t snode g
          else
            let x := s.finishBlock n b t bs
            if x.1.status = 0 then (x.2.tagPass n x.1).ctlTo snode (ctlCack tag g)
            else (x.2.setTag n x.1).rdRefuse snode tag g 2
        | none => s.rdRefuse snode tag g 2
  | _ => s

/-! ## Sending (13 R362 to R364) -/

/-- Contributions and results of an NMU that await their acknowledgement. -/
def Nmu.unacked (c : Nmu) : Nat := ((c.tags.map (fun p => (p.2.sent.filter (fun x => x.refused.isNone)).length))).foldl (· + ·) 0

/-- Send a block to a rank: it joins the RED queue of the port that leads there; where the port is lost, or none leads
there, it counts as refused with cause LINK (R351, R364). -/
def State.redSend (s : State) (n : Nat) (t : TagSlot) (g r : Nat) (isResult : Bool) (bs : List Byte) : State :=
  let node := (s.ranksOf t.fleet).2.getD r 0
  let rest := t.sent.filter (fun x => !(x.g == g && x.rank == r))
  let put := fun (c : Option Nat) => { t with sent := rest ++ [(⟨g, r, isResult, c⟩ : RedSent)] }
  match s.routeTo node with
  | none => s.setTag n (put (some 3))
  | some l =>
    if s.flLost l then s.setTag n (put (some 3))
    else (s.setTag n (put none)).queueSlot l vcRed ⟨if isResult then 7 else 6, node, s.cfg.ownNode, t.tag * 2 ^ 20 + g * 4, bs, none⟩

/-- Read a share block and send it. -/
def State.redRead (s : State) (n : Nat) (t : TagSlot) (g r : Nat) (isResult : Bool) : State :=
  match s.nmuLoad n t.msg.nmuCls t.fleet (t.blk.opa + 256 * g) 256 with
  | (0, bs, s) => s.redSend n t g r isResult bs
  | (st, _, s) => s.setTag n { t with status := st }

/-- The lowest block that may be sent again. -/
def TagSlot.again (t : TagSlot) : Option RedSent :=
  (t.sent.filter (fun x => x.refused == some 4)).foldl (fun o x => match o with
    | none => some x
    | some y => if x.g < y.g then some x else some y) none

/-- The reduction engine's step for the tag in slot `e`: a pass over the window; then one block is sent: one to be sent again,
else the next result, else the next contribution of the share. -/
def State.contribSend (s : State) (n e : Nat) : State :=
  match tfind (s.nmu n).tags e with
  | none => s
  | some t =>
    if t.ended || t.status != 0 || s.walkerFull t.fleet || s.stalled (84 + n / 2) then s
    else s.overEm fun s =>
      let s := s.tagPass n t
      match tfind (s.nmu n).tags e with
      | none => s
      | some t =>
        if t.status ≠ 0 ∨ 256 ≤ (s.nmu n).unacked then s
        else
          match t.again, t.results with
          | some x, _ => s.redRead n t x.g x.rank x.isResult
          | none, (b, r) :: rs => s.redRead n { t with results := rs } (t.g b) r true
          | none, [] =>
            if t.sendPos < t.share.length then
              let g := t.g t.sendPos
              let t' := { t with sendPos := t.sendPos + 1 }
              if t.owner g = t.ownRank then s.setTag n t' else s.redRead n t' g (t.owner g) false
            else s

/-- The NMU and tag slot that a control entry about a block is for. -/
def State.sentAt (s : State) (tag g node : Nat) : Option (Nat × TagSlot × RedSent) :=
  (List.range s.opts.memPorts).findSome? (fun n =>
    match s.tagOf n tag with
    | none => none
    | some t => (t.sent.find? (fun x => x.g == g && (s.ranksOf t.fleet).2.getD x.rank 0 == node && x.refused.isNone)).map
        (fun x => (n, t, x)))

/-- CACK: the contribution or result was admitted. -/
def State.cackArrives (s : State) (snode tag g : Nat) : State :=
  match s.sentAt tag g snode with
  | some (n, t, x) => s.setTag n { t with sent := t.sent.erase x }
  | none => s

/-- CREF: it was refused, and waits for a wake. -/
def State.crefArrives (s : State) (snode tag g cause : Nat) : State :=
  match s.sentAt tag g snode with
  | some (n, t, x) => s.setTag n { t with sent := t.sent.map (fun (y : RedSent) => if y = x then { y with refused := some cause } else y) }
  | none => s

/-- WAKE: refused blocks of the tag for that node may be sent again. -/
def State.wakeArrives (s : State) (snode tag : Nat) : State :=
  (List.range s.opts.memPorts).foldl (fun (u : State) n =>
    match u.tagOf n tag with
    | none => u
    | some t => u.setTag n { t with sent := t.sent.map (fun (y : RedSent) =>
        if y.refused.any (· < 3) ∧ (u.ranksOf t.fleet).2.getD y.rank 0 = snode then { y with refused := some 4 } else y) }) s

/-- A block settled with cause LINK may be sent again after the next route change takes effect (13 R364). -/
def State.linkAgain (s : State) : State :=
  { s with nmus := s.nmus.map (fun (p : Nat × Nmu) => (p.1, { p.2 with tags := p.2.tags.map (fun (q : Nat × TagSlot) =>
    (q.1, { q.2 with sent := q.2.sent.map (fun (y : RedSent) => if y.refused = some 3 then { y with refused := some 4 } else y) })) })) }

/-! ## The end of a tag (R339, R340; 13 R365, R367) -/

/-- Blocks of the share that are complete. -/
def TagSlot.done (t : TagSlot) : Nat := t.wb + t.doneB.length

/-- The record of a tag. -/
def TagSlot.words (t : TagSlot) : List Word :=
  let r := t.fin.getD (Run.start t.msg t.blk t.status)
  Run.record { r with status := t.status } t.done (if t.full then t.blk.n else t.wb)

/-- A tag ends before its time: moorings free, and it takes no further contribution (R340). -/
def State.endTag (s : State) (n : Nat) (t : TagSlot) (status : Nat) : State :=
  let x := s.wakeTag { t with moor := [], sent := [], results := [], status := status, ended := true }
  (x.2.setTag n x.1).nmuRecord n t.msg status (TagSlot.words { t with status := status })

/-- A tag is stopped with a status by ABORT_TAG or by the loss of its lease. Past its commit point, the completion of its last block, the
finish still follows, and its record carries ALREADY_DONE (R339, R340, 10 R284). -/
def State.stopTag (s : State) (n tag status : Nat) : State :=
  match s.tagOf n tag with
  | none => s
  | some t =>
    if t.ended then s
    else if t.full then s.setTag n { t with already := true }
    else
      let s := s.endTag n t status
      if collects 0x50 t.blk then
        s.modNmu n (fun c => { c with
          collects := c.collects.filter (fun x => !(x.fleet == t.fleet && x.tag == t.tag && x.par == t.blk.par)) })
      else s

/-- ABORT_TAG. -/
def State.abortTag (s : State) (n tag : Nat) : State := s.stopTag n tag 0x02

/-- Has the tag come to its finish: every block complete, everything sent and admitted? Of a tag that an abort met past its commit
point, what was sent and refused is settled too, since its ranks may have ended theirs (13 R367). -/
def TagSlot.ready (t : TagSlot) : Bool :=
  t.full && t.results.isEmpty && t.sent.all (fun x => t.already && x.refused.isSome) && decide (t.share.length ≤ t.sendPos)

/-- Has everything sent for a tag been answered, by CACK or CREF? A tag that fails in its run ends then, with no packet of it in flight
(13 R365). -/
def TagSlot.settled (t : TagSlot) : Bool := t.sent.all (fun x => x.refused.isSome)

/-- Units of a tag's finish: the blocks of its share, or units of 256 elements. -/
def TagSlot.finUnits (t : TagSlot) : Nat :=
  match t.blk.mode % 4 with
  | 1 => t.share.length
  | 2 => cdiv (t.blk.n / 4) 256
  | _ => 0

/-- The finish of a tag over its share starts (R339): an SGD reads its scale. -/
def State.finStart (s : State) (n : Nat) (t : TagSlot) : State × Run :=
  let r := { Run.start t.msg t.blk 0 with fleet := t.fleet }
  if t.blk.mode % 4 = 2 then
    let s := if t.msg.sr then s.setFld (Reg.NMU_SCOUT n) F.NMU_SCOUT_MAX 0 else s
    match s.readScale n t.msg.nmuCls t.fleet t.blk with
    | (0, e, s) => (s, { r with scale := e })
    | (st, _, s) => (s, { r with status := st })
  else (s, r)

/-- The next unit of a tag's finish. -/
def State.finUnit (s : State) (n : Nat) (t : TagSlot) (r : Run) : State × Run :=
  let x :=
    if t.blk.mode % 4 = 1 then
      let g := t.g r.next
      match s.nmuLoad n t.msg.nmuCls t.fleet (t.blk.opa + 256 * g) 256 with
      | (0, bs, s) =>
        (match s.nmuStores n t.msg.nmuCls t.fleet [(t.blk.opb + 256 * g, bs)] with
        | (st, s) => (s, { r with status := st }))
      | (st, _, s) => (s, { r with status := st })
    else s.sgdUnit n r r.next true (t.blk.n / 4)
  (x.1, { x.2 with next := r.next + 1 })

/-- The tag in slot `e` comes to its end: the finish, a unit of it at a time, the report of its scout, the record (R324, R339, 13
R365). -/
def State.tagComplete (s : State) (n e : Nat) : State :=
  match tfind (s.nmu n).tags e with
  | none => s
  | some t =>
    if t.ended then s
    else if t.status ≠ 0 then (if t.settled then s.endTag n t t.status else s)
    else if !t.ready || s.walkerFull t.fleet then s
    else s.overEm fun s =>
      match t.fin with
      | none =>
        let h := if collects 0x50 t.blk then s.homeOf n t.fleet t.blk.last else (none, s)
        if h.1 = some n ∧ !s.collecting n t.fleet t.tag t.blk.par ∧ 16 ≤ (s.nmu n).collects.length then s
        else
          let s := if h.1 = some n then h.2.openCollect n t.fleet t.tag t.blk.par t.blk.last else h.2
          let x := s.finStart n t
          x.1.setTag n { t with fin := some x.2 }
      | some r =>
        if r.status = 0 ∧ r.next < t.finUnits then
          let x := s.finUnit n t r
          x.1.setTag n { t with fin := some x.2 }
        else if collects 0x50 t.blk && !r.reported then
          (s.sendScout n r).setTag n { t with fin := some { r with reported := true } }
        else if collects 0x50 t.blk && s.collecting n t.fleet t.tag t.blk.par then s
        else
          let t := { t with status := if r.status = 0 ∧ t.already then 0x01 else r.status, ended := true }
          (s.setTag n t).nmuRecord n t.msg t.status (TagSlot.words t)

/-- NMU_COMPLETE: the operation engine's command, or the tag in a slot. -/
def State.nmuComplete (s : State) (n : Nat) (slot : Option Nat) : State :=
  match slot with
  | none => s.opComplete n
  | some e => s.tagComplete n e

end Sys2Proof.Machine
end

