-- ==== Sys2Proof/Machine/Links.lean ====
section
/-!
DEFINITION. Machine/Links.lean: the Filic link ports: frames, credits, replay, training, lane sparing, loss, partner accesses,
forwarding, and the entry and exit of reduction traffic (13 R344 to R364, R369).
-/

namespace Sys2Proof.Machine

/-! ## Counters and credits (R354, R369) -/

def State.flErr (s : State) (l : Nat) (f : Fld) (sat : Nat) : State :=
  s.errCount (Reg.FL_ERR l) f (Reg.FL_STAT l) F.FL_STAT_SAT sat (94 + l / 2)
def State.flCount (s : State) (l n : Nat) (tx : Bool) : State :=
  if tx then s.perfAdd (Reg.FL_TXS l) n (Reg.FL_STAT l) F.FL_STAT_TX_OVF F.FL_STAT_OVF_AE
  else s.perfAdd (Reg.FL_RXS l) n (Reg.FL_STAT l) F.FL_STAT_RX_OVF F.FL_STAT_OVF_AE

/-- Slots of a receive buffer, by virtual channel. -/
def vcBuf : Nat → Nat | 0 => 96 | 1 => 192 | 2 => 256 | _ => 192
def vcFld : Nat → Fld | 0 => F.FL_CRED_REQ | 1 => F.FL_CRED_RPL | 2 => F.FL_CRED_RED | _ => F.FL_CRED_CNV
def State.credits (s : State) (l vc : Nat) : Nat := s.fld (Reg.FL_CRED l) (vcFld vc)
def State.setCredits (s : State) (l vc n : Nat) : State := s.setFld (Reg.FL_CRED l) (vcFld vc) n

/-- The virtual channel of a slot (R352). -/
def slotVc (type low : Nat) : Nat :=
  match type with
  | 1 => 0 | 2 => 0 | 3 => 1 | 5 => 1 | 6 => 2 | 7 => 2 | 8 => 3
  | _ => if bit low 25 then 3 else 1

/-- Slots of a port's receive buffer became free. -/
def State.owe (s : State) (l vc : Nat) : State := s.modLink l (fun c => { c with owed := tput c.owed vc (tget 0 c.owed vc + 1) })

/-! ## Packets at their destination (R353, R356, R358, R363) -/

/-- Does this cluster's image open a port to partner accesses (11 R313)? -/
def State.opened (s : State) (l : Nat) : Bool := tget 0 s.cfg.open_ l != 0

/-- Queue a slot towards a node, where a port in service leads there. -/
def State.slotTo (s : State) (node : Nat) (x : LSlot) : State :=
  match s.routeTo node with
  | some l => if s.flLost l then s else s.queueSlot l (slotVc x.type x.low) x
  | none => s

/-- The answer to a remote read: its block, or POISON where it could not be read. DESIGN CHOICE (log entry 41): bit 0 of a POISON
descriptor tells that the access was not permitted (11 R313). -/
def State.answerRead (s : State) (snode tag : Nat) (cnv : Bool) (st : Nat) (bs : List Byte) : State :=
  let slot := fun (type low : Nat) (d : List Byte) => s.slotTo snode ⟨type, snode, s.cfg.ownNode, low, d, none⟩
  if st = 0 then slot (if cnv then 8 else 3) (tag * 2 ^ 26) bs
  else slot 4 (tag * 2 ^ 26 + b01 cnv * 2 ^ 25 + b01 (st == 0x04)) (List.replicate 256 0)

/-- Served writes that have ended are reported by WACK in their order of arrival, those not permitted apart (R358). -/
def State.reportWrites (s : State) (l snode : Nat) : State :=
  let ws := ((s.link l).serve.filter (fun x => x.write && x.snode == snode)).takeWhile (fun x => x.ended.isSome)
  let s := s.modLink l (fun c => { c with serve := c.serve.filter (fun x => !ws.contains x) })
  match s.routeTo snode with
  | some o =>
    let bad := (ws.filter (fun x => x.ended == some 0x04)).length
    s.modLink o (fun c => { c with
      wack := tput c.wack snode (tget 0 c.wack snode + (ws.length - bad))
      wackBad := tput c.wackBad snode (tget 0 c.wackBad snode + bad) })
  | none => s

/-- A served access has ended at its memory port. -/
def State.served (s : State) (l xid st : Nat) (bs : List Byte) : State :=
  match (s.link l).serve.find? (fun x => x.xid == xid) with
  | none => s
  | some x =>
    if x.write then
      (s.modLink l (fun c => { c with serve := c.serve.map (fun (y : Serve) => if y = x then { y with ended := some st } else y) })).reportWrites
        l x.snode
    else (s.modLink l (fun c => { c with serve := c.serve.erase x })).answerRead x.snode x.tag x.cnv st bs

/-- A remote access goes to the memory port that this cluster's own regions place it at, at priority 1 (11 R313, R356); one that no
region holds, or that came over a link not opened, is not permitted. -/
def State.serveAccess (s : State) (l snode tag : Nat) (cnv : Bool) (req : MemReq) : State :=
  let id := (s.link l).nextXid
  let s := s.modLink l (fun c => { c with
    serve := c.serve ++ [⟨id, snode, req.write, tag, cnv, none⟩]
    nextXid := id + 1 })
  match s.opened l, s.place req.pa with
  | true, some pl => s.send .data (.link l) (.port pl.stack) (.mem id req)
  | _, _ => s.served l id 0x04 []

/-- A request of a node's. -/
def nodeReq (write : Bool) (pa len : Nat) (bs : List Byte) : MemReq := ⟨write, pa, 0, len, bs, 1, false, 0, false, 0⟩

/-- A RD entry from a node. -/
def State.remoteRead (s : State) (l snode w : Nat) : State :=
  s.serveAccess l snode (bits w 48 10) (bits w 58 2 == 1) (nodeReq false (bits w 8 40 * 256) 256 [])

/-- A WR entry from a node waits for its data. -/
def State.remoteWrite (s : State) (l snode w : Nat) : State :=
  s.modLink l (fun c => { c with wrIn := c.wrIn ++ [(⟨snode, bits w 0 40 * 256, bits w 52 8, bits w 44 8 + 1⟩ : WrEntry)] })

/-- WDATA matches the next WR entry of its node; the write is performed and reported by WACK. -/
def State.remoteData (s : State) (l snode : Nat) (data : List Byte) : State :=
  match (s.link l).wrIn.find? (fun e => e.snode == snode) with
  | none => s
  | some e =>
    (s.modLink l (fun c => { c with wrIn := c.wrIn.erase e })).serveAccess l snode 0 false
      (nodeReq true (e.pa + e.off) e.len ((data.drop e.off).take e.len))

/-- A remote read of this cluster is answered, with a status. -/
def State.remoteDone (s : State) (l snode tag st : Nat) (data : List Byte) : State :=
  match s.remote.find? (fun r => r.sent && !r.write && r.node == snode && r.tag == tag) with
  | none => s
  | some r =>
    let s := { s with remote := s.remote.erase r }
    let s := match r.fill with
      | some (sec, fleet, line) => if st = 0 then s.cachePut sec ⟨fleet, line, data⟩ else s
      | none => s
    s.send .data (.link l) (.core r.core) (.xferData r.xid st ((data.drop (r.pa % 256)).take r.len))

/-- WACK: the oldest writes sent to a node are complete, and the sector's own copies of what they wrote follow (08 R219). With bit 8
(log entry 41) they were not permitted. -/
def State.wackArrives (s : State) (l snode n : Nat) (bad : Bool) : State :=
  let ws := (s.remote.filter (fun r => r.sent && r.write && r.node == snode)).take n
  ws.foldl (fun (t : State) r =>
    let t := { t with remote := t.remote.erase r }
    let t := match r.fill with
      | some (sec, fleet, va) => if bad then t else t.cacheWrite sec fleet va r.bytes
      | none => t
    t.send .reply (.link l) (.core r.core) (.xferAck r.xid (if bad then 0x04 else 0))) s

/-- A CONTRIB or RESULT at its destination node (R363). Where it needs a walk and the walker can start none, it is refused with FAULT
(11 R312). -/
def State.redArrives (s : State) (l : Nat) (isResult : Bool) (snode low : Nat) (data : List Byte) : State :=
  let tag := bits low 20 16
  let g := bits low 2 18
  let e := tag % 64
  let fl := s.fld (Reg.RD_CFG e) F.RD_CFG_FLEET
  if !s.rdHolds tag then s.rdRefuse snode tag g 0
  else
    let va := s.fld (Reg.RD_BASE e) F.RD_BASE_OPA + 256 * g
    let tlb := tget [] s.linkTlb l
    if s.walkerFull fl && !s.cached tlb nmuSets fl va ⟨true, true, false⟩ then s.rdRefuse snode tag g 2 else
    let r := s.translate tlb nmuSets nmuWays fl va ⟨true, true, false⟩ ⟨4, l, 0xFF⟩
    let s := { r.2.2 with linkTlb := tput r.2.2.linkTlb l r.2.1 }
    match r.1 with
    | (0, .em pa) =>
      (match s.place pa with
        | some pl =>
          if s.behind (.nmu pl.stack) then s.rdRefuse snode tag g 2
          else s.send .data (.link l) (.nmu pl.stack) (.red isResult snode tag g pa data)
        | none => s.rdRefuse snode tag g 2)
    | _ => s.rdRefuse snode tag g 2

/-- A spare takes over a lane: FL_LANES and the Logbook record it. -/
def State.takeFlSpare (s : State) (l : Nat) (w : Swap) : State :=
  (s.setFld (Reg.FL_LANES l) (if w.tx then F.FL_LANES_TXS else F.FL_LANES_RXS) (0x80 + w.lane)).report
    ⟨0x42, 0, 94 + l / 2, 5, l, 0xFF, 0, [BitVec.ofNat 64 (b01 w.tx), BitVec.ofNat 64 w.lane, 0]⟩

/-- Swaps of a direction whose frame has come take effect (R350). -/
def State.flSwapAt (s : State) (l : Nat) (tx : Bool) (seq : Nat) : State :=
  let now := (s.link l).moves.filter (fun w => w.tx == tx && w.atSeq == seq)
  now.foldl (fun (t : State) w => t.takeFlSpare l w) (s.modLink l (fun c => { c with moves := c.moves.filter (fun w => !now.contains w) }))

/-- A training starts (R349, R350). Credits, queues and frame numbers are kept; the frames not acknowledged are sent again as they were,
and counted (R348): the receiver discards those it has. Swaps under way are in effect after it. -/
def State.trainFl (s : State) (l : Nat) : State :=
  let c := s.link l
  let s := (s.setFld (Reg.FL_STAT l) F.FL_STAT_STATE 1).setLink l { c with
    resend := c.kept.map (fun x => x.1)
    swaps := []
    moves := [] }
  let s := iter (fun t => t.flErr l F.FL_ERR_REPLAY 3) c.kept.length s
  (c.moves ++ c.swaps.filter (fun w => w.tx)).foldl (fun (t : State) w => t.takeFlSpare l w) s

/-- SWAPREQ: a lane of the direction this port sends goes onto its spare, and SWAP will announce it; with the spare in use the direction
fast-retrains at half width (R350). -/
def State.swapTx (s : State) (l lane : Nat) : State :=
  let c := s.link l
  if bit (s.fld (Reg.FL_LANES l) F.FL_LANES_TXS) 7 || (c.swaps ++ c.moves).any (fun w => w.tx) then
    (s.setLink l { c with halfTx := true }).trainFl l
  else s.setLink l { c with swaps := c.swaps ++ [⟨true, 0, lane, 0⟩] }

/-- A control entry from a node (R353). -/
def State.ctlArrives (s : State) (l snode w : Nat) : State :=
  let tag := bits w 32 16
  let g := bits w 14 18
  match bits w 60 4 with
  | 1 => s.wackArrives l snode (bits w 0 8) (bit w 8)
  | 2 => s.cackArrives snode tag g
  | 3 => s.crefArrives snode tag g (bits w 0 2)
  | 4 => s.wakeArrives snode tag
  | 5 => s.swapTx l (bits w 0 4)
  | 6 => s.modLink l (fun c => { c with moves := c.moves ++ [(⟨false, 0, bits w 0 4, bits w 4 10⟩ : Swap)] })
  | _ => s

/-- The 64-bit entries of a slot. -/
def slotWords (data : List Byte) : List Nat := (List.range 32).map (fun i => leNat ((data.drop (8 * i)).take 8))

/-- A slot for this node. -/
def State.slotHere (s : State) (l : Nat) (x : LSlot) : State :=
  match x.type with
  | 1 => (slotWords x.data).foldl (fun (t : State) w => match bits w 60 4 with
      | 1 => t.remoteRead l x.snode w
      | 2 => t.remoteWrite l x.snode w
      | _ => t) s
  | 2 => s.remoteData l x.snode x.data
  | 3 => s.remoteDone l x.snode (bits x.low 26 10) 0 x.data
  | 8 => s.remoteDone l x.snode (bits x.low 26 10) 0 x.data
  | 4 => s.remoteDone l x.snode (bits x.low 26 10) (if bit x.low 0 then 0x04 else 0x0B) []
  | 5 => (slotWords x.data).foldl (fun (t : State) w => t.ctlArrives l x.snode w) s
  | 6 => s.redArrives l false x.snode x.low x.data
  | 7 => s.redArrives l true x.snode x.low x.data
  | _ => s

/-- Link-local control entries are taken whatever their DNODE (R353). -/
def localCtl (w : Nat) : Bool := bits w 60 4 == 5 || bits w 60 4 == 6

/-- The entries of a control slot that go on with it. -/
def stripLocal (data : List Byte) : List Byte := (slotWords data).flatMap (fun w => natLE 8 (if localCtl w then 0 else w))

/-- A slot that a frame brought: for this node it is handled, and leaves the buffer; for another it waits for the port that
the route table names (R356). -/
def State.slotIn (s : State) (l : Nat) (x : LSlot) : State :=
  let vc := slotVc x.type x.low
  if x.dnode = s.cfg.ownNode then (s.slotHere l x).owe l vc
  else
    let s := if x.type = 5 then ((slotWords x.data).filter localCtl).foldl (fun (t : State) w => t.ctlArrives l x.snode w) s else s
    match s.routeTo x.dnode with
    | some o =>
      if s.flLost o then s.owe l vc
      else s.queueSlot o vc { x with
        via := some l
        data := if x.type = 5 then stripLocal x.data else x.data }
    | none => s.owe l vc

/-! ## Receiving frames (R347, R348, R352) -/

/-- Slot `i` of a frame. -/
def frameSlot (f : List Byte) (i : Nat) : LSlot :=
  let d := fDesc f i
  ⟨bits d 60 4, bits d 48 12, bits d 36 12, bits d 0 36, fSlot f i, none⟩

/-- Is the port in service? -/
def State.flUp (s : State) (l : Nat) : Bool := s.flState l == 2 || s.flState l == 3

/-- Is a frame the next in order, with a good CRC? -/
def State.flInOrder (s : State) (l : Nat) (f : List Byte) : Bool :=
  fCrcOk f && ctrlSeq (fCtrl f) == ((s.link l).rxSeq + 1) % 1024
/-- Has a frame a descriptor of a TYPE not listed? -/
def protoBad (f : List Byte) : Bool := (List.range 15).any (fun i => decide (8 < descType (fDesc f i)))

/-- Working lanes of a direction. -/
def Link.rxLanes (c : Link) : Nat := if c.halfRx then 8 else 16
def Link.txLanes (c : Link) : Nat := if c.halfTx then 8 else 16

/-- A good frame, in order and of listed TYPEs: its CTRL and slots are taken. -/
def State.flGood (s : State) (l : Nat) (f : List Byte) : State :=
  let ctrl := fCtrl f
  let s := s.flSwapAt l false (ctrlSeq ctrl)
  let c := s.link l
  let kept := dropAcked c.kept (ctrlAck ctrl)
  let again := if ctrlNak ctrl then kept.map (fun x => x.1) else c.resend.filter (fun n => kept.any (fun x => x.1 == n))
  let s := s.setLink l { c with rxSeq := ctrlSeq ctrl, kept := kept, resend := again, fresh := false }
  let s := if ctrlNak ctrl then again.foldl (fun (t : State) _ => t.flErr l F.FL_ERR_REPLAY 3) s else s
  let vc := bits ctrl 9 2
  let s := s.setCredits l vc (min (vcBuf vc) (s.credits l vc + bits ctrl 4 5))
  let xs := ((List.range 15).map (frameSlot f)).filter (fun x => x.type != 0)
  xs.foldl (fun (t : State) x => t.slotIn l x) (s.flCount l xs.length false)

/-- The 4 096 bytes of a frame from the peer, as the lanes carried them: a good one, in order, is taken. -/
def State.filicFrame (s : State) (l : Nat) (w : List Byte) : State :=
  let r := fromWire (s.link l).rxLanes w
  if !s.flUp l || !s.flInOrder l r.1 || protoBad r.1 then s
  else s.overEm fun s => (if r.2 then s.flErr l F.FL_ERR_CORR 1 else s).flGood l r.1

/-- A frame is discarded: with a bad CRC or out of order NAK is set; with a TYPE not listed the port fast-retrains, and NAK is set. -/
def State.frameDiscarded (s : State) (l : Nat) (w : List Byte) : State :=
  let r := fromWire (s.link l).rxLanes w
  if !s.flUp l || (s.flInOrder l r.1 && !protoBad r.1) then s
  else
    let s := if r.2 then s.flErr l F.FL_ERR_CORR 1 else s
    let nak := fun (t : State) => t.modLink l (fun c => { c with nak := true })
    if !s.flInOrder l r.1 then
      (nak (if fCrcOk r.1 then s else s.flErr l F.FL_ERR_CRC 2)).flErr l F.FL_ERR_REPLAY 3
    else nak ((s.flErr l F.FL_ERR_PROTO 0).trainFl l)

/-! ## Sending frames (R354, R355) -/

/-- The lowest tag of a node that no read outstanding there uses. -/
def State.freeTag (s : State) (node : Nat) : Option Nat :=
  let used := (s.remote.filter (fun r => r.sent && !r.write && r.node == node)).map (fun r => r.tag)
  (List.range 1024).find? (fun t => !used.contains t)

def entryRd (r : RemoteReq) (tag : Nat) : Nat := 2 ^ 60 + b01 r.cnv * 2 ^ 58 + tag * 2 ^ 48 + r.pa / 256 * 2 ^ 8
def entryWr (r : RemoteReq) : Nat := 2 * 2 ^ 60 + r.pa % 256 * 2 ^ 52 + (r.len - 1) * 2 ^ 44 + r.pa / 256
/-- The data slot of a write. -/
def wdata (r : RemoteReq) : List Byte :=
  List.replicate (r.pa % 256) 0 ++ r.bytes ++ List.replicate (256 - r.pa % 256 - r.bytes.length) 0
/-- A slot of 64-bit entries. -/
def entrySlot (es : List Nat) : List Byte := es.flatMap (natLE 8) ++ List.replicate (256 - 8 * es.length) 0

/-- Requests of this cluster join the port's REQ queue: one CMD slot of the first waiting node's requests, with the data slots
of its writes. -/
def State.packRequests (s : State) (l : Nat) : State :=
  match s.remote.find? (fun r => !r.sent && s.routeTo r.node == some l) with
  | none => s
  | some r0 =>
    let rs := (s.remote.filter (fun r => !r.sent && r.node == r0.node)).take 32
    let x := rs.foldl (fun (acc : List Nat × List (List Byte) × State) r =>
      if r.write then
        (acc.1 ++ [entryWr r], acc.2.1 ++ [wdata r],
          { acc.2.2 with remote := acc.2.2.remote.map (fun (y : RemoteReq) => if y = r then { y with sent := true, link := l } else y) })
      else match acc.2.2.freeTag r.node with
        | none => acc
        | some t => (acc.1 ++ [entryRd r t], acc.2.1,
            { acc.2.2 with remote := acc.2.2.remote.map (fun (y : RemoteReq) =>
                if y = r then { y with sent := true, link := l, tag := t } else y) })) ([], [], s)
    if x.1.isEmpty then s
    else
      let put := fun (t : State) (type : Nat) (d : List Byte) => t.queueSlot l 0 ⟨type, r0.node, s.cfg.ownNode, 0, d, none⟩
      x.2.1.foldl (fun (t : State) d => put t 2 d) (put x.2.2 1 (entrySlot x.1))

/-- The node that the next CTL slot goes to: the first with entries or writes to report, else, for link-local entries alone, the
peer. -/
def State.ctlNode (s : State) (l : Nat) : Option Nat :=
  let c := s.link l
  match c.ctl, (c.wack ++ c.wackBad).find? (fun (p : Nat × Nat) => p.2 != 0) with
  | (n, _) :: _, _ => some n
  | [], some p => some p.1
  | [], none => if c.swaps.isEmpty then none else some (s.fld (Reg.FL_STAT l) F.FL_STAT_PEER)

/-- Control entries for one node, the writes to report to it and link-local entries join the port's RPL queue as one CTL slot. -/
def State.packControl (s : State) (l : Nat) : State :=
  match s.ctlNode l with
  | none => s
  | some n =>
    let c := s.link l
    let sw := (c.swaps.take 8).map (fun w => (if w.tx then 6 else 5) * 2 ^ 60 + w.lane)
    let ok := min 255 (tget 0 c.wack n)
    let bad := min 255 (tget 0 c.wackBad n)
    let gone := (c.ctl.filter (fun (p : Nat × Word) => p.1 == n)).take 22
    let es := sw ++ (if ok = 0 then [] else [ctlWack ok]) ++ (if bad = 0 then [] else [ctlWack (2 ^ 8 + bad)]) ++
      gone.map (fun (p : Nat × Word) => p.2.toNat)
    let s := s.setLink l { c with
      swaps := c.swaps.drop 8
      wack := tput c.wack n (tget 0 c.wack n - ok)
      wackBad := tput c.wackBad n (tget 0 c.wackBad n - bad)
      ctl := gone.foldl (fun (q : List (Nat × Word)) (p : Nat × Word) => q.erase p) c.ctl }
    s.queueSlot l vcRpl ⟨5, n, s.cfg.ownNode, 0, entrySlot es, none⟩

/-- The weights of a port's round robin: REQ, RED, CNV (R355). -/
def State.weightsOf (s : State) (l : Nat) : List Nat := tget [2, 8, 5] s.cfg.weights l
/-- The channels of the round robin, in order. -/
def drrVc (i : Nat) : Nat := match i % 3 with | 0 => 0 | 1 => 2 | _ => 3

/-- Take the first slot of a channel, with its credit; the buffer it held while it was forwarded is free. -/
def State.popSlot (s : State) (l vc : Nat) : Option (LSlot × State) :=
  if s.credits l vc = 0 then none
  else
    match tget [] (s.link l).queue vc with
    | [] => none
    | x :: xs =>
      let s := (s.modLink l (fun c => { c with queue := tput c.queue vc xs })).setCredits l vc (s.credits l vc - 1)
      some (x, match x.via with | some o => s.owe o vc | none => s)

/-- May a channel send? -/
def State.vcReady (s : State) (l vc : Nat) : Bool := !(tget [] (s.link l).queue vc).isEmpty && decide (0 < s.credits l vc)

/-- May a channel of the round robin send? -/
def State.drrReady (s : State) (l : Nat) : Bool := (List.range 3).any (fun i => s.vcReady l (drrVc i))

/-- Deficit round robin: the next slot. The turn moves on from a channel that has used its share, has nothing to send or has no
credit; a channel that may send gains its weight when its turn comes. -/
def State.drrPick (s : State) (l : Nat) : Nat → Option (LSlot × State)
  | 0 => none
  | f + 1 =>
    let c := s.link l
    let vc := drrVc c.turn
    let d := tget 0 c.deficit vc
    if d ≠ 0 ∧ s.vcReady l vc then
      (s.popSlot l vc).map (fun x => (x.1, x.2.modLink l (fun c => { c with deficit := tput c.deficit vc (d - 1) })))
    else
      let nx := (c.turn + 1) % 3
      let df := if (tget [] c.queue vc).isEmpty then tput c.deficit vc 0 else c.deficit
      let df := if s.vcReady l (drrVc nx) then tput df (drrVc nx) (tget 0 df (drrVc nx) + (s.weightsOf l).getD nx 1) else df
      (s.setLink l { c with turn := nx, deficit := df }).drrPick l f

/-- Fill up to `n` slots of a frame: RPL first, but at most 8 of them while another channel may send (R355). `k` is how many went to
RPL. -/
def State.flFill (s : State) (l : Nat) : Nat → Nat → List LSlot → List LSlot × State
  | 0, _, acc => (acc, s)
  | n + 1, k, acc =>
    if s.vcReady l vcRpl && (decide (k < 8) || !s.drrReady l) then
      match s.popSlot l vcRpl with
      | some (x, s) => s.flFill l n (k + 1) (acc ++ [x])
      | none => (acc, s)
    else if s.drrReady l then
      match s.drrPick l 8 with
      | some (x, s) => s.flFill l n k (acc ++ [x])
      | none => (acc, s)
    else (acc, s)

/-- SWAP entries get the frame they take effect at, 32 after the one that carries them (R350). -/
def stampSwaps (at_ : Nat) (x : LSlot) : LSlot :=
  if x.type = 5 then { x with data := (slotWords x.data).flatMap (fun w =>
    natLE 8 (if bits w 60 4 = 6 then 6 * 2 ^ 60 + at_ * 2 ^ 4 + bits w 0 4 else w)) }
  else x
/-- The swaps that a slot announces. -/
def slotSwaps (at_ : Nat) (x : LSlot) : List Swap :=
  if x.type = 5 then ((slotWords x.data).filter (fun w => bits w 60 4 == 6)).map (fun w => (⟨true, 0, bits w 0 4, at_⟩ : Swap)) else []

/-- The channel whose credits a frame returns: the one with the most slots owed, the lowest on a tie (R354). -/
def Link.owedMost (c : Link) : Nat :=
  (List.range 4).foldl (fun best vc => if tget 0 c.owed best < tget 0 c.owed vc then vc else best) 0

/-- A slot's descriptor. -/
def LSlot.desc (x : LSlot) : Nat := x.type * 2 ^ 60 + x.dnode * 2 ^ 48 + x.snode * 2 ^ 36 + x.low

/-- At a frame boundary the port sends a frame again, or a new one. -/
def State.flTxFrame (s : State) (l : Nat) : State :=
  if !s.flUp l then s
  else
    match (s.link l).resend with
    | n :: rest =>
      -- the frame is sent as it was
      s.modLink l (fun c => { c with
        resend := rest, wire := ((c.kept.find? (fun x => x.1 == n)).map (fun x => toWire c.txLanes x.2)).getD c.wire })
    | [] =>
      if 512 ≤ (s.link l).kept.length then s
      else
        let s := s.flSwapAt l true (s.link l).txSeq
        let s := (if s.stalled (94 + l / 2) then s else s.packRequests l).packControl l
        let at_ := ((s.link l).txSeq + 32) % 1024
        let d := s.flFill l 15 0 []
        let xs := d.1.map (stampSwaps at_)
        let s := d.2.flCount l xs.length true
        let c := s.link l
        let vc := c.owedMost
        let n := min 31 (tget 0 c.owed vc)
        let ctrl := c.txSeq * 2 ^ 22 + c.rxSeq * 2 ^ 12 + b01 c.nak * 2 ^ 11 + vc * 2 ^ 9 + n * 2 ^ 4
        let f := mkFrame (xs.map (fun x => (x.data.take 256 ++ List.replicate (256 - x.data.length) 0, x.desc))) ctrl
        s.setLink l { c with
          wire := toWire c.txLanes f
          txSeq := (c.txSeq + 1) % 1024
          kept := c.kept ++ [(c.txSeq, f)]
          owed := tput c.owed vc (tget 0 c.owed vc - n)
          nak := false
          moves := c.moves ++ xs.flatMap (slotSwaps at_)
          fresh := false }

/-! ## Loss, training and lane sparing (R349 to R351) -/

/-- What a LOST port does to the others: the buffers that its waiting slots of other ports held are free there, and slots that came by it
hold none of its own any more. -/
def State.freeTransit (s : State) (l : Nat) : State :=
  let xs := (s.link l).queue.flatMap (fun (p : Nat × List LSlot) => p.2.filterMap (fun x => x.via.map (fun o => (o, p.1))))
  let s := xs.foldl (fun (t : State) x => if x.1 = l then t else t.owe x.1 x.2) s
  { s with links := s.links.map (fun (p : Nat × Link) => (p.1, { p.2 with queue := p.2.queue.map (fun (q : Nat × List LSlot) =>
    (q.1, q.2.map (fun (x : LSlot) => if x.via = some l then { x with via := none } else x))) })) }

/-- The port becomes LOST, and its traffic is settled; it will train afresh. -/
def State.loseFl (s : State) (l : Nat) : State :=
  if s.flLost l then s
  else
    let s := s.setFld (Reg.FL_STAT l) F.FL_STAT_STATE 4
    let s := s.report ⟨0x41, 3, 94 + l / 2, 5, l, 0xFF, 0, [s.rd (Reg.FL_STAT l)]⟩
    let via := fun (node : Nat) => s.routeTo node == some l
    let gone := s.remote.filter (fun r => via r.node || (r.sent && r.link == l))
    let s := gone.foldl (fun (t : State) r =>
      let t := { t with remote := t.remote.erase r }
      if r.write then t.send .reply (.link l) (.core r.core) (.xferAck r.xid 0x91)
      else t.send .data (.link l) (.core r.core) (.xferData r.xid 0x91 [])) s
    let s := { s with
      net := s.net.filter (fun (p : Packet) => !(p.src == Endpoint.link l && (match p.body with | .mem _ _ => true | _ => false)))
      nmus := s.nmus.map (fun (p : Nat × Nmu) => (p.1, { p.2 with tags := p.2.tags.map (fun (q : Nat × TagSlot) =>
        (q.1, { q.2 with sent := q.2.sent.map (fun (y : RedSent) =>
          if y.refused.isNone && via ((s.ranksOf q.2.fleet).2.getD y.rank 0) then { y with refused := some 3 } else y) })) })) }
    (s.freeTransit l).setLink l Link.reset

/-- FL_CTL.RETRAIN: a full training; ignored on a LOST port. -/
def State.retrainFl (s : State) (l : Nat) : State :=
  if s.flLost l then s else (s.modLink l (fun c => { c with halfRx := false, halfTx := false })).trainFl l

/-- A training ends: ACTIVE or HALF with the lanes found, those replaced before staying so; DOWN with MISWIRE where the wrong node answered; a failure; the third
in a row, or too few lanes, lose the port. A failure with lanes named is one by crossed lanes, those (19 R495). While PHY_REFCLK is
absent no training ends (19 R492). -/
def State.flTrainingDone (s : State) (l : Nat) (ok : Bool) (node : Nat) (badRx badTx : List Nat) : State :=
  if s.flState l ≠ 1 ∨ s.phyOff then s
  else if !ok then
    let n := (s.link l).fails + 1
    let s := if badRx.isEmpty && badTx.isEmpty then s else s.setFld (Reg.FL_STAT l) F.FL_STAT_MISWIRE 1
    let s := s.modLink l (fun c => { c with fails := n, halfRx := false, halfTx := false })
    if 3 ≤ n then s.loseFl l else s
  else
    let s := s.setFld (Reg.FL_STAT l) F.FL_STAT_PEER node
    if (tfind s.cfg.peers l).any (· != node) then
      let s := (s.setFld (Reg.FL_STAT l) F.FL_STAT_STATE 0).setFld (Reg.FL_STAT l) F.FL_STAT_MISWIRE 1
      s.report ⟨0x44, 2, 94 + l / 2, 5, l, 0xFF, 0, [s.rd (Reg.FL_STAT l)]⟩
    else
      let old := fun (f : Fld) => lanesOf [s.fld (Reg.FL_LANES l) f]
      match assignLanes 16 1 (old F.FL_LANES_RXS) badRx, assignLanes 16 1 (old F.FL_LANES_TXS) badTx with
      | some rx, some tx =>
        let hr := rx.2 || (s.link l).halfRx
        let ht := tx.2 || (s.link l).halfTx
        let half := hr || ht
        let s := s.wr (Reg.FL_LANES l) (BitVec.ofNat 64 (laneByte tx.1 0 * 2 ^ 8 + laneByte rx.1 0))
        let s := (s.setFld (Reg.FL_STAT l) F.FL_STAT_WIDTH (b01 ht + 2 * b01 hr)).setFld (Reg.FL_STAT l) F.FL_STAT_STATE (if half then 3 else 2)
        let s := if (s.link l).fresh then (List.range 4).foldl (fun (t : State) vc => t.setCredits l vc (vcBuf vc)) s else s
        let s := s.modLink l (fun c => { c with fails := 0, halfRx := hr, halfTx := ht })
        if half then s.report ⟨0x43, 2, 94 + l / 2, 5, l, 0xFF, 0, [s.rd (Reg.FL_STAT l)]⟩ else s
      | _, _ => s.loseFl l

/-- A receiver finds a lane bad: it asks for a swap; with its spare in use the direction fast-retrains at half width (R350). -/
def State.flLaneSwap (s : State) (l lane : Nat) : State :=
  if !s.flUp l || decide (16 ≤ lane) then s
  else if bit (s.fld (Reg.FL_LANES l) F.FL_LANES_RXS) 7 then (s.modLink l (fun c => { c with halfRx := true })).trainFl l
  else s.modLink l (fun c => { c with swaps := c.swaps ++ [(⟨false, 0, lane, 0⟩ : Swap)] })

end Sys2Proof.Machine
end

