-- ==== Sys2Proof/Machine/HostPort.lean ====
section
/-!
DEFINITION. Machine/HostPort.lean: the host attach port (18 R460 to R466): inbound commands, completions, time-outs, credits,
and what comes back for accesses that it or a host core made. Its DRS accesses are in Machine/Device.lean.
-/

namespace Sys2Proof.Machine

/-- Does the port take inbound packets? -/
def State.haReady (s : State) : Bool := s.fld Reg.HA_STAT F.HA_STAT_STATE == 1

/-- Count an event in HA_ERR, with the host alert (R465, R478); `sat` is the counter's bit of HA_STAT.SAT. -/
def State.haCount (s : State) (f : Fld) (sat : Nat) : State :=
  let full := s.fld Reg.HA_ERR f == 0xFFFF
  let s := s.errCount Reg.HA_ERR f Reg.HA_STAT F.HA_STAT_SAT sat 98
  if full then s else s.alert 11

def State.haParity (s : State) : State := s.haCount F.HA_ERR_PARITY 3
def State.haDenied (s : State) : State := s.haCount F.HA_ERR_DENIED 2
def State.haTimedOut (s : State) : State := s.haCount F.HA_ERR_TIMEOUT 1
def State.haLate (s : State) : State := s.haCount F.HA_ERR_LATE 0

/-- Complete an inbound NPR. -/
def State.cpl (s : State) (tag status : Nat) (bytes : List Byte) : State := s.haSend ⟨0x08, 0, bytes.length, bytes, tag, status⟩

/-! ## Packets on the port (R460, R461, R463) -/

/-- The fields of a header beat (R461). `len` is LEN as sent, the bytes minus 1. -/
structure HaHeader where
  op : Nat
  owner : Bool
  fleet : Nat
  len : Nat
  tag : Nat
  status : Nat
  tgt : Nat
  addr : Nat
  tally : Option Nat
  deriving DecidableEq, Repr

/-- The 64 bytes of a header beat. -/
def HaHeader.bytes (h : HaHeader) : List Byte :=
  natLE 1 h.op ++ natLE 1 (b01 h.owner * 2 ^ 7 + h.fleet) ++ natLE 2 h.len ++ natLE 2 h.tag ++ natLE 1 h.status ++ natLE 1 h.tgt ++
    natLE 8 h.addr ++ natLE 1 (match h.tally with | some t => 2 ^ 4 + t | none => 0) ++ List.replicate 47 0

/-- A header beat as the port reads it: bytes and bits that no field takes are ignored. -/
def HaHeader.ofBytes (b : List Byte) : HaHeader where
  op := blk b 0 1
  owner := bit (blk b 1 1) 7
  fleet := blk b 1 1 % 2 ^ 4
  len := blk b 2 2
  tag := blk b 4 2 % 2 ^ 12
  status := blk b 6 1
  tgt := blk b 7 1 % 2 ^ 6
  addr := blk b 8 8
  tally := if bit (blk b 16 1) 4 then some (blk b 16 1 % 2 ^ 4) else none

/-- The header beat of an outbound packet. -/
def HaPacket.header (p : HaPacket) : HaHeader := ⟨p.op, false, 0, p.len - 1, p.tag, p.status, 0, p.addr, none⟩

/-- The beats of an outbound packet: payload byte i stands in data beat i / 64, and the last beat is filled up with zeros (R460). -/
def HaPacket.onWire (p : HaPacket) : List (List Byte) :=
  p.header.bytes :: (List.range (cdiv p.bytes.length 64)).map (fun i =>
    let d := (p.bytes.drop (64 * i)).take 64
    d ++ List.replicate (64 - d.length) 0)

/-- The command that an inbound packet without a parity error is: its OP on the channel it came by (R462); `b` as of a register write.
None: its channel does not carry the OP, and the packet is a MALFORMED_PACKET. -/
def haCommand (ch : Nat) (header data : List Byte) (b : BootIn) : Option Instr :=
  let h := HaHeader.ofBytes header
  let d := data.take (h.len + 1)
  match ch, h.op with
  | 1, 0x01 => some <| .drsRd h.owner h.fleet h.tag h.addr (h.len + 1)
  | 0, 0x02 => some <| .drsWr h.owner h.fleet h.addr d b
  | 1, 0x03 => some <| .emRd h.owner h.fleet h.tag h.addr (h.len + 1)
  | 0, 0x04 => some <| .emWr h.owner h.fleet h.addr d
  | 0, 0x05 => some <| .hput h.owner h.fleet h.tgt h.addr h.tally d
  | 1, 0x07 => some <| .flush h.tag
  | 2, 0x08 => some <| .cpl h.tag h.status d
  | _, _ => none

/-- Inbound credits that a command's packet takes: PW beats and NPR headers (R460, R463). -/
def inboundCost : Instr → Nat × Nat
  | .drsRd _ _ _ _ _ => (0, 1)
  | .emRd _ _ _ _ _ => (0, 1)
  | .flush _ => (0, 1)
  | .drsWr _ _ _ bs _ => (1 + cdiv bs.length 64, 0)
  | .emWr _ _ _ bs => (1 + cdiv bs.length 64, 0)
  | .hput _ _ _ _ _ bs => (1 + cdiv bs.length 64, 0)
  | _ => (0, 0)

/-- The inbound credits that the wrapper holds between packets: the 128 and 32 that the cluster gives (R463), but for those of packets
that stand in the port's buffer. HA_I_CR returns each credit when its beat or header leaves the buffer, which is the end of its event. -/
def State.inboundCredits (s : State) : Nat × Nat :=
  if s.haReady then
    let held := s.drsHeld.map (fun x => inboundCost x.2)
    (128 - (held.map (fun x => x.1)).sum, 32 - (held.map (fun x => x.2)).sum)
  else (0, 0)

/-- A right of a fleet (R466). -/
def State.haRight (s : State) (fleet : Nat) (f : Fld) : Bool := decide (fleet < 16) && s.flag (Reg.HA_RIGHTS fleet) f

/-! ## What comes back -/

/-- Bytes put into others at a place. -/
def splice (old : List Byte) (at_ : Nat) (new : List Byte) : List Byte := old.take at_ ++ new ++ old.drop (at_ + new.length)

/-- A part that an inbound packet waits for has arrived. -/
def NprIn.arrived (x : NprIn) (part status : Nat) (bytes : List Byte) : NprIn :=
  match x.waits.find? (fun (w : Nat × Nat × Nat) => w.1 == part) with
  | none => x
  | some w => { x with
      waits := x.waits.filter (fun (v : Nat × Nat × Nat) => v.1 != part)
      data := if x.op = 3 ∧ status = 0 then splice x.data w.2.1 (bytes.take w.2.2) else x.data
      status := if x.op ≠ 3 ∨ x.status ≠ 0 then x.status else status }

/-- Part number `part` is done: reads take its data, and packets that wait for nothing more complete. -/
def State.partDone (s : State) (part status : Nat) (bytes : List Byte) : State :=
  let xs := s.nprIn.map (fun (x : NprIn) => x.arrived part status bytes)
  let s := { s with
    puts := s.puts.filter (· != part)
    nprIn := xs.filter (fun (x : NprIn) => !x.waits.isEmpty) }
  (xs.filter (fun (x : NprIn) => x.waits.isEmpty)).foldl (fun (t : State) (x : NprIn) =>
    t.cpl x.tag x.status (if x.status = 0 then x.data else [])) s

/-- What host core `a`'s last access came to. -/
def State.hostResult (s : State) (a : Nat) (fault : Bool) (v : Word) : State := { s with hostRes := tput s.hostRes a ⟨fault, v⟩ }

/-- Data for an access of the host attach port or of a host core lands. -/
def State.hostData (s : State) (id part status : Nat) (bytes : List Byte) : State :=
  if id < 72 then s.hostResult (id - 64) (status != 0) (BitVec.ofNat 64 (leNat bytes)) else s.partDone part status bytes

/-- A write of theirs is acknowledged. -/
def State.hostAck (s : State) (id part status : Nat) : State :=
  if id < 72 then s.hostResult (id - 64) (status != 0) 0 else s.partDone part status []

/-- LANDING: of host core and host attach accesses, of what a Filic port serves (13 R356), or of any other (08 R221). -/
def State.land (s : State) (i : Nat) : State :=
  match s.arrival i with
  | some ⟨_, _, .core id, .xferData xid st bs⟩ => if 64 ≤ id then (s.takePacket i).hostData id xid st bs else s.landing i
  | some ⟨_, _, .link l, .xferData xid st bs⟩ => (s.takePacket i).served l xid st bs
  | _ => s.landing i

/-- A host core's put has landed: its send block is free (R470). -/
def State.putDone (s : State) (a status : Nat) : State :=
  (s.setFld (Reg.HCS_GO a) F.HCS_GO_BUSY 0).setFld (Reg.HCS_GO a) F.HCS_GO_STATUS status

/-- TRANSFER_ACK: an acknowledgement arrives at whoever made the transfer (08 R213, 12 R323). -/
def State.transferAck (s : State) (i : Nat) : State :=
  match s.arrival i with
  | some ⟨_, _, .core id, .xferAck xid st⟩ =>
    let s := s.takePacket i
    if 64 ≤ id then s.hostAck id xid st
    else (match s.slotOf id with | some k => s.ackXfer k xid st | none => s)
  | some ⟨_, _, .link l, .xferAck xid st⟩ => (s.takePacket i).served l xid st []
  | some ⟨_, _, .nmu n, .deliverAck tag st len⟩ => (s.takePacket i).deliverAcked n tag st len
  | some ⟨_, _, .attach, .deliverAck tag st _⟩ => (s.takePacket i).partDone tag st []
  | some ⟨_, _, .host a, .deliverAck _ st _⟩ => (s.takePacket i).putDone a st
  | _ => s

/-! ## Inbound External Memory accesses (R462) -/

/-- Sets and ways of the port's translation cache (11 R310). -/
def haSets : Nat := 64
def haWays : Nat := 8

/-- Translate the pieces of an access for a fleet: the first failing status, or each piece's place, length and translation. -/
def State.haXlate (s : State) (fleet : Nat) (write : Bool) : List (Nat × Nat) → Nat × List (Target × Nat × XlUse) × State
  | [] => (0, [], s)
  | p :: ps =>
    let r := s.translate s.haTlb haSets haWays fleet p.1 ⟨write, false, false⟩ ⟨3, 0, 0xFF⟩
    let t := { r.2.2 with haTlb := r.2.1 }
    if r.1.1 ≠ 0 then (r.1.1, [], t)
    else
      let q := t.haXlate fleet write ps
      let xl := match tlbFind t.haTlb haSets fleet p.1 with | some x => ⟨pageSize x.big, fleet, p.1⟩ | none => .none
      (q.1, (r.1.2, p.2, xl) :: q.2.1, q.2.2)

/-- The next part number. -/
def State.newPart (s : State) : Nat × State := (s.nextPut, { s with nextPut := s.nextPut + 1 })

/-- Read pieces in turn: those of this cluster give their bytes or a status, the others are asked for. -/
def State.haReads (s : State) (x : NprIn) : List (Target × Nat × XlUse) → NprIn × State
  | [] => (x, s)
  | p :: ps =>
    if x.status ≠ 0 then (x, s)
    else
      match p.1 with
      | .em pa =>
        let r := s.emLoadBy .attach (clsPrio 0) pa p.2.1
        r.2.2.haReads { x with
          data := x.data ++ r.2.1
          status := r.1 } ps
      | .partner node pa =>
        let n := s.newPart
        (n.2.askRemote ⟨node, 0, false, false, pa, p.2.1, [], 128, n.1, none, false, 0, p.2.2, false⟩).haReads { x with
          waits := x.waits ++ [(n.1, x.data.length, p.2.1)]
          data := x.data ++ List.replicate p.2.1 0 } ps
      | .host a =>
        let n := s.newPart
        (n.2.askHost false a p.2.1 [] 128 n.1 none p.2.2).haReads { x with
          waits := x.waits ++ [(n.1, x.data.length, p.2.1)]
          data := x.data ++ List.replicate p.2.1 0 } ps

/-- Write pieces in turn; those that leave the cluster are posted writes not yet done. -/
def State.haWrites (s : State) : List (Target × Nat × XlUse) → List Byte → State
  | [], _ => s
  | p :: ps, bs =>
    let now := bs.take p.2.1
    let s := match p.1 with
      | .em pa => (s.emStoreBy .attach (clsPrio 0) pa now).2
      | .partner node pa =>
        let n := s.newPart
        { n.2 with puts := n.2.puts ++ [n.1] }.askRemote ⟨node, 0, true, false, pa, p.2.1, now, 128, n.1, none, false, 0, p.2.2, false⟩
      | .host a =>
        let n := s.newPart
        { n.2 with puts := n.2.puts ++ [n.1] }.askHost true a p.2.1 now 128 n.1 none p.2.2
    s.haWrites ps (bs.drop p.2.1)

/-- The pieces of an access, by 256-byte blocks. -/
def emShape (addr len : Nat) : Bool := decide (1 ≤ len) && decide (len ≤ 4096) && decide (addr < 2 ^ 48)

/-- EM_RD. It waits while the fleet's walker holds 64 fault records (11 R312). -/
def State.emRd (s : State) (owner : Bool) (fleet tag addr len : Nat) : State :=
  if !s.haReady then s
  else if !emShape addr len then s.cpl tag 0x82 []
  else if owner then s.overEm fun s =>
    let r := s.emLoadBy .attach (clsPrio 0) addr len
    r.2.2.cpl tag r.1 (if r.1 = 0 then r.2.1 else [])
  else if !s.haRight fleet F.HA_RIGHTS_EM then s.cpl tag 0x04 []
  else if s.walkerFull fleet then s
  else s.overEm fun s =>
    let t := s.haXlate fleet false (piecesOf addr len)
    if t.1 ≠ 0 then t.2.2.cpl tag t.1 []
    else
      let r := t.2.2.haReads ⟨3, tag, [], [], 0⟩ t.2.1
      if r.1.status ≠ 0 then r.2.cpl tag r.1.status []
      else if r.1.waits.isEmpty then r.2.cpl tag 0 r.1.data
      else { r.2 with nprIn := r.2.nprIn ++ [r.1] }

/-- EM_WR. -/
def State.emWr (s : State) (owner : Bool) (fleet addr : Nat) (bs : List Byte) : State :=
  if !s.haReady then s
  else if !emShape addr bs.length then s.haDenied
  else if owner then s.overEm fun s => (s.emStoreBy .attach (clsPrio 0) addr bs).2
  else if !s.haRight fleet F.HA_RIGHTS_EM then s.haDenied
  else if s.walkerFull fleet then s
  else s.overEm fun s =>
    let t := s.haXlate fleet true (piecesOf addr bs.length)
    if t.1 ≠ 0 then t.2.2 else t.2.2.haWrites t.2.1 bs

/-! ## HPUT, FLUSH, completions (R462, R465) -/

/-- HPUT: the bytes go to the core and land at once where nothing holds them. -/
def State.hput (s : State) (owner : Bool) (fleet tgt addr : Nat) (tally : Option Nat) (bs : List Byte) : State :=
  if !s.haReady then s
  else if bs.isEmpty || decide (4096 < bs.length) || decide (64 ≤ tgt) || decide (tsSize < addr + bs.length) ||
      tally.any (fun t => decide (16 ≤ t)) then s.haDenied
  else if !owner && !(s.haRight fleet F.HA_RIGHTS_HPUT && s.fleetOf tgt == some fleet) then s.haDenied
  else
    let n := s.newPart
    let s := { n.2 with puts := n.2.puts ++ [n.1] }.send .data .attach (.core tgt) (.deliver n.1 addr bs tally)
    s.landing (s.net.length - 1)

/-- FLUSH. -/
def State.flush (s : State) (tag : Nat) : State :=
  if !s.haReady then s
  else if s.puts.isEmpty then s.cpl tag 0 []
  else { s with nprIn := s.nprIn ++ [⟨7, tag, s.puts.map (fun n => (n, 0, 0)), [], 0⟩] }

/-- A host-memory access ends, with a status or its data; the sector's own copy of what it wrote follows (08 R219). -/
def State.hmEnd (s : State) (r : HmReq) (status : Nat) (bs : List Byte) : State :=
  let s := { s with hm := s.hm.erase r }
  if r.write then
    let s := match r.fill with
      | some (sec, fleet, va) => if status = 0 then s.cacheWrite sec fleet va r.bytes else s
      | none => s
    s.send .reply .attach (.core r.core) (.xferAck r.xid status)
  else if status ≠ 0 then s.send .data .attach (.core r.core) (.xferData r.xid status [])
  else
    let s := match r.fill with
      | some (sec, fleet, line) => s.cachePut sec ⟨fleet, line, bs⟩
      | none => s
    s.send .data .attach (.core r.core) (.xferData r.xid 0 ((bs.drop r.lo).take r.want))

/-- An inbound completion; one that matches nothing outstanding is late. -/
def State.cplIn (s : State) (tag status : Nat) (bs : List Byte) : State :=
  if !s.haReady then s
  else
    match s.hm.find? (fun r => r.sent && r.tag == tag) with
    | some r => s.hmEnd r status bs
    | none => s.haLate

/-- An access has had no completion within HA_CFG.TIMEOUT. -/
def State.hostTimeout (s : State) (tag : Nat) : State :=
  match s.hm.find? (fun r => r.sent && r.tag == tag) with
  | some r => ({ s with time := max s.time r.due }.hmEnd r 0x94 []).haTimedOut
  | none => s

/-- OPs of each inbound channel: 0 PW, 1 NPR, 2 CPL. -/
def chanOps : Nat → List Nat | 0 => [2, 4, 5] | 1 => [1, 3, 7] | 2 => [8] | _ => []

/-- A packet with a parity error (`hdr`: in its header too), or with an OP that its channel does not carry (R462, R465). -/
def State.malformed (s : State) (ch op tag : Nat) (parity hdr : Bool) : State :=
  if !s.haReady then s
  else if parity then
    let s := s.haParity
    if !hdr ∧ ch = 1 then s.cpl tag 0x95 [] else s
  else if (chanOps ch).contains op then s
  else if ch = 1 then s.cpl tag 0x82 []
  else s.haDenied

/-- The wrapper returns outbound credits (R463); the port holds none before HA_RDY has risen. -/
def State.creditReturn (s : State) (pw npr : Nat) : State :=
  if !s.haReady then s else { s with haCredits := (s.haCredits.1 + pw, s.haCredits.2 + npr) }.haPump

end Sys2Proof.Machine
end

