-- ==== Sys2Proof/Machine/Slice.lean ====
section
/-!
DEFINITION. Machine/Slice.lean: the descriptor-form vector commands SLICE and RECOMB (04 R98 to R110; 02 R45 to R47;
06 R155 to R157).
-/

namespace Sys2Proof.Machine

/-! ## SLICE descriptor (06 R156) -/

/-- The fields of a SLICE descriptor. -/
structure SliceDesc where
  src : Nat
  dst : Nat
  exp : Nat
  sumAddr : Nat
  stride : Nat
  k : Nat
  l : Nat
  n : Nat
  sfmt : Nat
  expsrc : Nat
  elem : Bool
  neg : Bool
  sumEn : Bool
  spc : Nat
  deriving DecidableEq, Repr

def decodeSlice (b : List Byte) : SliceDesc :=
  { src := blk b 0 4, dst := blk b 4 4, exp := blk b 8 4, sumAddr := blk b 12 4, stride := blk b 16 4, k := blk b 20 2,
    l := blk b 22 1, n := blk b 23 1, sfmt := bits (blk b 24 1) 0 4, expsrc := bits (blk b 24 1) 4 2,
    elem := bit (blk b 24 1) 6, neg := bit (blk b 24 1) 7, sumEn := bit (blk b 25 1) 0, spc := blk b 26 1 }

/-- Is the source INT16 (R108)? -/
def SliceDesc.int16 (d : SliceDesc) : Bool := d.sfmt == 5
def SliceDesc.complex (d : SliceDesc) : Bool := d.sfmt == 3 || d.sfmt == 4
/-- Bytes of a source element. -/
def SliceDesc.size (d : SliceDesc) : Nat := match d.sfmt with | 0 => 8 | 1 => 4 | 2 => 2 | 3 => 16 | 4 => 8 | _ => 2
/-- The format of one real value of the source. -/
def SliceDesc.fmt (d : SliceDesc) : FFmt := match d.sfmt with | 1 => fp32 | 4 => fp32 | 2 => bf16 | _ => fp64
/-- MERGE, of a source that has exponents. -/
def SliceDesc.merge (d : SliceDesc) : Bool := d.expsrc == 2 && !d.int16
/-- Is the exponent block at EXP read (R99, R108)? -/
def SliceDesc.readsExp (d : SliceDesc) : Bool := (d.expsrc == 1 || d.expsrc == 2) && !d.int16
/-- Slice planes written, per part. -/
def SliceDesc.planes (d : SliceDesc) : Nat := if d.int16 then 2 else d.n
/-- Parts: real, imaginary, negated imaginary (R101). -/
def SliceDesc.parts (d : SliceDesc) : Nat := if d.complex then (if d.neg then 3 else 2) else 1
/-- Bytes written at DST. -/
def SliceDesc.outBytes (d : SliceDesc) : Nat := if d.merge then 256 else 256 + d.parts * d.planes * d.k * 128
/-- Address of element `e` of lane `i`. -/
def SliceDesc.addr (d : SliceDesc) (i e : Nat) : Nat :=
  if d.elem then d.src + e * d.stride + i * d.size else d.src + i * d.stride + e * d.size
/-- The byte runs the source is read in: (start, length). -/
def SliceDesc.runs (d : SliceDesc) : List (Nat × Nat) :=
  if d.elem then (List.range d.k).map (fun e => (d.addr 0 e, d.l * d.size))
  else (List.range d.l).map (fun i => (d.addr i 0, d.k * d.size))

/-- The checks of a SLICE descriptor read from `desc`, in order (R99, R156, 06 R142, R144). The descriptor is one of the inputs, a
used summary one of the outputs. -/
def sliceCheck (desc : Nat) (d : SliceDesc) : Option Nat :=
  let src := (desc, 64) :: d.runs
  let ins := src ++ (if d.readsExp && !(d.merge && d.exp == d.dst) then [(d.exp, 256)] else [])
  let sumIns := src ++ (if d.readsExp then [(d.exp, 256)] else [])
  firstFail
    [ (decide (5 < d.sfmt) || d.expsrc == 3, 0x80),
      (!d.int16 && (d.n == 0 || decide (7 < d.n)), 0x82),
      (d.l == 0 || decide (128 < d.l) || d.k == 0, 0x82),
      (d.src % d.size != 0 || d.stride % d.size != 0 || d.dst % 128 != 0 || (d.readsExp && d.exp % 2 != 0) ||
        (d.sumEn && d.sumAddr % 16 != 0), 0x82),
      (ins.any (fun r => overlaps d.dst d.outBytes r.1 r.2) ||
        (d.sumEn && sumIns.any (fun r => overlaps d.sumAddr 16 r.1 r.2)), 0x88),
      (bits d.spc 0 2 != 0 || bits d.spc 2 2 != 0 || (d.readsExp && bits d.spc 4 2 != 0) ||
        (d.sumEn && bits d.spc 6 2 != 0), 0x04),
      (d.runs.any (fun r => tsBeyond r.1 r.2) || tsBeyond d.dst d.outBytes || (d.readsExp && tsBeyond d.exp 256) ||
        (d.sumEn && tsBeyond d.sumAddr 16), 0x04) ]

/-! ## Slicing (R98 to R101) -/

/-- The markers of 02 R46. -/
def expZero : Int := -0x8000
def expNonfin : Int := 0x7FFF

/-- The exponent of one value: `floor(log2 |x|) + 1`, ZERO for a zero, NONFIN for a NaN or infinity (R98). -/
def valExp : Val → Int
  | .fin _ m e => if m = 0 then expZero else e + (Nat.log2 m : Int) + 1
  | _ => expNonfin

/-- The exponent of a lane: NONFIN above every value, ZERO below (R98, R100). -/
def laneExp (xs : List Val) : Int := xs.foldl (fun a v => max a (valExp v)) expZero

/-- The slices of one value against exponent `E`, and whether GIVEN saturated it (R98, R100). -/
def sliceVal (n : Nat) (E : Int) (v : Val) : List Int × Bool :=
  match v with
  | .fin neg m e =>
    if E = expNonfin ∨ m = 0 then (List.replicate n 0, false)
    else
      let sg : Int := if neg then -1 else 1
      if E = expZero ∨ valExp v > E then (List.replicate n (sg * 127), true)
      else
        let t := truncMag m (e + 7 * (n : Int) - E)
        ((List.range n).map (fun p => sg * ((t / 128 ^ (n - 1 - p) % 128 : Nat) : Int)), false)
  | _ => (List.replicate n 0, false)

/-- The split of an INT16 element into `h` and `l`, and whether it saturated (R108). -/
def splitInt16 (x : Int) : List Int × Bool :=
  let y : Int := min x 32639
  let l := sint 8 (wrapInt 8 y)
  ([(y - l) / 256, l], decide (32639 < x))

/-- The real values of lane `i`: for a complex source the real parts, then the imaginary parts. -/
def State.sliceLane (s : State) (k : Nat) (d : SliceDesc) (i : Nat) : List (List Val) :=
  let half := d.size / 2
  let rd := fun (a n : Nat) => decodeSrc s.dn16 d.fmt (s.tsLE k a n)
  if d.complex then
    [ (List.range d.k).map (fun e => rd (d.addr i e) half), (List.range d.k).map (fun e => rd (d.addr i e + half) half) ]
  else if d.int16 then [ (List.range d.k).map (fun e => valOfInt (sint 16 (s.tsLE k (d.addr i e) 2))) ]
  else [ (List.range d.k).map (fun e => rd (d.addr i e) d.size) ]

/-- One lane's result: its exponent entry, its slices by part and element, and what it showed. -/
structure LaneRes where
  exp : Int
  vals : List (List (List Int))
  sat : Bool
  nonfin : Bool
  mag : Nat
  tails : List Nat
  deriving DecidableEq, Repr

/-- Slice lane `i` (R98 to R101, R108). `given` is the entry of EXP, where it is read. DESIGN CHOICE (log entry 39): in a lane whose
own source holds a NaN or infinity GIVEN saturates no element and raises no RNG (R100); of a complex element SCOUT1 takes the real
and the imaginary part as two values (R101). -/
def State.sliceOne (s : State) (k : Nat) (d : SliceDesc) (given : Option Int) (i : Nat) : LaneRes :=
  let parts := s.sliceLane k d i
  let own := laneExp parts.flatten
  let mag := parts.flatten.foldl (fun m v => scoutMax m (scoutMag v.abs)) 0
  let tails := parts.flatten.foldl (fun ts v => addTail ts (scoutMag v.abs)) []
  if d.int16 then
    let sp := parts.map (fun p => p.map (fun v => splitInt16 (match v with | .fin neg m _ => if neg then -(m : Int) else m | _ => 0)))
    ⟨0, sp.map (fun p => p.map Prod.fst), sp.flatten.any Prod.snd, false, mag, tails⟩
  else
    let E : Int := match given with
      | none => own
      | some g => if d.merge then max g own else if own = expNonfin then expNonfin else g
    let sl := parts.map (fun p => p.map (sliceVal d.n E))
    ⟨E, sl.map (fun p => p.map Prod.fst), !d.merge && sl.flatten.any Prod.snd, own == expNonfin, mag, tails⟩

/-- The entry of lane `i` at and above L (R101). -/
def SliceDesc.restExp (d : SliceDesc) (given : Option Int) : Int :=
  if d.int16 then 0 else if d.merge then given.getD expZero else expZero

/-- The bytes a SLICE writes at DST (02 R45, R100, R101). -/
def sliceImage (d : SliceDesc) (entry : Nat → Option Int) (lanes : List LaneRes) : List Byte :=
  let exps := (List.range 128).flatMap (fun i =>
    natLE 2 (wrapInt 16 (match lanes[i]? with | some r => r.exp | none => d.restExp (entry i))))
  let plane : Nat → Int → List Byte := fun part sg => (List.range d.planes).flatMap (fun p => (List.range d.k).flatMap (fun e =>
    (List.range 128).map (fun i => match lanes[i]? with
      | some r => BitVec.ofNat 8 (wrapInt 8 (sg * (((r.vals.getD part []).getD e []).getD p 0)))
      | none => 0)))
  if d.merge then exps
  else exps ++ plane 0 1 ++ (if d.complex then plane 1 1 ++ (if d.neg then plane 1 (-1) else []) else [])

/-- What the lanes have shown, at lane positions (R101). -/
def sliceSeen (lanes : List LaneRes) : Seen :=
  (lanes.foldl (fun (st : Nat × Seen) r =>
    (st.1 + 1, { mag := max st.2.mag r.mag, tails := r.tails.foldl (fun ts m => addTail ts (some m)) st.2.tails, nf := noteAt st.2.nf r.nonfin st.1, wrap := none,
                 rng := noteAt st.2.rng r.sat st.1 })) (0, Seen.none)).2

/-- The descriptor of a descriptor-form word. -/
def State.descOf (s : State) (k : Nat) (w : Cmd) : List Byte := s.tsRead k (cf w 95 73) 64

/-- Checks of a descriptor-form word at acceptance (06 R155). -/
def descCheck (lead : Bool) (w : Cmd) : Option Nat :=
  firstFail [ (decide (0x78 ≤ opcode w) && !lead, 0x89), (cf w 95 73 % 64 != 0, 0x82), (tsBeyond (cf w 95 73) 64, 0x04) ]

/-- The summary of a descriptor-form command (06 R161). DESIGN CHOICE (log entry 39): opcodes 0x78 and 0x79 are recorded in NUM_STAT
as VR.* commands (R160). -/
def State.descNote (s : State) (k : Nat) (w : Cmd) (seen : Seen) (sumEn : Bool) (sumAddr : Nat) : State :=
  let s := (s.scouted k true (cb w 119) seen).numStat k (if opcode w < 0x78 then 2 else 3) seen
  if sumEn then s.tsWrite k sumAddr seen.summary else s

/-- The lanes of a SLICE. -/
def State.sliceLanes (s : State) (k : Nat) (d : SliceDesc) : (Nat → Option Int) × List LaneRes :=
  let blkE := if d.readsExp then s.tsRead k d.exp 256 else []
  let entry := fun i => if d.readsExp then some (sint 16 (blk blkE (2 * i) 2)) else none
  (entry, (List.range d.l).map (fun i => s.sliceOne k d (entry i) i))

/-- The effect of a SLICE (R98 to R101, R108, R110). -/
def sliceEffect (k : Nat) (w : Cmd) (s : State) : Except Nat (State × Nat) :=
  match descCheck (s.isLead k) w with
  | some st => .error st
  | none =>
    let d := decodeSlice (s.descOf k w)
    match sliceCheck (cf w 95 73) d with
    | some st => .error st
    | none =>
      let r := s.sliceLanes k d
      .ok ((s.tsWrite k d.dst (sliceImage d r.1 r.2)).descNote k w (sliceSeen r.2) d.sumEn d.sumAddr, d.l * d.k)

/-- What a SLICE abandoned at a halt leaves: its first `n` bytes, and the first `m` lanes' part of SCOUT1 (06 R164). DESIGN CHOICE (log
entry 55): the bytes are written in the order of addresses, an exponent block before its slice; a MERGE is abandoned before its first
write only, and may then have given SCOUT1 its part. -/
def State.slicePartial (s : State) (k : Nat) (w : Cmd) (n m : Nat) : State :=
  match descCheck (s.isLead k) w with
  | some _ => s
  | none =>
    let d := decodeSlice (s.descOf k w)
    match sliceCheck (cf w 95 73) d with
    | some _ => s
    | none =>
      let r := s.sliceLanes k d
      let img := sliceImage d r.1 r.2
      let s := if d.merge && d.exp == d.dst then s else s.tsWrite k d.dst (img.take n)
      if m = 0 then s else s.scout (Reg.SCOUT1 k) (cb w 119) (sliceSeen (r.2.take m)).mag

/-! ## RECOMB (R104, R105; 06 R157) -/

/-- The fields of a RECOMB descriptor. -/
structure RecombDesc where
  lvl : Nat
  dst : Nat
  expa : Nat
  expb : Nat
  acc : Nat
  sumAddr : Nat
  dfmt : Nat
  rm : RMode
  accIn : Bool
  accOut : Bool
  n : Nat
  sig : Nat
  sumEn : Bool
  spc : Nat
  spc2 : Nat
  deriving DecidableEq, Repr

def decodeRecomb (b : List Byte) : RecombDesc :=
  { lvl := blk b 0 4, dst := blk b 4 4, expa := blk b 8 4, expb := blk b 12 4, acc := blk b 16 4, sumAddr := blk b 20 4,
    dfmt := bits (blk b 24 1) 0 4, rm := RMode.ofCode (bits (blk b 24 1) 4 2), accIn := bit (blk b 24 1) 6,
    accOut := bit (blk b 24 1) 7, n := bits (blk b 25 1) 0 4, sig := bits (blk b 25 1) 4 4, sumEn := bit (blk b 26 1) 0,
    spc := blk b 27 1, spc2 := blk b 28 1 }

/-- The vector element type of a DFMT. -/
def RecombDesc.et (d : RecombDesc) : Nat := match d.dfmt with | 0 => 8 | 1 => 7 | 2 => 6 | 3 => 5 | 4 => 3 | _ => 4
def RecombDesc.size (d : RecombDesc) : Nat := etBits d.et / 8
def RecombDesc.usesAcc (d : RecombDesc) : Bool := d.accIn || d.accOut
def RecombDesc.usesExp (d : RecombDesc) : Bool := d.sig == 7
/-- Input ranges, the long-accumulate tile apart. -/
def RecombDesc.ins (d : RecombDesc) : List (Nat × Nat) :=
  [(d.lvl, d.n * 0x10000)] ++ (if d.usesExp then [(d.expa, 256), (d.expb, 256)] else [])
/-- The output range. -/
def RecombDesc.out (d : RecombDesc) : Nat × Nat := if d.accOut then (d.acc, 0x40000) else (d.dst, d.size * 16384)

/-- Does it write a summary? None where it writes the long-accumulate tile (R105). -/
def RecombDesc.sums (d : RecombDesc) : Bool := d.sumEn && !d.accOut

/-- The checks of a RECOMB descriptor read from `desc`, in order (R99, 06 R142, R144, R157). The descriptor is one of the inputs, a
written summary one of the outputs. DESIGN CHOICE (log entry 51): with SUM_EN and ACC_OUT, where no summary is written, SUM_ADDR and its
space are still checked (R99), and take no part in the overlap (R142). -/
def recombCheck (desc : Nat) (d : RecombDesc) : Option Nat :=
  let src := (desc, 64) :: d.ins
  let ins := src ++ (if d.accIn && !d.accOut then [(d.acc, 0x40000)] else [])
  let sumIns := src ++ (if d.accIn then [(d.acc, 0x40000)] else [])
  firstFail
    [ (decide (5 < d.dfmt) || (d.sig != 7 && d.sig != 8), 0x80),
      (d.n == 0 || decide (7 < d.n), 0x82),
      (d.lvl % 128 != 0 || (!d.accOut && d.dst % d.size != 0) || (d.usesAcc && d.acc % 128 != 0) ||
        (d.usesExp && (d.expa % 2 != 0 || d.expb % 2 != 0)) || (d.sumEn && d.sumAddr % 16 != 0), 0x82),
      (ins.any (fun r => overlaps d.out.1 d.out.2 r.1 r.2) ||
        (d.sums && sumIns.any (fun r => overlaps d.sumAddr 16 r.1 r.2)), 0x88),
      (bits d.spc 0 2 != 0 || (!d.accOut && bits d.spc 2 2 != 0) || (d.usesExp && bits d.spc 4 2 != 0) ||
        (d.usesAcc && bits d.spc 6 2 != 0) || (d.sumEn && bits d.spc2 0 2 != 0), 0x04),
      ((d.out :: d.ins).any (fun r => tsBeyond r.1 r.2) || (d.usesAcc && tsBeyond d.acc 0x40000) ||
        (d.sumEn && tsBeyond d.sumAddr 16), 0x04) ]

/-- Element (i, j) before rounding: the 128-bit integer `t` (R104). -/
def State.recombT (s : State) (k : Nat) (d : RecombDesc) (ea eb : Int) (i j : Nat) : Int :=
  let a : Int := if d.accIn then s.tsLE k (d.acc + 16 * (128 * i + j)) 16 else 0
  let lv := fun (l : Nat) => sint 32 (s.tsLE k (d.lvl + l * 0x10000 + 4 * (128 * i + j)) 4)
  let t := if d.usesExp && (ea == expZero || eb == expZero) then a
    else (List.range d.n).foldl (fun t l => t + lv l * 2 ^ (d.sig * (d.n - 1 - l))) a
  sint 128 (wrapInt 128 t)

/-- Element (i, j) rounded (R104). -/
def recombElem (dn16 : Bool) (d : RecombDesc) (ea eb t : Int) : Conv :=
  if d.usesExp && (ea == expNonfin || eb == expNonfin) then
    (match etFloat d.et with
      | some f => convFloat dn16 d.rm f .nan
      | none => convInt d.rm (intRange dn16 d.et).1 (intRange dn16 d.et).2 (etBits d.et) .nan .nan)
  else roundInt128 dn16 d.rm d.et t (if d.usesExp then ea + eb - 7 * ((d.n : Int) + 1) else 0)

/-- The bytes the first `cnt` elements of a RECOMB write, with what they have shown. -/
def State.recombAll (s : State) (k : Nat) (d : RecombDesc) (cnt : Nat) : List (List Byte) × Seen :=
  let ba := if d.usesExp then s.tsRead k d.expa 256 else []
  let bb := if d.usesExp then s.tsRead k d.expb 256 else []
  let st := (fullRegion'.take cnt).foldl (fun (st : List (List Byte) × Seen) p =>
    let ea := sint 16 (blk ba (2 * p.1) 2)
    let eb := sint 16 (blk bb (2 * p.2) 2)
    let t := s.recombT k d ea eb p.1 p.2
    if d.accOut then (natLE 16 (wrapInt 128 t) :: st.1, st.2)
    else
      let c := recombElem s.dn16 d ea eb t
      (natLE d.size c.code :: st.1, st.2.conv (128 * p.1 + p.2) c)) ([], Seen.none)
  (st.1.reverse, st.2)
where
  /-- The elements of the tile in row-major order. -/
  fullRegion' : List (Nat × Nat) := (⟨0, 0, 128, 128⟩ : Region).cells

/-- The effect of a RECOMB (R104, R105). -/
def recombEffect (k : Nat) (w : Cmd) (s : State) : Except Nat (State × Nat) :=
  match descCheck (s.isLead k) w with
  | some st => .error st
  | none =>
    let d := decodeRecomb (s.descOf k w)
    match recombCheck (cf w 95 73) d with
    | some st => .error st
    | none =>
      let r := s.recombAll k d 16384
      let s := s.tsWrite k d.out.1 r.1.flatten
      .ok (if d.accOut then s else s.descNote k w r.2 d.sumEn d.sumAddr, 16384)

/-- What a RECOMB abandoned at a halt leaves: its first `n` elements, and the first `m` elements' part of SCOUT1
(06 R164). -/
def State.recombPartial (s : State) (k : Nat) (w : Cmd) (n m : Nat) : State :=
  match descCheck (s.isLead k) w with
  | some _ => s
  | none =>
    let d := decodeRecomb (s.descOf k w)
    match recombCheck (cf w 95 73) d with
    | some _ => s
    | none =>
      if d.accIn && d.accOut then s
      else
        let t := s.tsWrite k d.out.1 (s.recombAll k d n).1.flatten
        if m = 0 ∨ d.accOut then t else t.scout (Reg.SCOUT1 k) (cb w 119) (s.recombAll k d m).2.mag

end Sys2Proof.Machine
end

