-- ==== Sys2Proof/Machine/Execute.lean ====
section
/-!
DEFINITION. Machine/Execute.lean: the execute engine (03 R80, R91; 05 R117 to R119, R123; 06 R138, R144; 10 R265): what an accepted
command waits for, how commands are accepted past one that waits and make their effects, and the request of a tile halt (05 R125).
-/

namespace Sys2Proof.Machine

/-! ## Opcodes -/

def isMop (op : Nat) : Bool := op == 0x20 || op == 0x21
/-- VS.* commands. -/
def isVs (op : Nat) : Bool := decide (0x40 ≤ op) && decide (op < 0x60)
/-- VR.* commands. -/
def isVr (op : Nat) : Bool := decide (0x60 ≤ op) && decide (op < 0x80)
/-- Commands of the operand file, the array and the vector engine (07 R179). -/
def isEngine (op : Nat) : Bool := decide (0x10 ≤ op) && decide (op < 0x80)
/-- Commands that an ALAY stands between (03 R74, R80): they are checked against the layout, or take part in its waits. -/
def isArray (op : Nat) : Bool := isMop op || op == 0x24 || op == 0x25 || op == 0x26
/-- Atomic commands (05 R126): ASW, ALAY, LFREE and a DRN of MODE CLEAR. -/
def isAtomic (w : Cmd) : Bool :=
  opcode w == 0x24 || opcode w == 0x26 || opcode w == 0x27 || (opcode w == 0x25 && (decodeDrn w).mode == 3)
/-- Commands that raise conditions in NUM_STAT (02 R59). -/
def isFlagging (w : Cmd) : Bool := isVs (opcode w) || isVr (opcode w) || (opcode w == 0x25 && (decodeDrn w).converts)

/-- Accepted and incomplete entries of the execute queue with an opcode that `p` picks. -/
def State.openCmds (s : State) (k : Nat) (p : Nat → Bool) : List Entry :=
  ((s.queue k .xq).inflight.filter (fun e => e.phase != .done && p (opcode e.entry.word))).map (fun e => e.entry)

/-- Accepted entries whose effect is not yet made, in queue order. -/
def State.waitingCmds (s : State) (k : Nat) (p : Nat → Bool) : List Entry :=
  ((s.queue k .xq).inflight.filter (fun e => e.phase == .waiting && p (opcode e.entry.word))).map (fun e => e.entry)

/-! ## What ARRAY_STAT and TILE_STAT show -/

/-- ARRAY_STAT (03 R94). -/
def State.arrayStat (s : State) (k : Nat) : Word :=
  let c := s.slot k
  let mops := s.openMops k
  let busy := (List.range 16).foldl (fun a g => if mops.any (fun m => m.region == g) then a + 2 ^ g else a) 0
  let w := putF (s.rd (Reg.ARRAY_STAT k)) F.ARRAY_STAT_INFLIGHT mops.length
  let w := putF w F.ARRAY_STAT_RBUSY busy
  let w := putF w F.ARRAY_STAT_DRN_BUSY (b01 !(s.openCmds k (· == 0x25)).isEmpty)
  let w := putF w F.ARRAY_STAT_ASW_WAIT (b01 !(s.waitingCmds k (· == 0x24)).isEmpty)
  let w := putF w F.ARRAY_STAT_ALAY_WAIT (b01 !(s.waitingCmds k (· == 0x26)).isEmpty)
  putF (putF w F.ARRAY_STAT_ACTIVE (b01 c.active)) F.ARRAY_STAT_LAYOUT c.layout

/-- TILE_STAT (05 R135). -/
def State.tileStat (s : State) (k : Nat) : Word :=
  let c := s.slot k
  let w := putF (s.rd (Reg.TILE_STAT k)) F.TILE_STAT_LDL_PEND (s.openCmds k (· == 0x10)).length
  let w := putF w F.TILE_STAT_ACC_INUSE (b01 c.acc0Use + 2 * b01 c.acc1Use)
  putF (putF w F.TILE_STAT_HALTED (b01 (c.halt == .halted))) F.TILE_STAT_HALTING (b01 (c.halt == .halting))

/-! ## Footprints in the Tile Store (10 R265) -/

/-- What a command reads and writes in the Tile Store, as byte ranges (start, length); `more`: a parameter block or descriptor not yet
read, or a pointer that an earlier command still moves, names further ones. -/
structure Foot where
  reads : List (Nat × Nat)
  writes : List (Nat × Nat)
  more : Bool
  deriving DecidableEq, Repr

def Foot.none : Foot := ⟨[], [], false⟩
/-- Does the command access the Tile Store at all? -/
def Foot.touches (f : Foot) : Bool := !f.reads.isEmpty || !f.writes.isEmpty || f.more

/-- Do two byte ranges share a line of 128 bytes? -/
def shareLine (p q : Nat × Nat) : Bool :=
  decide (0 < p.2) && decide (0 < q.2) && decide (p.1 / 128 ≤ (q.1 + q.2 - 1) / 128) && decide (q.1 / 128 ≤ (p.1 + p.2 - 1) / 128)
def shareAny (ps qs : List (Nat × Nat)) : Bool := ps.any (fun p => qs.any (shareLine p))

/-- Must a later command with footprint `e` wait for one with footprint `f` that has not made its accesses? -/
def Foot.clash (e f : Foot) : Bool :=
  (f.more && e.touches) || shareAny e.reads f.writes || shareAny e.writes f.reads || shareAny e.writes f.writes

/-- The summary of a word-format vector command. -/
def State.sumFoot (s : State) (k : Nat) (v : VWord) : List (Nat × Nat) :=
  match s.sumAt k v with | some a => [(a, 16)] | none => []

def Span.range (p : Span) : Nat × Nat := (p.at_, p.bytes)

/-- The ranges of a DRN. `deep`: its parameter block is read now. -/
def State.drnFoot (s : State) (k : Nat) (deep moved : Bool) (d : DrnWord) : Foot :=
  match drnRegion (s.slot k).layout d with
  | none => .none
  | some r =>
    let rows := fun (n : Nat) => (List.range r.h).map (fun i => (d.dst + i * d.stride, n))
    let raw := rows (4 * r.w) ++ [(d.dst + r.h * d.stride, 16 * r.h)]
    if d.mode = 3 then .none
    else if d.mode = 2 then ⟨raw, [], false⟩
    else if d.fmt = 6 then ⟨[], raw, false⟩
    else
      let h := s.drnParams k d
      let scale := fun (x : ScaleRef) => if x.en then [(x.addr, x.size)] else []
      let sum := if blkSumEn h.block then [(blkSum h.block, 16)] else []
      if !d.readsBlock then ⟨[], rows (drnRow d.fmt r.w) ++ sum, moved⟩
      else if deep then
        ⟨(d.prm, 32) :: (scale (blkDr h.block) ++ scale (blkDc h.block)), rows (drnRow d.fmt r.w) ++ sum, false⟩
      else ⟨[(d.prm, 32)], rows (drnRow d.fmt r.w), true⟩

/-- The ranges of a SLICE or RECOMB whose descriptor is read now. -/
def State.descFoot (s : State) (k : Nat) (w : Cmd) : Foot :=
  if opcode w % 2 = 0 then
    let d := decodeSlice (s.descOf k w)
    ⟨d.runs ++ (if d.readsExp then [(d.exp, 256)] else []), (d.dst, d.outBytes) :: (if d.sumEn then [(d.sumAddr, 16)] else []), false⟩
  else
    let d := decodeRecomb (s.descOf k w)
    ⟨d.ins ++ (if d.accIn then [(d.acc, 0x40000)] else []), d.out :: (if d.sums then [(d.sumAddr, 16)] else []), false⟩

/-- The footprint of an entry. `deep`: it is about to make its accesses, and reads its parameter block or descriptor. -/
def State.footOf (s : State) (k : Nat) (deep : Bool) (e : Entry) : Foot :=
  let w := e.word
  let op := opcode w
  let behind := fun (p : Nat → Bool) => !deep && (s.waitingCmds k p).any (fun f => decide (f.ticket < e.ticket))
  if op = 0x10 then
    let l := decodeLdl w
    ⟨(List.range l.count).map (fun i => (l.src + i * l.stride * 128, 128)), [], false⟩
  else if isMop op then
    let m := decodeMop w
    let one := fun (o : MopOperand) => if o.of then [] else [(o.addr, 128 * o.lines m.depth)]
    ⟨one m.a ++ one m.b, [], false⟩
  else if op = 0x25 then s.drnFoot k deep (behind (· == 0x25)) (decodeDrn w)
  else if op = 0x58 ∨ op = 0x59 ∨ op = 0x78 ∨ op = 0x79 then
    let f := if deep then s.descFoot k w else ⟨[], [], true⟩
    { f with reads := (cf w 95 73, 64) :: f.reads }
  else if 0x40 ≤ op ∧ op ≤ 0x55 then
    let v := decodeVS w
    ⟨v.ins.map Span.range, v.outs.map Span.range ++ s.sumFoot k v, v.sum && behind (fun p => isVs p || isVr p)⟩
  else if 0x60 ≤ op ∧ op < 0x80 then
    let v := decodeVR w
    let elems := (List.range v.n).map (fun i => (v.addr + i * v.stride, etBits v.et / 8))
    let more := v.sum && behind (fun p => isVs p || isVr p)
    if op = 0x7C then ⟨elems, s.sumFoot k v, more⟩
    else if op = 0x7D then ⟨[], elems ++ s.sumFoot k v, more⟩
    else ⟨if v.fromTs then [(v.addr, runBytes (if v.ba then min 1 v.n else v.n) 4)] else [], s.sumFoot k v, more⟩
  else if op = 0x92 ∧ relSig w = 2 ∧ relSpace w = 0 ∧ (cb w 115 = false ∨ cf w 114 109 = s.idOf k) then ⟨[], [(relAddr w, 8)], false⟩
  else .none

/-! ## Operand file and sets (05 R117, R118, R122, R123) -/

/-- The operand-file lines a MOP or MOPZ reads, as (first, count). -/
def MopWord.ofLines (m : MopWord) (layout : Nat) : List (Nat × Nat) :=
  let r := (regionOf layout m.region).getD ⟨0, 0, 128, 128⟩
  let one := fun (o : MopOperand) (size : Nat) =>
    if !o.of then []
    else if o.txr then (List.range (cdiv m.depth 128)).map (fun b => (o.addr + 128 * b + 32 * o.seg, size))
    else [(o.addr, o.lines m.depth)]
  one m.a r.h ++ one m.b r.w

/-- The groups that runs of lines touch, as a mask. -/
def groupsOf (ls : List (Nat × Nat)) : BitVec 64 := ls.foldl (fun a p => a ||| groupBits p.1 (p.1 + p.2 - 1)) 0

/-- The operand-file lines of a command: written by LDL, read by MOP and MOPZ. -/
def State.linesOf (s : State) (k : Nat) (w : Cmd) : List (Nat × Nat) :=
  if opcode w = 0x10 then [((decodeLdl w).dst, (decodeLdl w).count)]
  else if isMop (opcode w) then (decodeMop w).ofLines (s.slot k).layout
  else []

/-- The physical sets that an entry uses (true: ACC1): the active one for MOP and MOPZ, the shadow for DRN, after the exchanges of
every earlier ASW (05 R122). A DRN whose shadow reads are made may have used either. -/
def State.setsOf (s : State) (k : Nat) (e : Entry) (made : Bool) : List Bool :=
  let swaps := ((s.waitingCmds k (· == 0x24)).filter (fun f => decide (f.ticket < e.ticket))).length
  let active := (s.slot k).active != (swaps % 2 == 1)
  if isMop (opcode e.word) then [active]
  else if opcode e.word = 0x25 then (if made then [false, true] else [!active])
  else []

/-- Does an LFREE word name a group or set that an entry reads or writes (05 R123)? -/
def State.frees (s : State) (k : Nat) (free : Cmd) (e : Entry) (made : Bool) : Bool :=
  (BitVec.ofNat 64 (cf free 117 54) &&& groupsOf (s.linesOf k e.word)) != 0 ||
  (s.setsOf k e made).any (fun one => if one then cb free 119 else cb free 118)

/-! ## What a command waits for -/

/-- Does entry `e`, about to make its effect, wait for the earlier entry `f`, not complete; `w`: nor has `f` made its effect? -/
def State.waitsOn (s : State) (k : Nat) (e f : Entry) (w : Bool) : Bool :=
  let a := opcode e.word
  let b := opcode f.word
  -- Tile Store order (10 R265)
  (w && (s.footOf k true e).clash (s.footOf k false f)) ||
  -- operand file: LDL by lines and groups (05 R117, R118)
  (w && a == 0x10 && b == 0x10) ||
  (w && a == 0x10 && isMop b && (groupsOf (s.linesOf k e.word) &&& groupsOf (s.linesOf k f.word)) != 0) ||
  (w && isMop a && b == 0x10 &&
    (s.linesOf k e.word).any (fun p => (s.linesOf k f.word).any (fun q => overlaps p.1 p.2 q.1 q.2))) ||
  -- the array (03 R74, R84, R91)
  (isMop a && isMop b && (decodeMop e.word).region == (decodeMop f.word).region) ||
  (isMop a && (b == 0x24 || b == 0x26)) ||
  (a == 0x24 && (isMop b || b == 0x24 || b == 0x26 || (w && b == 0x25))) ||
  (a == 0x25 && (b == 0x24 || b == 0x26 || (w && b == 0x25))) ||
  (a == 0x26 && isArray b) ||
  -- LFREE (05 R123)
  (a == 0x27 && s.frees k e.word f (!w)) || (w && b == 0x27 && s.frees k f.word e false) ||
  -- the vector engine (06 R138)
  (isVs a && (isVs b || isVr b)) || (isVr a && (isVs b || (w && isVr b)))

/-- Has an entry in flight its accesses to the Tile Store still to make? -/
def Phase.unmade : Phase → Bool
  | .waiting => true
  | .rel _ => true
  | .relSent _ => true
  | _ => false

/-- May entry `e` make its effect: it waits for none of the earlier entries in flight. -/
def State.mayRun (s : State) (k : Nat) (e : Entry) : Bool :=
  (s.queue k .xq).inflight.all (fun f =>
    decide (e.ticket ≤ f.entry.ticket) || f.phase == .done || !s.waitsOn k e f.entry f.phase.unmade)

/-- Does an ACQ at the head of the execute queue wait for an earlier command that still writes its descriptor, or its own word
(10 R265)? -/
def State.acqWaits (s : State) (k : Nat) (e : Entry) : Bool :=
  let early := (s.queue k .xq).inflight.filter (fun f => decide (f.entry.ticket < e.ticket) && f.phase.unmade)
  let waits := fun (a n : Nat) => early.any (fun f => (⟨[(a, n)], [], false⟩ : Foot).clash (s.footOf k false f.entry))
  opcode e.word == 0x94 && acqReads e.word &&
  (waits (cf e.word 95 64) 32 ||
    (let d := s.tsRead k (cf e.word 95 64) 32
     acqCond e.word != 0 && acqSpace d == 0 && waits (acqAddr d) 8))

/-- The first waiting entry with an opcode of `ops` that may make its effect. A tile halt starts none (05 R126). -/
def State.runnable (s : State) (k : Nat) (ops : Nat → Bool) : Option Entry :=
  if (s.slot k).halt = .running ∧ s.klState k ≥ 2 then (s.waitingCmds k ops).find? (fun e => s.mayRun k e) else none

/-! ## Acceptance -/

/-- May a command be accepted now: at most 32 MOPs and 64 LDLs are in flight (03 R94, 05 R135), and no command that depends on the
layout passes an ALAY that has not completed (03 R74). -/
def State.mayAccept (s : State) (k : Nat) (w : Cmd) : Bool :=
  let op := opcode w
  isEngine op && (!isMop op || decide ((s.openMops k).length < 32)) &&
  (op != 0x10 || decide ((s.openCmds k (· == 0x10)).length < 64)) &&
  (!isArray op || (s.openCmds k (· == 0x26)).isEmpty)

/-- The check of a command at its acceptance (03 R80, 05 R115, 06 R144). What depends on an earlier command that waits (a parameter
block, a descriptor, the summary pointer) is checked when the command makes its effect. -/
def State.cmdCheck (s : State) (k : Nat) (w : Cmd) : Option Nat :=
  let op := opcode w
  if op = 0x10 then ldlCheck (decodeLdl w)
  else if isMop op then mopCheck (s.slot k).layout (decodeMop w)
  else if op = 0x24 ∨ op = 0x27 ∨ op = 0x5A then none
  else if op = 0x25 then drnCheck (s.slot k).layout (decodeDrn w)
  else if op = 0x26 then alayCheck s.dn16 w
  else if op < 0x40 then some 0x80
  else if op = 0x58 ∨ op = 0x59 ∨ op = 0x78 ∨ op = 0x79 then descCheck (s.isLead k) w
  else if op < 0x60 then vsCheck none (decodeVS w)
  else if op = 0x7C then vrMemCheck (s.isLead k) false (decodeVR w)
  else if op = 0x7D then vrMemCheck (s.isLead k) true (decodeVR w)
  else vrCheck (s.isLead k) (decodeVR w)

/-- Accept an entry that waits; an LDL sets the flags of its groups at acceptance (05 R122). -/
def State.park (s : State) (k : Nat) (e : Entry) (r : Queue) : State :=
  (s.setQueue k .xq (r.accept e .waiting)).modSlot k (fun c =>
    if opcode e.word = 0x10 then { c with ofUse := c.ofUse ||| groupsOf (s.linesOf k e.word) } else c)

/-- A failing vector command is recorded in VE_STAT as well (06 R144). -/
def State.noteFail (s : State) (k op st : Nat) : State := if isVs op || isVr op then s.veFail k op st else s

/-- Go along the execute queue to the first entry with an opcode of `ops`: entries before it are accepted and wait; a check that fails
stops the queue there. Answers the entry found, where it may make its effect at once, and the queue behind it. -/
def State.advance (k : Nat) (ops : Nat → Bool) : Nat → State → State × Option (Entry × Queue)
  | 0, s => (s, none)
  | n + 1, s =>
    match s.headOf k .xq with
    | none => (s, none)
    | some (e, r) =>
      if !s.mayAccept k e.word then (s, none)
      else if ops (opcode e.word) && s.mayRun k e then (s, some (e, r))
      else
        match s.cmdCheck k e.word with
        | some st => ((s.failCmd k .xq e r st).noteFail k (opcode e.word) st, none)
        | none => if ops (opcode e.word) then (s.park k e r, none) else State.advance k ops n (s.park k e r)

/-! ## NUM_STAT in issue order (02 R59) -/

/-- The conditions of `n` that `w` does not hold, copied into `w` with source and position. -/
def mergeNote (w n : Word) : Word :=
  let one := fun (w : Word) (stick src pos : Fld) =>
    if getF n stick = 1 ∧ getF w stick = 0 then putF (putF (putF w stick 1) src (getF n src)) pos (getF n pos) else w
  one (one (one w F.NUM_STAT_NF F.NUM_STAT_NF_SRC F.NUM_STAT_NF_POS)
    F.NUM_STAT_WRAP F.NUM_STAT_WRAP_SRC F.NUM_STAT_WRAP_POS)
    F.NUM_STAT_RNG F.NUM_STAT_RNG_SRC F.NUM_STAT_RNG_POS

/-- The conditions that `w` holds and `old` does not. -/
def newNotes (old w : Word) : Word :=
  let one := fun (a : Word) (stick src pos : Fld) =>
    if getF w stick = 1 ∧ getF old stick = 0 then putF (putF (putF a stick 1) src (getF w src)) pos (getF w pos) else a
  one (one (one 0 F.NUM_STAT_NF F.NUM_STAT_NF_SRC F.NUM_STAT_NF_POS)
    F.NUM_STAT_WRAP F.NUM_STAT_WRAP_SRC F.NUM_STAT_WRAP_POS)
    F.NUM_STAT_RNG F.NUM_STAT_RNG_SRC F.NUM_STAT_RNG_POS

/-- Is a command waiting that may still raise conditions and was issued before ticket `t`? -/
def State.flagsBefore (s : State) (k t : Nat) : Bool :=
  (s.queue k .xq).inflight.any (fun f => f.phase == .waiting && decide (f.entry.ticket < t) && isFlagging f.entry.word)

/-- The conditions that a command has raised are held back while such a command waits. `old` is NUM_STAT before it. -/
def State.holdNotes (s : State) (k t : Nat) (old : Word) : State :=
  if s.flagsBefore k t ∧ s.rd (Reg.NUM_STAT k) ≠ old then
    (s.wr (Reg.NUM_STAT k) old).modSlot k (fun c => { c with notes := c.notes ++ [(t, newNotes old (s.rd (Reg.NUM_STAT k)))] })
  else s

/-- The held conditions that no waiting command precedes are recorded, in issue order; all of them where `all` is set. -/
def State.flushNotes (s : State) (k : Nat) (all : Bool) : State :=
  if (s.slot k).notes.isEmpty then s
  else
    let go := (s.slot k).notes.filter (fun n => all || !s.flagsBefore k n.1)
    let w := (go.insertionSort (fun a b => a.1 ≤ b.1)).foldl (fun w n => mergeNote w n.2) (s.rd (Reg.NUM_STAT k))
    (s.wr (Reg.NUM_STAT k) w).modSlot k (fun c => { c with notes := c.notes.filter (fun n => !(all || !s.flagsBefore k n.1)) })

/-! ## Running a command -/

/-- A command of the execute engine makes its effect, whole: one that waits and may go on, else the next one of the queue with an
opcode of `ops`. `eff` answers the status of the first failing check, or the state with the command's effect and its element count.
The command completes by COMMAND_COMPLETE (07 R184). -/
def State.runCmd (s : State) (k : Nat) (ops : Nat → Bool) (eff : Cmd → State → Except Nat (State × Nat)) : State :=
  match s.runnable k ops with
  | some e =>
    match eff e.word s with
    | .error st => ((s.completeEntry k .xq e.ticket st).noteFail k (opcode e.word) st).flushNotes k false
    | .ok (t, n) =>
      (((t.setQueue k .xq ((t.queue k .xq).setPhase e.ticket (.working n))).modSlot k (fun c => c.nameTails (s.slot k).tailBy.length e.ticket)).holdNotes k e.ticket (s.rd (Reg.NUM_STAT k))).flushNotes
        k false
  | none =>
    match State.advance k ops (s.view k .xq).onchip.length s with
    | (s, none) => s
    | (s, some (e, r)) =>
      match eff e.word s with
      | .error st => (s.failCmd k .xq e r st).noteFail k (opcode e.word) st
      | .ok (t, n) => ((t.acceptCmd k .xq e r n).modSlot k (fun c => c.nameTails (s.slot k).tailBy.length e.ticket)).holdNotes k e.ticket (s.rd (Reg.NUM_STAT k))

/-! ## Tile halt (05 R125, R129) -/

/-- What the engine accepts before a halt is requested: the leading entries whose checks pass. -/
def State.acceptAll (k : Nat) : Nat → State → State
  | 0, s => s
  | n + 1, s =>
    match s.headOf k .xq with
    | none => s
    | some (e, r) =>
      if s.mayAccept k e.word && (s.cmdCheck k e.word).isNone then State.acceptAll k n (s.park k e r) else s

/-- A tile halt is requested: the engine accepts no further command (R125). DESIGN CHOICE (log entry 40): by then it had accepted every
command that nothing kept from acceptance, markers behind it included (07 R187), and one that waited for no other had begun. -/
def State.haltRequest (s : State) (k : Nat) : State :=
  if (s.slot k).halt = .running then
    let t := State.acceptAll k (s.view k .xq).onchip.length s
    let t := t.setQueue k .xq (t.queueNow k .xq)
    let begun := ((t.waitingCmds k (fun _ => true)).filter (fun e => t.mayRun k e)).map (fun e => e.ticket)
    t.modSlot k (fun c => { c with
      halt := .halting
      begun := begun })
  else s

/-- Request a tile halt, or resume: the effect of writing TILE_CTL.HALT, which NCX.THALT has too (05 R125, R129,
07 R178). A resume during a save or restore takes effect when that ends. -/
def State.tileHalt (s : State) (k : Nat) (on : Bool) : State :=
  let s := s.setFld (Reg.TILE_CTL k) F.TILE_CTL_HALT (b01 on)
  if on then s.haltRequest k
  else if (s.slot k).haltByKernel || s.fld (Reg.TILE_STAT k) F.TILE_STAT_SR_STATE != 0 then s
  else s.modSlot k (fun c => { c with halt := .running })

/-- A halt requested by an abort or a kernel end does not set HALT (05 R129). -/
def State.kernelHalt (s : State) (k : Nat) : State := (s.haltRequest k).modSlot k (fun c => { c with haltByKernel := true })

/-- When the kernel's record commits that halt ends, unless HALT is 1 (05 R129). -/
def State.endKernelHalt (s : State) (k : Nat) : State :=
  let hold := s.flag (Reg.TILE_CTL k) F.TILE_CTL_HALT
  s.modSlot k (fun c => { c with haltByKernel := false, halt := if c.haltByKernel && !hold then .running else c.halt })

end Sys2Proof.Machine
end

