-- ==== Sys2Proof/Machine/Rv64.lean ====
section
/-!
DEFINITION. Machine/Rv64.lean: the RV64IMAC instructions of a control core (07 R167 to R171): fetch, compressed
encodings, the integer, memory, atomic and CSR instructions. Traps, stalls and the NCX instructions are in
Machine/ControlCore.lean.
-/

namespace Sys2Proof.Machine

/-! ## Contexts -/

/-- A context of a core: `h` is true for the handler context (07 R171). -/
def Slot.ctx (c : Slot) (h : Bool) : Ctx := if h then c.hand else c.main
def Slot.setCtx (c : Slot) (h : Bool) (x : Ctx) : Slot := if h then { c with hand := x } else { c with main := x }
/-- A general register; x0 reads 0. -/
def State.getX (s : State) (k : Nat) (h : Bool) (r : Nat) : Word := sget (fun _ => 0) ((s.slot k).ctx h).x r
/-- Write a general register; x0 discards. -/
def State.setX (s : State) (k : Nat) (h : Bool) (r : Nat) (v : Word) : State :=
  if r = 0 then s
  else s.modSlot k (fun c => c.setCtx h { c.ctx h with x := sset (fun _ => 0) (c.ctx h).x r v })
def State.pc (s : State) (k : Nat) (h : Bool) : Word := ((s.slot k).ctx h).pc
def State.setPc (s : State) (k : Nat) (h : Bool) (v : Word) : State :=
  s.modSlot k (fun c => c.setCtx h { c.ctx h with pc := v })
/-- Set a reservation of LR, or clear it. -/
def State.setResv (s : State) (k : Nat) (h : Bool) (r : Option Nat) : State :=
  s.modSlot k (fun c => if h then { c with resvHand := r } else { c with resvMain := r })
def Slot.resv (c : Slot) (h : Bool) : Option Nat := if h then c.resvHand else c.resvMain

/-! ## Encodings -/

def encR (f7 rs2 rs1 f3 rd op : Nat) : Nat := f7 * 2 ^ 25 + rs2 * 2 ^ 20 + rs1 * 2 ^ 15 + f3 * 2 ^ 12 + rd * 2 ^ 7 + op
def encI (imm rs1 f3 rd op : Nat) : Nat := imm % 4096 * 2 ^ 20 + rs1 * 2 ^ 15 + f3 * 2 ^ 12 + rd * 2 ^ 7 + op
def encS (imm rs2 rs1 f3 op : Nat) : Nat :=
  bits imm 5 7 * 2 ^ 25 + rs2 * 2 ^ 20 + rs1 * 2 ^ 15 + f3 * 2 ^ 12 + bits imm 0 5 * 2 ^ 7 + op
def encB (imm rs2 rs1 f3 : Nat) : Nat :=
  bits imm 12 1 * 2 ^ 31 + bits imm 5 6 * 2 ^ 25 + rs2 * 2 ^ 20 + rs1 * 2 ^ 15 + f3 * 2 ^ 12 + bits imm 1 4 * 2 ^ 8 +
  bits imm 11 1 * 2 ^ 7 + 0x63
def encJ (imm rd : Nat) : Nat :=
  bits imm 20 1 * 2 ^ 31 + bits imm 1 10 * 2 ^ 21 + bits imm 11 1 * 2 ^ 20 + bits imm 12 8 * 2 ^ 12 + rd * 2 ^ 7 + 0x6F

/-- Sign-extend an `n`-bit immediate into 32 bits. -/
def sx (n v : Nat) : Nat := wrapInt 32 (sint n v)

/-- The 32-bit instruction a compressed one stands for (07 R167: C), or none where it is reserved or needs F or D. -/
def expandC (w : Nat) : Option Nat :=
  let r1 := bits w 7 5
  let r2 := bits w 2 5
  let p1 := 8 + bits w 7 3
  let p2 := 8 + bits w 2 3
  let b := fun (i : Nat) => bits w i 1
  let imm6 := sx 6 (b 12 * 32 + r2)
  let sh := b 12 * 32 + r2
  let uw := bits w 10 3 * 8 + b 6 * 4 + b 5 * 64
  let ud := bits w 10 3 * 8 + bits w 5 2 * 64
  let jimm := sx 12 (b 12 * 2048 + b 11 * 16 + bits w 9 2 * 256 + b 8 * 1024 + b 7 * 64 + b 6 * 128 + bits w 3 3 * 2 + b 2 * 32)
  let bimm := sx 9 (b 12 * 256 + bits w 10 2 * 8 + bits w 5 2 * 64 + bits w 3 2 * 2 + b 2 * 32)
  match bits w 0 2, bits w 13 3 with
  | 0, 0 =>
    let u := bits w 11 2 * 16 + bits w 7 4 * 64 + b 6 * 4 + b 5 * 8
    if u = 0 then none else some (encI u 2 0 p2 0x13)
  | 0, 2 => some (encI uw p1 2 p2 0x03)
  | 0, 3 => some (encI ud p1 3 p2 0x03)
  | 0, 6 => some (encS uw p2 p1 2 0x23)
  | 0, 7 => some (encS ud p2 p1 3 0x23)
  | 1, 0 => some (encI imm6 r1 0 r1 0x13)
  | 1, 1 => if r1 = 0 then none else some (encI imm6 r1 0 r1 0x1B)
  | 1, 2 => some (encI imm6 0 0 r1 0x13)
  | 1, 3 =>
    if sh = 0 then none
    else if r1 = 2 then
      some (encI (sx 10 (b 12 * 512 + b 6 * 16 + b 5 * 64 + bits w 3 2 * 128 + b 2 * 32)) 2 0 2 0x13)
    else some (bits imm6 0 20 * 4096 + r1 * 128 + 0x37)
  | 1, 4 =>
    match bits w 10 2 with
    | 0 => some (encI sh p1 5 p1 0x13)
    | 1 => some (encI (sh + 0x400) p1 5 p1 0x13)
    | 2 => some (encI imm6 p1 7 p1 0x13)
    | _ => match b 12, bits w 5 2 with
      | 0, 0 => some (encR 0x20 p2 p1 0 p1 0x33)
      | 0, 1 => some (encR 0 p2 p1 4 p1 0x33)
      | 0, 2 => some (encR 0 p2 p1 6 p1 0x33)
      | 0, _ => some (encR 0 p2 p1 7 p1 0x33)
      | _, 0 => some (encR 0x20 p2 p1 0 p1 0x3B)
      | _, 1 => some (encR 0 p2 p1 0 p1 0x3B)
      | _, _ => none
  | 1, 5 => some (encJ jimm 0)
  | 1, 6 => some (encB bimm 0 p1 0)
  | 1, 7 => some (encB bimm 0 p1 1)
  | 2, 0 => some (encI sh r1 1 r1 0x13)
  | 2, 2 => if r1 = 0 then none else some (encI (b 12 * 32 + bits w 4 3 * 4 + bits w 2 2 * 64) 2 2 r1 0x03)
  | 2, 3 => if r1 = 0 then none else some (encI (b 12 * 32 + bits w 5 2 * 8 + bits w 2 3 * 64) 2 3 r1 0x03)
  | 2, 4 =>
    if b 12 = 0 then
      (if r2 = 0 then (if r1 = 0 then none else some (encI 0 r1 0 0 0x67)) else some (encR 0 r2 0 0 r1 0x33))
    else if r2 = 0 then (if r1 = 0 then some 0x00100073 else some (encI 0 r1 0 1 0x67))
    else some (encR 0 r2 r1 0 r1 0x33)
  | 2, 6 => some (encS (bits w 9 4 * 4 + bits w 7 2 * 64) r2 2 2 0x23)
  | 2, 7 => some (encS (bits w 10 3 * 8 + bits w 7 3 * 64) r2 2 3 0x23)
  | _, _ => none

/-- A fetched instruction: its 32-bit form (none: illegal), its own bits, and its length. -/
structure Fetched where
  word : Option Nat
  raw : Nat
  len : Nat
  deriving DecidableEq, Repr

/-- May the next instruction of the context have to wait for this one: a load, an atomic or a division (07 R169)? -/
def Fetched.slow (f : Fetched) : Bool :=
  match f.word with
  | none => false
  | some w =>
    w % 128 == 0x03 || w % 128 == 0x2F || ((w % 128 == 0x33 || w % 128 == 0x3B) && bits w 25 7 == 1 && decide (4 ≤ bits w 12 3))

/-- Fetch at `pc`: instruction memory is 64 KiB; anything else is an instruction access fault (07 R168), reported as the
address that lies outside. -/
def Slot.fetch (c : Slot) (pc : Nat) : Except Nat Fetched :=
  if 0x10000 < pc + 2 then .error pc
  else
    let lo := readLE zeroByte c.imem pc 2
    if lo % 4 ≠ 3 then .ok ⟨expandC lo, lo, 2⟩
    else if 0x10000 < pc + 4 then .error 0x10000
    else
      let w := readLE zeroByte c.imem pc 4
      .ok ⟨some w, w, 4⟩

/-! ## Arithmetic -/

def w32 (v : Word) : Word := BitVec.signExtend 64 (v.setWidth 32)
/-- Signed division, with the results of the M extension by zero and on overflow. -/
def divS (a b : Int) (n : Nat) : Nat := if b = 0 then 2 ^ n - 1 else wrapInt n (Int.tdiv a b)
def remS (a b : Int) (n : Nat) : Nat := if b = 0 then wrapInt n a else wrapInt n (Int.tmod a b)
def divU (a b n : Nat) : Nat := if b = 0 then 2 ^ n - 1 else a / b
def remU (a b : Nat) : Nat := if b = 0 then a else a % b

/-- OP and OP-IMM of RV64I. `alt` selects SUB and SRA. -/
def aluOp (f3 : Nat) (alt : Bool) (a b : Word) : Word :=
  match f3 with
  | 0 => if alt then a - b else a + b
  | 1 => a <<< (b.toNat % 64)
  | 2 => if a.toInt < b.toInt then 1 else 0
  | 3 => if a.toNat < b.toNat then 1 else 0
  | 4 => a ^^^ b
  | 5 => if alt then BitVec.sshiftRight a (b.toNat % 64) else a >>> (b.toNat % 64)
  | 6 => a ||| b
  | _ => a &&& b

/-- The 32-bit forms: ADDW, SUBW, SLLW, SRLW, SRAW. -/
def aluOpW (f3 : Nat) (alt : Bool) (a b : Word) : Option Word :=
  let x : Half := a.setWidth 32
  let y : Half := b.setWidth 32
  match f3 with
  | 0 => some (BitVec.signExtend 64 (if alt then x - y else x + y))
  | 1 => some (BitVec.signExtend 64 (x <<< (y.toNat % 32)))
  | 5 => some (BitVec.signExtend 64 (if alt then BitVec.sshiftRight x (y.toNat % 32) else x >>> (y.toNat % 32)))
  | _ => none

/-- The M extension. -/
def mulOp (f3 : Nat) (a b : Word) : Word :=
  let au : Int := a.toNat
  let bu : Int := b.toNat
  match f3 with
  | 0 => a * b
  | 1 => BitVec.ofNat 64 (wrapInt 64 (a.toInt * b.toInt / 2 ^ 64))
  | 2 => BitVec.ofNat 64 (wrapInt 64 (a.toInt * bu / 2 ^ 64))
  | 3 => BitVec.ofNat 64 (wrapInt 64 (au * bu / 2 ^ 64))
  | 4 => BitVec.ofNat 64 (divS a.toInt b.toInt 64)
  | 5 => BitVec.ofNat 64 (divU a.toNat b.toNat 64)
  | 6 => BitVec.ofNat 64 (remS a.toInt b.toInt 64)
  | _ => BitVec.ofNat 64 (remU a.toNat b.toNat)

def mulOpW (f3 : Nat) (a b : Word) : Option Word :=
  let x := sint 32 a.toNat
  let y := sint 32 b.toNat
  let xu := a.toNat % 2 ^ 32
  let yu := b.toNat % 2 ^ 32
  let out := fun (n : Nat) => some (w32 (BitVec.ofNat 64 n))
  match f3 with
  | 0 => out (wrapInt 32 (x * y))
  | 4 => out (divS x y 32)
  | 5 => out (divU xu yu 32)
  | 6 => out (remS x y 32)
  | 7 => out (remU xu yu)
  | _ => none

/-- The value an AMO stores, on `n`-bit operands. -/
def amoOp (f5 n : Nat) (m r : Nat) : Option Nat :=
  match f5 with
  | 0x01 => some r
  | 0x00 => some ((m + r) % 2 ^ n)
  | 0x04 => some (m ^^^ r)
  | 0x0C => some (m &&& r)
  | 0x08 => some (m ||| r)
  | 0x10 => some (if sint n m ≤ sint n r then m else r)
  | 0x14 => some (if sint n r ≤ sint n m then m else r)
  | 0x18 => some (min m r)
  | 0x1C => some (max m r)
  | _ => none

/-- A branch's condition. -/
def branchTaken (f3 : Nat) (a b : Word) : Option Bool :=
  match f3 with
  | 0 => some (a == b)
  | 1 => some (a != b)
  | 4 => some (decide (a.toInt < b.toInt))
  | 5 => some (decide (b.toInt ≤ a.toInt))
  | 6 => some (decide (a.toNat < b.toNat))
  | 7 => some (decide (b.toNat ≤ a.toNat))
  | _ => none

/-! ## CSRs (07 R170) -/

/-- mip: MSIP, MTIP and the stops of the two queues (07 R170, R176). -/
def State.mip (s : State) (k : Nat) : Nat :=
  8 * s.fld (Reg.CC_CTL k) F.CC_CTL_SWI +
  128 * b01 (decide ((s.rd (Reg.CC_TIMECMP k)).toNat ≤ s.time % 2 ^ 64)) +
  65536 * b01 (s.stopped? k .xq) + 131072 * b01 (s.stopped? k .fq)

/-- The bits of mie that exist. -/
def mieBits : Nat := 8 + 128 + 65536 + 131072

/-- CSRs that may be read; the handler context reads cycle, time, instret and mhartid only. -/
def csrReadable (h : Bool) (n : Nat) : Bool :=
  n == 0xC00 || n == 0xC01 || n == 0xC02 || n == 0xF14 ||
  (!h && (n == 0xF11 || n == 0xF12 || n == 0xF13 || n == 0x300 || n == 0x301 || n == 0x304 || n == 0x305 ||
    n == 0x340 || n == 0x341 || n == 0x342 || n == 0x343 || n == 0x344))

/-- The count of steps powered and running (07 R167): at least one a retired instruction; what passed beyond that is a free value, and
the count never falls. -/
def State.readCycle (s : State) (k : Nat) : Word × State :=
  let old := (s.slot k).cycle.toNat
  let new : Word := BitVec.ofNat 64 (old + s.draw.1.toNat % (2 ^ 64 - old))
  (new, s.draw.2.modSlot k (fun c => { c with cycle := new }))

/-- A CSR's value. -/
def State.csrRead (s : State) (k n : Nat) : Word × State :=
  let c := (s.slot k).csrs
  let pure := fun (w : Word) => (w, s)
  match n with
  | 0x300 => pure (BitVec.ofNat 64 (8 * b01 c.mie + 128 * b01 c.mpie + 0x1800))
  | 0x301 => pure 0x8000000000001105
  | 0x304 => pure (BitVec.ofNat 64 c.mieMask)
  | 0x305 => pure c.mtvec
  | 0x340 => pure c.mscratch
  | 0x341 => pure c.mepc
  | 0x342 => pure c.mcause
  | 0x343 => pure c.mtval
  | 0x344 => pure (BitVec.ofNat 64 (s.mip k))
  | 0xC00 => s.readCycle k
  | 0xC01 => pure (BitVec.ofNat 64 s.time)
  | 0xC02 => pure c.instret
  | 0xF14 => pure (BitVec.ofNat 64 (s.idOf k))
  | _ => pure 0

/-- A write of a CSR (07 R170). -/
def Csrs.write (c : Csrs) (n : Nat) (v : Word) : Csrs :=
  match n with
  | 0x300 => { c with mie := bit v.toNat 3, mpie := bit v.toNat 7 }
  | 0x304 => { c with mieMask := v.toNat &&& mieBits }
  | 0x305 =>
    let mode := if bits v.toNat 0 2 < 2 then bits v.toNat 0 2 else bits c.mtvec.toNat 0 2
    { c with mtvec := BitVec.ofNat 64 (v.toNat / 4 * 4 + mode) }
  | 0x340 => { c with mscratch := v }
  | 0x341 => { c with mepc := v &&& ~~~1 }
  | 0x342 => { c with mcause := v }
  | 0x343 => { c with mtval := v }
  | _ => c

/-! ## Execution -/

/-- A trap: its cause and mtval. -/
abbrev TrapInfo := Nat × Word

/-- A Tile Store data access: misaligned first, then outside the Tile Store (07 R167, R168). `st` tells store and AMO. -/
def dataCheck (st : Bool) (a n : Nat) : Except TrapInfo Unit :=
  if a % n ≠ 0 then .error (if st then 6 else 4, BitVec.ofNat 64 a)
  else if tsBeyond a n then .error (if st then 7 else 5, BitVec.ofNat 64 a)
  else .ok ()

/-- A load's value (LB to LWU). -/
def loadExt (f3 v : Nat) : Option Word :=
  match f3 with
  | 0 => some (BitVec.ofNat 64 (wrapInt 64 (sint 8 v)))
  | 1 => some (BitVec.ofNat 64 (wrapInt 64 (sint 16 v)))
  | 2 => some (BitVec.ofNat 64 (wrapInt 64 (sint 32 v)))
  | 3 => some (BitVec.ofNat 64 v)
  | 4 => some (BitVec.ofNat 64 v)
  | 5 => some (BitVec.ofNat 64 v)
  | 6 => some (BitVec.ofNat 64 v)
  | _ => none

/-- A, extension: LR, SC and the AMOs (07 R167). -/
def State.atomic (s : State) (k : Nat) (h : Bool) (ill : TrapInfo) (w : Nat) : Except TrapInfo State :=
  let f5 := bits w 27 5
  let n := if bits w 12 3 = 2 then 4 else 8
  let a := (s.getX k h (bits w 15 5)).toNat
  let rd := bits w 7 5
  let src := (s.getX k h (bits w 20 5)).toNat % 2 ^ (8 * n)
  let ext := fun (v : Nat) => BitVec.ofNat 64 (wrapInt 64 (sint (8 * n) v))
  if bits w 12 3 ≠ 2 ∧ bits w 12 3 ≠ 3 then .error ill
  else if f5 = 2 then
    if bits w 20 5 ≠ 0 then .error ill
    else do
      dataCheck false a n
      return (s.setX k h rd (ext (s.tsLE k a n))).setResv k h (some a)
  else if f5 = 3 then do
    dataCheck true a n
    if (s.slot k).resv h = some a then
      return ((s.tsWrite k a (natLE n src)).setResv k h none).setX k h rd 0
    else return (s.setResv k h none).setX k h rd 1
  else
    match amoOp f5 (8 * n) (s.tsLE k a n) src with
    | none => .error ill
    | some v => do
      dataCheck true a n
      return (s.tsWrite k a (natLE n v)).setX k h rd (ext (s.tsLE k a n))

/-- CSR instructions (07 R167: Zicsr; R170). -/
def State.csrInstr (s : State) (k : Nat) (h : Bool) (ill : TrapInfo) (w : Nat) : Except TrapInfo State :=
  let n := bits w 20 12
  let f3 := bits w 12 3
  let rs1 := bits w 15 5
  let v := if f3 < 4 then s.getX k h rs1 else BitVec.ofNat 64 rs1
  let writes := f3 % 4 == 1 || rs1 != 0
  if !csrReadable h n || (writes && (h || decide (0xC00 ≤ n))) then .error ill
  else
    let r := s.csrRead k n
    let new := match f3 % 4 with | 1 => v | 2 => r.1 ||| v | _ => r.1 &&& ~~~v
    let s := if writes then r.2.modSlot k (fun c => { c with csrs := c.csrs.write n new }) else r.2
    .ok (s.setX k h (bits w 7 5) r.1)

/-- One instruction that neither stalls nor is an NCX instruction: the state with its registers, memory and pc, or the
trap it raises. SYSTEM instructions but the CSR ones are not taken here. DESIGN CHOICE (log entry 57): mtval of an illegal instruction
is the instruction, and of EBREAK the pc. -/
def State.rvExec (s : State) (k : Nat) (h : Bool) (f : Fetched) : Except TrapInfo State :=
  let pc := s.pc k h
  let nxt := pc + BitVec.ofNat 64 f.len
  let ill : TrapInfo := (2, BitVec.ofNat 64 f.raw)
  match f.word with
  | none => .error ill
  | some w =>
    let rd := bits w 7 5
    let f3 := bits w 12 3
    let f7 := bits w 25 7
    let a := s.getX k h (bits w 15 5)
    let b := s.getX k h (bits w 20 5)
    let immI := BitVec.ofNat 64 (wrapInt 64 (sint 12 (bits w 20 12)))
    let immS := BitVec.ofNat 64 (wrapInt 64 (sint 12 (f7 * 32 + rd)))
    let immB := BitVec.ofNat 64 (wrapInt 64 (sint 13 (bits w 31 1 * 4096 + bits w 7 1 * 2048 + bits w 25 6 * 32 + bits w 8 4 * 2)))
    let immU := BitVec.ofNat 64 (wrapInt 64 (sint 32 (w / 4096 * 4096)))
    let immJ := BitVec.ofNat 64 (wrapInt 64 (sint 21 (bits w 31 1 * 2 ^ 20 + bits w 12 8 * 4096 + bits w 20 1 * 2048 + bits w 21 10 * 2)))
    let put := fun (v : Word) => Except.ok ((s.setX k h rd v).setPc k h nxt)
    let opt := fun (v : Option Word) => match v with | some v => put v | none => .error ill
    match w % 128 with
    | 0x37 => put immU
    | 0x17 => put (pc + immU)
    | 0x6F => .ok ((s.setX k h rd nxt).setPc k h (pc + immJ))
    | 0x67 => if f3 ≠ 0 then .error ill else .ok ((s.setX k h rd nxt).setPc k h ((a + immI) &&& ~~~1))
    | 0x63 => match branchTaken f3 a b with
      | none => .error ill
      | some t => .ok (s.setPc k h (if t then pc + immB else nxt))
    | 0x03 =>
      let n := 2 ^ (f3 % 4)
      let ad := (a + immI).toNat
      if f3 = 7 then .error ill
      else match dataCheck false ad n with
        | .error t => .error t
        | .ok _ => opt (loadExt f3 (s.tsLE k ad n))
    | 0x23 =>
      let n := 2 ^ f3
      let ad := (a + immS).toNat
      if 3 < f3 then .error ill
      else match dataCheck true ad n with
        | .error t => .error t
        | .ok _ => .ok ((s.tsWrite k ad (natLE n b.toNat)).setPc k h nxt)
    | 0x13 =>
      if f3 = 1 ∧ bits w 26 6 ≠ 0 then .error ill
      else if f3 = 5 ∧ bits w 26 6 ≠ 0 ∧ bits w 26 6 ≠ 0x10 then .error ill
      else put (aluOp f3 (f3 == 5 && bits w 26 6 == 0x10) a immI)
    | 0x1B =>
      if f3 = 1 ∧ f7 ≠ 0 then .error ill
      else if f3 = 5 ∧ f7 ≠ 0 ∧ f7 ≠ 0x20 then .error ill
      else opt (aluOpW f3 (f3 == 5 && f7 == 0x20) a immI)
    | 0x33 =>
      if f7 = 1 then put (mulOp f3 a b)
      else if f7 = 0 then put (aluOp f3 false a b)
      else if f7 = 0x20 ∧ (f3 = 0 ∨ f3 = 5) then put (aluOp f3 true a b)
      else .error ill
    | 0x3B =>
      if f7 = 1 then opt (mulOpW f3 a b)
      else if f7 = 0 then opt (aluOpW f3 false a b)
      else if f7 = 0x20 ∧ (f3 = 0 ∨ f3 = 5) then opt (aluOpW f3 true a b)
      else .error ill
    | 0x2F => (s.atomic k h ill w).map (fun t => t.setPc k h nxt)
    | 0x0F => if f3 = 0 ∨ (f3 = 1 ∧ !h) then .ok (s.setPc k h nxt) else .error ill
    | 0x73 =>
      if f3 = 0 ∨ f3 = 4 then
        (if w = 0x00000073 then .error (11, 0) else if w = 0x00100073 then .error (3, pc) else .error ill)
      else (s.csrInstr k h ill w).map (fun t => t.setPc k h nxt)
    | _ => .error ill

end Sys2Proof.Machine
end

