-- ==== Sys2Proof/Machine/ControlCore.lean ====
section
/-!
DEFINITION. Machine/ControlCore.lean: issue into the queues and their spill, waypoints, completion, traps, the NCX
instructions, handler dispatch, and a kernel's start, end and abort (07 R171 to R195); the outcome of a tile halt
(05 R126, R127, 06 R164).
-/

namespace Sys2Proof.Machine

/-! ## Queues and spill (07 R181, R184 to R188) -/

/-- The spill size code of a queue in the record in force. -/
def Slot.spillCode (c : Slot) (q : QSel) : Nat := bits (c.klField 5 1) (4 * q.num) 4
/-- Entries a spill ring holds (R181). -/
def spillCap (code : Nat) : Nat := if code = 0 then 0 else 256 * 2 ^ (code - 1)
def Slot.spillBase (c : Slot) (q : QSel) : Nat := c.klField (44 + 4 * q.num) 4

/-- May a word enter the queue now: on chip, or in its spill ring (R181, R182)? -/
def State.hasSpace (s : State) (k : Nat) (q : QSel) : Bool :=
  let u := s.queueNow k q
  (u.ringLen == 0 && decide (u.onchip.length < 64)) || decide (u.ringLen < spillCap ((s.slot k).spillCode q))

/-- An entry comes on chip; a waypoint's half takes the next number of its queue. -/
def Queue.push (u : Queue) (ticket : Nat) (w : Cmd) : Queue :=
  let wpt := opcode w == 0x90
  { u with
    onchip := u.onchip ++ [⟨ticket, w, if wpt then (u.wptIn + 1) % 2 ^ 16 else 0⟩]
    wptIn := if wpt then u.wptIn + 1 else u.wptIn }

/-- Put a word into a queue that has space. -/
def State.enqueue (s : State) (k : Nat) (q : QSel) (w : Cmd) : State :=
  let c := s.slot k
  let u := s.queueNow k q
  if u.ringLen = 0 ∧ u.onchip.length < 64 then
    s.setQueue k q { u.push (u.issued + 1) w with issued := u.issued + 1 }
  else
    let pos := (u.ringHead + u.ringLen) % spillCap (c.spillCode q)
    (s.tsWrite k (c.spillBase q + 16 * pos) (natLE 16 w.toNat)).setQueue k q
      { u with issued := u.issued + 1, ringLen := u.ringLen + 1 }

/-- One line of the spill ring comes on chip (R181). -/
def State.refill (s : State) (k : Nat) (q : QSel) : State :=
  let c := s.slot k
  let u := s.queueNow k q
  let cap := spillCap (c.spillCode q)
  if u.onchip.length ≤ 56 ∧ 0 < u.ringLen ∧ s.klState k ≥ 2 then
    let n := min 8 u.ringLen
    let first := u.issued - u.ringLen + 1
    let v := (List.range n).foldl (fun (x : Queue) i =>
      x.push (first + i) (BitVec.ofNat 128 (s.tsLE k (c.spillBase q + 16 * ((u.ringHead + i) % cap)) 16))) u
    s.setQueue k q { v with ringHead := (u.ringHead + n) % cap, ringLen := u.ringLen - n }
  else s

/-- Every entry not yet accepted leaves, counted as completed without effect (R183, R185). -/
def Queue.discard (u : Queue) (wptIssued : Nat) : Queue :=
  if u.onchip.isEmpty && u.ringLen == 0 then u
  else ({ u with onchip := [], ringLen := 0, ringHead := 0, wptIn := wptIssued, inflight := insInflight ⟨⟨u.issued, 0, 0⟩, .done⟩ u.inflight }).settled

/-- Is a queue empty, its spill ring included? -/
def Queue.isEmpty (u : Queue) : Bool := u.onchip.isEmpty && u.ringLen == 0

/-- The count of completed commands, modulo 2^32 (R178, R184). -/
def State.doneCount (s : State) (k : Nat) (q : QSel) : Nat := (s.queueNow k q).done % 2 ^ 32

/-- An accepted command whose effect is made completes; its elements are counted (R184, 06 R498). -/
def State.complete (s : State) (k : Nat) (q : QSel) (t : Nat) : State :=
  match (s.queue k q).inflight.find? (fun e => e.entry.ticket == t) with
  | some ⟨_, .working n⟩ =>
    let s := s.setQueue k q ((s.queue k q).setPhase t .done)
    let s := if q = .xq then s.modSlot k (fun c => c.dropTails t) else s
    if n = 0 then s else s.perfAdd (Reg.VE_ELEM k) n (Reg.VE_STAT k) F.VE_STAT_ELEM_OVF F.VE_STAT_ELEM_AE
  | _ => s

/-- The first pass marker not yet passed, in ticket order. -/
def Queue.firstMarker (u : Queue) : Option (Entry × Nat) :=
  u.inflight.findSome? (fun e => match e.phase with | .marker w => some (e.entry, w) | _ => none)

/-- The first pass marker passes, where its condition holds (R187): for READS, no earlier command waits to make its effect; for DONE,
every earlier one has completed. -/
def State.passMarker (s : State) (k : Nat) : State :=
  let u := s.queueNow k .xq
  match u.firstMarker with
  | none => s
  | some (e, w) =>
    let earlier := u.inflight.filter (fun f => decide (f.entry.ticket < e.ticket))
    if earlier.all (fun f => f.phase == .done || (!cb e.word 119 && f.phase != .waiting)) then
      (s.setQueue k .xq (u.setPhase e.ticket .done)).setFld (Reg.WPT_STAT k) F.WPT_STAT_PASSED w
    else s

/-! ## Ends of a kernel (07 R174, R175, R177, R194, R195) -/

/-- What the message unit discards at an abort (09 R243): requests not admitted, with their reservations, one admitted whose answer is on
its way keeping its own; and bulk packets not yet injected: a bulk multicast that its last member has not acknowledged is ABORTED, and
its own tally does not advance (10 R285). -/
def State.discardSends (s : State) (k : Nat) : State :=
  let admitted := fun (id : Nat) => s.net.any (fun p => match p.body with
    | .admission _ i => i == id && p.dst == .core (s.idOf k)
    | _ => false)
  let s := (s.slot k).sendM.foldl (fun (t : State) e =>
    if e.msg.rq && !admitted e.id then t.unreserve (.core k e.msg.rch) else t) s
  s.modSlot k (fun c => { c with
    sendM := []
    sendH := []
    bulks := (c.bulks.filter (fun b => !b.out.isEmpty)).map (fun (b : Bulk) => { b with pos := b.len, failed := true }) })

/-- The contexts stop, the tile halts, what is queued and not accepted is discarded, and the streams and the messages not admitted end
(R195, 09 R243). -/
def State.endAs (s : State) (k status : Nat) (byAbort : Bool) : State :=
  let s := (s.setFld (Reg.KL_STAT k) F.KL_STAT_STATE 3).kernelHalt k
  let s := s.modSlot k (fun c => { c with
    ending := .stop status byAbort
    xq := c.xq.discard c.wptIssued
    fq := c.fq.discard c.wptIssued
    istall := false
    waitq := false
    wfi := false })
  (s.cancelStreams k).discardSends k

/-- TRAP_INFO of a trap or violation that ends a kernel. -/
def State.trapInfo (s : State) (k : Nat) (h intr : Bool) (cause : Nat) (epc : Word) : State :=
  let r := Reg.TRAP_INFO k
  let s := ((s.setFld r F.TRAP_INFO_VALID 1).setFld r F.TRAP_INFO_CTX (b01 h)).setFld r F.TRAP_INFO_INTR (b01 intr)
  (s.setFld r F.TRAP_INFO_CAUSE cause).setFld r F.TRAP_INFO_EPC (epc.toNat % 2 ^ 32)

/-- A write of KL_CTL.ABORT (R195). -/
def State.abort (s : State) (k : Nat) : State :=
  let already := s.setFld (Reg.KL_STAT k) F.KL_STAT_ABORT_RESULT 1
  if s.klState k = 0 then already
  else
    match (s.slot k).ending with
    | .stop _ false => already
    | .stop _ true => s
    | _ => s.endAs k 0x02 true

/-- The status a kernel's end records (R194). -/
def kendStatus (v : Nat) : Nat := if 0x0F ≤ v % 256 ∧ v % 256 ≤ 0x7F then 0x8B else v % 256

/-- Commit the completion record: KL_DONE, STATUS, IDLE, and the kernel-done event (R194, 18 R478). -/
def State.commitRecord (s : State) (k status : Nat) : State :=
  let ab := match (s.slot k).ending with | .stop _ ab => ab | _ => false
  let xq := s.queueNow k .xq
  let fq := s.queueNow k .fq
  let s := (s.wr (Reg.KL_DONE k) (BitVec.ofNat 64 s.time)).setFld (Reg.KL_STAT k) F.KL_STAT_STATUS status
  let s := s.setFld (Reg.KL_STAT k) F.KL_STAT_STATE 0
  let s := s.modSlot k (fun c => { c with
    ending := .no
    hrun := false
    xq := { xq with inflight := [] }
    fq := { fq with inflight := [] } })
  let s := match s.coreOf k with
    | some id => (s.wr Reg.KD_PEND (s.rd Reg.KD_PEND ||| BitVec.ofNat 64 (2 ^ id))).runCommit id (s.slot k).kser ab
    | none => s
  s.alert 0

/-- Does a kernel ending by KEND have nothing left to do, and are the writes of its streams complete (R194, 08 R211, 10 R281)? -/
def State.quiet (s : State) (k : Nat) : Bool :=
  let c := s.slot k
  let idle := fun (q : QSel) => (s.queueNow k q).isEmpty && (s.queueNow k q).inflight.isEmpty
  idle .xq && idle .fq &&
  (s.busySlots k).all (fun i => (s.strm k i).state == .done || (s.strm k i).state == .halted) &&
  c.outs.all (fun o => o.dropped || decide (34 ≤ o.stream)) && !c.hrun && (c.hvec == 0 || c.hpend.isEmpty)

/-- The completion commits, where its conditions hold (R194, R195). -/
def State.commit (s : State) (k : Nat) : State :=
  let c := s.slot k
  match c.ending with
  | .no => s
  | .kend st => if s.quiet k then (s.commitStreams k).commitRecord k st else s
  | .stop st ab =>
    if c.halt = .halted ∧ s.fld (Reg.TILE_STAT k) F.TILE_STAT_SR_STATE = 0 ∧ s.fld (Reg.VR_SAVE k) F.VR_SAVE_STATE = 0 then
      let s := (s.commitRecord k st).endKernelHalt k
      if ab then s.setFld (Reg.KL_STAT k) F.KL_STAT_ABORT_RESULT 2 else s
    else s

/-! ## Traps (07 R174 to R177) -/

/-- The main context takes a trap, or the kernel ends by it where TVEC is 0. -/
def State.trapMain (s : State) (k : Nat) (intr : Bool) (cause : Nat) (mtval epc : Word) : State :=
  let c := s.slot k
  if c.tvec = 0 then (s.trapInfo k false intr cause epc).endAs k 0x8A false
  else
    let base := c.csrs.mtvec.toNat / 4 * 4
    let pc := if intr && bits c.csrs.mtvec.toNat 0 2 == 1 then base + 4 * cause else base
    s.modSlot k (fun c => { c with
      csrs := { c.csrs with
        mepc := epc
        mcause := BitVec.ofNat 64 ((if intr then 2 ^ 63 else 0) + cause)
        mtval := mtval
        mpie := c.csrs.mie
        mie := false }
      main := { c.main with pc := BitVec.ofNat 64 pc }
      istall := false
      waitq := false
      wfi := false })

/-- The handler context breaks a rule or raises an exception: the kernel ends (R174, R175). -/
def State.trapHandler (s : State) (k status cause : Nat) : State :=
  (s.trapInfo k true false cause (s.pc k true)).endAs k status false

/-- An exception of a context. -/
def State.exception (s : State) (k : Nat) (h : Bool) (cause : Nat) (mtval : Word) : State :=
  if h then s.trapHandler k 0x8A cause else s.trapMain k false cause mtval (s.pc k false)

/-- The pending and enabled interrupt that is taken first (R177). -/
def State.pickIrq (s : State) (k : Nat) : Option Nat :=
  let p := s.mip k &&& (s.slot k).csrs.mieMask
  [16, 17, 3, 7].find? (fun i => bit p i)

/-- Has a relief stopped the contexts of the slot (17 R444 step 2)? -/
def State.reliefStop (s : State) (k : Nat) : Bool := match s.repair.relief with | some r => r.pause && r.x == k | none => false

/-! ## Issue from a context (07 R171, R172) -/

/-- May a context issue: the kernel runs, is not ending by an abort, and, for the main context, not by KEND; the handler
must be dispatched. The main context issues only where the handler may have no instruction ready (R172). -/
def State.runs (s : State) (k : Nat) (h : Bool) : Bool :=
  !s.closed k && !s.reliefStop k && (h || !(s.slot k).hrun || (s.slot k).hwait) && (match (s.slot k).ending with
    | .no => s.klState k == 2 && (!h || (s.slot k).hrun)
    | .kend _ => h && (s.slot k).hrun
    | .stop _ _ => false)

/-- An instruction retires: instret counts it, its step is counted, and the context is not stalled. -/
def State.retire (s : State) (k : Nat) (h : Bool) : State :=
  s.modSlot k (fun c => { c with
    csrs := { c.csrs with instret := c.csrs.instret + 1 }
    cycle := c.cycle + 1
    hwait := if h then false else c.hwait
    istall := if h then c.istall else false
    waitq := if h then c.waitq else false
    wfi := if h then c.wfi else false })

/-- An NCX instruction retires with a result. -/
def State.retireNcx (s : State) (k : Nat) (h : Bool) (rd : Nat) (v : Word) : State :=
  ((s.setX k h rd v).setPc k h (s.pc k h + 4)).retire k h

/-- The NCX instruction at the pc of a context: its word (R178). -/
def State.ncxAt (s : State) (k : Nat) (h : Bool) : Option Nat :=
  match (s.slot k).fetch (s.pc k h).toNat with
  | .ok ⟨some w, _, 4⟩ => if w % 128 = 0x0B ∧ bits w 25 7 = 0 then some w else none
  | _ => none

/-- The NCX instruction of funct3 `f` that a context issues next. -/
def State.ncx (s : State) (k : Nat) (h : Bool) (f : Nat) : Option Nat :=
  if s.runs k h then (match s.ncxAt k h with | some w => if bits w 12 3 = f then some w else none | none => none) else none

/-- The main context takes a pending interrupt, if MIE lets it. An instruction stalled in WFI has then retired. -/
def State.takeIrq (s : State) (k : Nat) : Option State :=
  if s.runs k false && (s.slot k).csrs.mie then
    match s.pickIrq k with
    | none => none
    | some c =>
      let s := if (s.slot k).wfi then (s.setPc k false (s.pc k false + 4)).retire k false else s
      some (s.trapMain k true c 0 (s.pc k false))
  else none

/-- WFI of the main context: it waits until an enabled interrupt is pending (R167). -/
def State.wfi (s : State) (k : Nat) : State :=
  if (s.pickIrq k).isSome then (s.setPc k false (s.pc k false + 4)).retire k false
  else s.modSlot k (fun c => { c with wfi := true })

/-- MRET. -/
def State.mret (s : State) (k : Nat) : State :=
  (s.modSlot k (fun c => { c with
    csrs := { c.csrs with mie := c.csrs.mpie, mpie := true }
    main := { c.main with pc := c.csrs.mepc } })).retire k false

/-- A context issues one instruction other than an NCX one, or the main context takes an interrupt (R167 to R177). -/
def State.instruction (s : State) (k : Nat) (h : Bool) : State :=
  if !s.runs k h then s
  else
    match (if h then none else s.takeIrq k) with
    | some t => t
    | none =>
      match (s.slot k).fetch (s.pc k h).toNat with
      | .error a => s.exception k h 1 (BitVec.ofNat 64 a)
      | .ok f =>
        if (s.ncxAt k h).isSome then s
        else if f.word = some 0x10500073 ∧ !h then s.wfi k
        else if f.word = some 0x30200073 ∧ !h then s.mret k
        else
          match s.rvExec k h f with
          | .error t => s.exception k h t.1 t.2
          | .ok s => (s.retire k h).modSlot k (fun c => if h then { c with hwait := f.slow } else c)

/-! ## NCX instructions (07 R178 to R185) -/

/-- The queue a command word goes to, if any (R179). -/
def routeOf (op : Nat) : Option QSel :=
  if 0x10 ≤ op ∧ op ≤ 0x7F then some .xq
  else if 0x80 ≤ op ∧ op ≤ 0x8F then some .fq
  else if op = 0x91 ∨ op = 0x92 ∨ op = 0x94 then some .xq
  else if op = 0x93 ∨ op = 0x95 ∨ op = 0x96 then some .fq
  else none

/-- The word of an NCX.ISSUE: rs1 above rs2. -/
def State.issueWord (s : State) (k : Nat) (h : Bool) (w : Nat) : Cmd :=
  s.getX k h (bits w 15 5) ++ s.getX k h (bits w 20 5)

/-- The context stalls in NCX.ISSUE; the other one goes on (R172). -/
def State.stall (s : State) (k : Nat) (h : Bool) : State :=
  s.modSlot k (fun c => if h then { c with hwait := true } else { c with istall := true })

/-- WPT enters both queues together, while fewer than 32 767 waypoints are unpassed (R179, R186, R188). -/
def State.issueWpt (s : State) (k rd : Nat) (c : Cmd) : State :=
  let d := s.slot k
  let ahead := (d.wptIssued % 2 ^ 16 + 2 ^ 16 - s.fld (Reg.WPT_STAT k) F.WPT_STAT_PASSED) % 2 ^ 16
  if s.hasSpace k .xq && s.hasSpace k .fq && decide (ahead < 32767) then
    let s := ((s.enqueue k .xq c).enqueue k .fq c).modSlot k (fun e => { e with wptIssued := e.wptIssued + 1 })
    s.retireNcx k false rd (BitVec.ofNat 64 ((d.wptIssued + 1) % 2 ^ 16))
  else s.stall k false

/-- NCX.ISSUE of a message command from a context. -/
def State.issueMsg (s : State) (k : Nat) (h : Bool) (rd : Nat) (c : Cmd) : State :=
  match s.msgIssue k h c with
  | .stall => s.stall k h
  | .done st t => t.retireNcx k h rd (BitVec.ofNat 64 st)

/-- NCX.ISSUE from the main context. -/
def State.issueMain (s : State) (k rd : Nat) (c : Cmd) : State :=
  let op := opcode c
  if op = 0x90 then s.issueWpt k rd c
  else if 0xA0 ≤ op ∧ op ≤ 0xAF then s.issueMsg k false rd c
  else
    match routeOf op with
    | none => s.trapMain k false 25 (BitVec.ofNat 64 (c.toNat / 2 ^ 64)) (s.pc k false)
    | some q =>
      if s.hasSpace k q then
        let s := s.enqueue k q c
        s.retireNcx k false rd (BitVec.ofNat 64 ((s.queue k q).issued % 2 ^ 32))
      else s.stall k false

/-- NCX.ISSUE from the handler context: a reply, or the end of the kernel (R174). -/
def State.issueHandler (s : State) (k rd : Nat) (c : Cmd) : State :=
  if opcode c = 0xA1 then s.issueMsg k true rd c
  else if opcode c = 0xA0 ∨ (opcode c = 0xA2 ∧ !mcBulk c) then s.trapHandler k 0x0D 25
  else s.trapHandler k 0x8A 25

/-- NCX.ISSUE of a word that a test picks. -/
def State.ncxIssue (s : State) (k : Nat) (h : Bool) (p : Cmd → Bool) : State :=
  match s.ncx k h 0 with
  | none => s
  | some w =>
    let c := s.issueWord k h w
    if p c then (if h then s.issueHandler k (bits w 7 5) c else s.issueMain k (bits w 7 5) c) else s

/-- NCX.XDONE and NCX.FDONE. -/
def State.ncxDone (s : State) (k : Nat) (h : Bool) (q : QSel) : State :=
  match s.ncx k h (1 + q.num) with
  | none => s
  | some w => s.retireNcx k h (bits w 7 5) (BitVec.ofNat 64 (s.doneCount k q))

/-- An NCX instruction that the context may not execute (R174, R176). -/
def State.ncxFault (s : State) (k : Nat) (h : Bool) : State :=
  if h then s.trapHandler k 0x8A 25 else s.trapMain k false 25 0 (s.pc k false)

/-- NCX.WAITQ (R184). -/
def State.ncxWaitq (s : State) (k : Nat) (h : Bool) : State :=
  match s.ncx k h 3 with
  | none => s
  | some w =>
    if h then s.ncxFault k h
    else
      let q := QSel.ofNum (s.getX k h (bits w 20 5)).toNat
      if 0 ≤ sdiff 32 (s.doneCount k q) ((s.getX k h (bits w 15 5)).toNat % 2 ^ 32) then s.retireNcx k h (bits w 7 5) 0
      else if s.stopped? k q then s.retireNcx k h (bits w 7 5) 1
      else s.modSlot k (fun c => { c with waitq := true })

/-- TILE_STAT[1:0] (05 R135). -/
def HaltPhase.code : HaltPhase → Nat | .running => 0 | .halting => 1 | .halted => 2

/-- NCX.THALT. -/
def State.ncxThalt (s : State) (k : Nat) (h : Bool) : State :=
  match s.ncx k h 4 with
  | none => s
  | some w =>
    if h then s.ncxFault k h
    else
      let old := (s.slot k).halt.code
      (s.tileHalt k (bit (s.getX k h (bits w 15 5)).toNat 0)).retireNcx k h (bits w 7 5) (BitVec.ofNat 64 old)

/-- NCX.XRES (R185). -/
def State.ncxXres (s : State) (k : Nat) (h : Bool) : State :=
  match s.ncx k h 5 with
  | none => s
  | some w =>
    if h then s.ncxFault k h
    else
      let q := QSel.ofNum (s.getX k h (bits w 20 5)).toNat
      let s' := if !s.stopped? k q then s
        else
          let s1 := if bit (s.getX k h (bits w 15 5)).toNat 0 then
              s.setQueue k q ((s.queue k q).discard (s.slot k).wptIssued)
            else s
          s1.setFld (q.reg k) F.XQ_STAT_STOP 0
      (s'.setPc k h (s.pc k h + 4)).retire k h

/-- NCX.HRET (R171, R178). -/
def State.ncxHret (s : State) (k : Nat) (h : Bool) : State :=
  match s.ncx k h 6 with
  | none => s
  | some _ =>
    if h then ((s.setPc k h (s.pc k h + 4)).retire k h).modSlot k (fun c => { c with hrun := false })
    else s.ncxFault k h

/-- NCX.KEND (R194). -/
def State.ncxKend (s : State) (k : Nat) (h : Bool) : State :=
  match s.ncx k h 7 with
  | none => s
  | some w =>
    if h then s.ncxFault k h
    else
      let st := kendStatus (s.getX k h (bits w 15 5)).toNat
      let s := ((s.setPc k h (s.pc k h + 4)).retire k h).setFld (Reg.KL_STAT k) F.KL_STAT_STATE 3
      s.modSlot k (fun c => { c with ending := .kend st })

/-! ## Handler dispatch (07 R173) -/

/-- Dispatch for the lowest pending channel, where the handler context is idle and the record gives a handler. -/
def State.dispatch (s : State) (k : Nat) : State :=
  let c := s.slot k
  let live := !s.closed k && !s.reliefStop k && (match c.ending with | .no => s.klState k == 2 | .kend _ => true | .stop _ _ => false)
  match c.hpend with
  | [] => s
  | (ch, addr) :: _ =>
    if live && !c.hrun && c.hvec != 0 then
      let s := s.modSlot k (fun c => { c with
        hpend := serase ch c.hpend
        hrun := true
        hwait := true
        hand := { c.hand with pc := BitVec.ofNat 64 c.hvec } })
      ((s.setX k true 10 (BitVec.ofNat 64 ch)).setX k true 11 (BitVec.ofNat 64 addr)).setX k true 12
        (BitVec.ofNat 64 (s.tsLE k addr 8))
    else s

/-! ## Launch (07 R190 to R193) -/

/-- Do two ranges overlap, where both are used? -/
def recOverlap (a n b m : Nat) : Bool := overlaps a n b m

/-- Bytes of a spill ring. -/
def spillBytes (code : Nat) : Nat := if code = 0 then 0 else 4096 * 2 ^ (code - 1)

/-- The checks of a launch of slot `k`, bound to logical core `id`, in their order (R191). `c` carries the record. -/
def State.launchCheck (s : State) (k id : Nat) (c : Slot) : Option Nat :=
  let ep := c.klField 8 8
  let xc := c.spillCode .xq
  let fc := c.spillCode .fq
  let ia := c.klField 16 4
  let il := c.klField 20 4
  let en := c.klField 24 4
  firstFail
    [ (s.klState k != 0 || decide (s.epoch < ep), 0x09),
      (s.fleetOf id != some c.fleet, 0x04),
      (decide (ep < s.epoch), 0x0C),
      (16 ≤ c.klField 4 1 || c.klField 6 2 != 0 || c.klField 60 4 != 0 || decide (9 < xc) || decide (9 < fc) ||
        ia % 128 != 0 || decide (il < 4) || decide (65536 < il) || il % 4 != 0 || decide (il ≤ en) || en % 2 != 0 ||
        c.klField 32 4 % 2 != 0 ||
        (xc != 0 && c.spillBase .xq % 4096 != 0) || (fc != 0 && c.spillBase .fq % 4096 != 0) ||
        recOverlap (c.spillBase .xq) (spillBytes xc) ia il || recOverlap (c.spillBase .fq) (spillBytes fc) ia il ||
        recOverlap (c.spillBase .xq) (spillBytes xc) (c.spillBase .fq) (spillBytes fc), 0x82),
      (tsBeyond ia il || (xc != 0 && tsBeyond (c.spillBase .xq) (spillBytes xc)) ||
        (fc != 0 && tsBeyond (c.spillBase .fq) (spillBytes fc)), 0x04) ]

/-- A write of KL_CTL.GO to a bound slot: the checks, then steps 1 and 2 of R192. `pass` is the passage that the record
names, where the Reckoner holds it with this core. -/
def State.goLaunch (s : State) (k id pass : Nat) : State :=
  let rec_ := (List.range 8).map (fun n => s.rd (Reg.KL_REC k n))
  let c := { s.slot k with kl := rec_ }
  match s.launchCheck k id c with
  | some st => s.setFld (Reg.KL_STAT k) F.KL_STAT_STATUS st
  | none =>
    let il := c.klField 20 4
    let c := { c.clearTile with
      v := []
      imem := c.imem.filter (fun (p : Nat × Byte) => decide (p.1 < il))
      kser := c.kser + 1
      passage := pass
      ending := .no }
    let s := ((s.setSlot k c).setFld (Reg.KL_STAT k) F.KL_STAT_STATUS 0).setFld (Reg.KL_STAT k) F.KL_STAT_KID (c.klField 0 4)
    let s := ((s.wr (Reg.NUM_STAT k) 0).setFld (Reg.SCOUT0 k) F.SCOUT0_MAX 0).setFld (Reg.SCOUT1 k) F.SCOUT1_MAX 0
    (s.setFld (Reg.VE_SUM k) F.VE_SUM_ADDR 0).setFld (Reg.KL_STAT k) F.KL_STAT_STATE 1

/-- The image is in instruction memory; registers are set and the kernel runs (R192 step 4, R193, R183). DESIGN CHOICE (log entry 39):
a TVEC that ends in 0b10 or 0b11 gives mtvec MODE 0. -/
def State.kernelStart (s : State) (k : Nat) : State :=
  let c := s.slot k
  if s.klState k = 1 ∧ c.ending = .no ∧ !s.closed k ∧ !s.reliefStop k then
    let img := s.tsRead k (c.klField 16 4) (c.klField 20 4)
    let tv := c.tvec
    let x0 : Sparse Word := []
    let put := fun (m : Sparse Word) (r v : Nat) => sset (fun _ => (0 : Word)) m r (BitVec.ofNat 64 v)
    let c' := { c with
      imem := writeBytes zeroByte c.imem 0 img
      main := ⟨BitVec.ofNat 64 (c.klField 24 4), put (put x0 2 (c.klField 36 4)) 10 (c.klField 52 4)⟩
      hand := ⟨0, put x0 2 (c.klField 40 4)⟩
      hrun := false
      hwait := false
      csrs := { Csrs.reset with mtvec := BitVec.ofNat 64 (if bits tv 0 2 < 2 then tv else tv / 4 * 4) }
      istall := false
      waitq := false
      wfi := false
      resvMain := none
      resvHand := none
      tails0 := []
      tails1 := []
      tailBy := []
      notes := []
      xq := Queue.empty
      fq := Queue.empty
      wptIssued := 0 }
    let s := ((s.setSlot k c').markDirty k 65536 (cdiv (c.klField 20 4) 128)).resetStreams k
    let s := s.cacheDrop (k / 9) c.fleet (fun _ => true)
    let s := (s.setFld (Reg.XQ_STAT k) F.XQ_STAT_STOP 0).setFld (Reg.FQ_STAT k) F.XQ_STAT_STOP 0
    let s := (s.wr (Reg.WPT_STAT k) 0).setFld (Reg.CC_CTL k) F.CC_CTL_SWI 0
    ((s.wr (Reg.CC_TIMECMP k) 0xFFFFFFFFFFFFFFFF).setFld (Reg.KL_STAT k) F.KL_STAT_STATE 2).startRuns
  else s

/-! ## Tile halt (05 R125 to R128; 06 R164, R165) -/

/-- What a DRN of MODE DRAIN or KEEP abandoned at a halt leaves (05 R127): it has not made its last shadow read, so some row is not
written and some element not converted. A RAW image has its rows of cells first, then those of wrap bits. -/
def State.drnPartial (s : State) (k : Nat) (w : Cmd) (rows elems : Nat) (held : Bool) : State :=
  let d := decodeDrn w
  let c := s.slot k
  match drnCheck c.layout d, drnRegion c.layout d with
  | none, some r =>
    if 2 ≤ d.mode then s
    else if d.fmt = 6 then
      let es := rawCells r c.shadowSet
      (List.range (min rows (2 * r.h - 1))).foldl (fun (t : State) i =>
        if i < r.h then t.tsWrite k (d.dst + i * d.stride) (packElems 32 ((es.drop (i * r.w)).take r.w))
        else t.tsWrite k (d.dst + r.h * d.stride + 16 * (i - r.h)) (rawWraps r c.shadowSet (i - r.h))) s
    else
      let h := s.drnParams k d
      match blkCheck d.readsBlock h.block with
      | some _ => s
      | none =>
        let out := drnAll s.dn16 d.fmt h r c.shadowSet
        let rows := min rows (r.h - 1)
        let s := s.drnRows k d r out.1 rows
        let mags := (r.cells.take (min (max elems (rows * r.w)) (r.h * r.w - 1))).foldl (fun (a : Seen) p =>
          a.conv 0 (drnConv s.dn16 d.fmt h p.1 p.2 (sget zeroCell c.shadowSet (cellKey (r.row + p.1) (r.col + p.2))))) Seen.none
        let s := if elems = 0 ∧ rows = 0 then s else s.scout (Reg.SCOUT0 k) d.sr mags.mag
        if held && d.readsBlock then
          s.modSlot k (fun x => { x with held := { h with block := h.block.take 12 ++ (x.held.block.drop 12).take 4 ++ h.block.drop 16 } })
        else s
  | _, _ => s

/-- What a FILL abandoned after `n` cells leaves (05 R127): its last cell load is its point of no return, its first one sets the flag
of the set (R122). -/
def State.fillPartial (s : State) (k : Nat) (w : Cmd) (n : Nat) : State :=
  let d := decodeDrn w
  let c := s.slot k
  match drnCheck c.layout d, drnRegion c.layout d with
  | none, some r =>
    if d.mode = 2 then
      let n := min n (r.h * r.w - 1)
      if n = 0 then s else s.setSlot k (c.setAcc (!c.active) ((r.cells.take n).foldl (fun m p =>
        sset zeroCell m (cellKey (r.row + p.1) (r.col + p.2)) (s.rawCell k d.dst d.stride r p.1 p.2)) c.shadowSet) true)
    else s
  | _, _ => s

/-- Has a vector command an in-place output that makes it Complete-class (06 R164)? Such a command is never abandoned once
started. -/
def State.completeClass (s : State) (k : Nat) (w : Cmd) : Bool :=
  let op := opcode w
  if op = 0x59 then (decodeRecomb (s.descOf k w)).accIn && (decodeRecomb (s.descOf k w)).accOut
  else if op = 0x58 then false
  else
    let v := decodeVS w
    v.ins.any (fun i => v.outs.any (fun o => i.at_ == o.at_ && 0 < i.n && 0 < o.n))

/-- An abandoned command's effects, where its opcode admits them. DESIGN CHOICE (log entry 55): opcodes 0x78 and 0x79 are VR commands, and
once started they complete. -/
def State.abandon (s : State) (k : Nat) (w : Cmd) (p : Partial) : State :=
  let op := opcode w
  match p with
  | .none => s
  | .ldl n => if op = 0x10 then s.ldlPartial k w n else s
  | .drain r e h => if op = 0x25 then s.drnPartial k w r e h else s
  | .fill n => if op = 0x25 then s.fillPartial k w n else s
  | .vs n => if 0x40 ≤ op ∧ op ≤ 0x55 ∧ !s.completeClass k w then s.vsPartial k w n else s
  | .slice n m => if op = 0x58 ∧ !s.completeClass k w then s.slicePartial k w n m else s
  | .recomb n m => if op = 0x59 ∧ !s.completeClass k w then s.recombPartial k w n m else s

/-- Does an accepted entry return to the queue at a halt? -/
def Phase.returns : Phase → Bool
  | .waiting => true
  | .marker _ => true
  | .rel _ => true
  | .relSent w => w != 0
  | .held _ _ => true
  | _ => false

/-- The effect of an atomic command (05 R126). -/
def atomicEffect (k : Nat) (w : Cmd) (s : State) : Except Nat (State × Nat) :=
  if opcode w = 0x24 then aswEffect k w s
  else if opcode w = 0x26 then alayEffect k w s
  else if opcode w = 0x27 then lfreeEffect k w s
  else drnEffect k w s

/-- An atomic command that waits runs during the halt, where every command it waits for has completed (05 R126). -/
def State.runAtomic (s : State) (k : Nat) (e : Entry) : State :=
  if isAtomic e.word && s.mayRun k e then
    match atomicEffect k e.word s with
    | .error st => s.completeEntry k .xq e.ticket st
    | .ok (t, _) => t.setQueue k .xq ((t.queue k .xq).setPhase e.ticket .done)
  else s

/-- A TWAIT or ACQ of the execute queue whose condition holds completes, its invalidation included (05 R126). -/
def State.endWait (s : State) (k : Nat) : State :=
  match (s.queue k .xq).metEntry, (s.queue k .xq).heldEntry with
  | some (e, d), _ => if opcode e.word = 0x91 then s.completeEntry k .xq e.ticket 0 else s.acqDone k .xq e d
  | none, some (e, _, d) =>
    if opcode e.word = 0x91 then
      (if s.tallyMet k (cf e.word 119 116) (cf e.word 63 0) then s.completeEntry k .xq e.ticket 0 else s)
    else s.acqTest k .xq e d
  | none, none => s

/-- The accepted commands have reached their outcome (05 R126, R127, 06 R164): `ps` says, in queue order, what each command that waits
had done when it was abandoned, nothing where it had not begun at the request; commands whose effect was
made are complete; atomic ones run where all they wait for has completed; the others stand in the queue again, unless the kernel
ends, and a command behind one of them that has completed is not counted before it (07 R184); and HALTED is set. -/
def State.haltDone (s : State) (k : Nat) (ps : List Partial) : State :=
  let sent := (s.queue k .xq).inflight.any (fun (e : Inflight) => e.phase == .relSent 0)
  if (s.slot k).halt ≠ .halting ∨ sent then s
  else
    let ws := s.waitingCmds k (fun _ => true)
    let begun := (s.slot k).begun
    let s := (ps.zip ws).foldl (fun (t : State) p => if begun.contains p.2.ticket then t.abandon k p.2.word p.1 else t) s
    let done := (s.queue k .xq).inflight.filterMap (fun (e : Inflight) => match e.phase with | .working _ => some e.entry.ticket | _ => none)
    let s := done.foldl (fun (t : State) n => t.complete k .xq n) s
    let s := ((ws.foldl (fun (t : State) e => t.runAtomic k e) s).flushNotes k true).endWait k
    let u := (s.queue k .xq).settled
    let back := u.inflight.filter (fun (e : Inflight) => e.phase.returns)
    let ending := (s.slot k).stopping
    let u := { u with
      onchip := if ending then u.onchip else back.map (fun (e : Inflight) => e.entry) ++ u.onchip
      inflight := u.inflight.filter (fun (e : Inflight) => !e.phase.returns) }
    (s.setQueue k .xq (if ending then u.settled else u)).modSlot k (fun c => { c with halt := .halted, tails0 := [], tails1 := [], tailBy := [], begun := [] })

/-! ## Vector register save (06 R166) -/

def vrSaveSize : Nat := 16384

/-- A write of VR_SAVE.SAVE or RESTORE. DESIGN CHOICE (log entry 39): where several checks fail the order is REGMODE, SR_BUSY, SHAPE,
PERM_FAULT, NOT_HALTED. -/
def State.startVrSave (s : State) (k : Nat) (save restore : Bool) : State :=
  let r := Reg.VR_SAVE k
  let a := s.fld r F.VR_SAVE_ADDR
  let st := firstFail
    [ (!s.isLead k, 0x89), (s.fld r F.VR_SAVE_STATE != 0, 0x87), ((save && restore) || a % 128 != 0, 0x82),
      (tsBeyond a vrSaveSize, 0x04), ((s.slot k).halt != .halted, 0x85) ]
  match st with
  | some st => s.setFld r F.VR_SAVE_STATUS st
  | none =>
    if save then (s.tsWrite k a (readBytes zeroByte (s.slot k).v 0 vrSaveSize)).setFld r F.VR_SAVE_STATE 1
    else (s.modSlot k (fun c => { c with v := writeBytes zeroByte [] 0 (s.tsRead k a vrSaveSize) })).setFld r F.VR_SAVE_STATE 2

/-- A register-file save or restore completes. -/
def State.vrSaveDone (s : State) (k : Nat) : State :=
  let r := Reg.VR_SAVE k
  if s.fld r F.VR_SAVE_STATE = 0 then s else (s.setFld r F.VR_SAVE_STATUS 0).setFld r F.VR_SAVE_STATE 0

end Sys2Proof.Machine
end

