-- ==== Sys2Proof/Machine/Power.lean ====
section
/-!
DEFINITION. Machine/Power.lean: certified pace and pace monitors (14 R371 to R376), Compass: standing grants, pool, demands,
requests, grants, shares, ramps, sags and heat (15 R394 to R403).
-/

namespace Sys2Proof.Machine

/-! ## Polders (01 R16) -/

/-- Is a polder present in the macro's options (00 R3, 01 R16)? -/
def State.present (s : State) (n : Nat) : Bool :=
  if n < 83 then true
  else if n = 83 then s.opts.hostCores == 8
  else if n < 94 then decide (2 * (n - 84) < s.opts.memPorts)
  else if n < 98 then decide (2 * (n - 94) < s.opts.linkPorts)
  else decide (n < 100)

/-- Every polder of the block. -/
def polders : List Nat := List.range 100

/-- The fleet that a slot works for: that of the logical core bound to it (01 R29). -/
def State.slotFleet (s : State) (n : Nat) : Option Nat :=
  if n < 72 then (s.coreOf n).bind s.fleetOf else none

/-! ## Certified pace (14 R371, R372) -/

/-- The certified rates in 0.01 G steps/s: VSET of the row, and the columns for class 85, 95 and 105. -/
def paceTable : List (Nat × List Nat) :=
  [(0, [105, 101, 97]), (8, [133, 128, 123]), (16, [162, 156, 150]), (24, [186, 180, 173]),
   (30, [208, 200, 192]), (40, [230, 221, 212]), (50, [250, 240, 230]), (60, [268, 258, 248])]

/-- The entry of the highest listed setpoint at or below `vset`, for a thermal class. -/
def certPace (vset cls : Nat) : Nat :=
  (paceTable.foldl (fun (a : List Nat) r => if r.1 ≤ vset then r.2 else a) []).getD cls 0

def State.vset (s : State) (n : Nat) : Nat := s.fld (Reg.PACE_P n) F.PACE_P_VSET
/-- The certified pace in 0.01 steps per ns. -/
def State.cert (s : State) (n : Nat) : Nat := s.fld (Reg.PACE_P n) F.PACE_P_CERT
/-- The junction limit of a class (14 R372). -/
def classLimit (cls : Nat) : Nat := 85 + 10 * cls

/-- A polder's setpoint and class, with the pace they certify. -/
def State.setPace (s : State) (n vset cls : Nat) : State :=
  let r := Reg.PACE_P n
  ((s.setFld r F.PACE_P_VSET vset).setFld r F.PACE_P_CLASS cls).setFld r F.PACE_P_CERT (certPace vset cls)

/-! ## Demands (15 R395, R396) -/

/-- Quanta for an engine set of `e` pJ per step at 0.75 V, at a setpoint and pace: e x (V / 0.75 V)^2 x CERT / 100, rounded up. -/
def quanta (e vset cert : Nat) : Nat := cdiv (e * (600 + 5 * vset) ^ 2 * cert) (750 ^ 2 * 10000)

/-- Energy per step of a set of engine classes: bit 0 array, 1 operand delivery and Tile Store, 2 vector engine, 3 control
core, fetch engine and message unit. -/
def setEnergy (classes : Nat) : Nat :=
  (if bit classes 0 then 703 else 0) + (if bit classes 1 then 485 else 0) + (if bit classes 2 then 313 else 0) +
    (if bit classes 3 then 133 else 0)

/-- What a polder needs for a set of engine classes; other polders than core slots have one class. -/
def State.need (s : State) (n classes : Nat) : Nat :=
  if n < 72 then (if (s.slotFleet n).isSome then quanta (setEnergy classes) (s.vset n) (s.cert n) else 0)
  else if classes = 0 ∨ !s.present n then 0
  else if n < 80 then 20 else if n < 82 then 70 else if n < 84 then 125 else if n < 94 then 28 else 0

/-- Full-activity demand (15 R395). -/
def State.demand (s : State) (n : Nat) : Nat := s.need n 15

/-- Floor: of a core slot in a fleet, its control-core class; of a host-complex polder, 30 (15 R395). -/
def State.floorFor (s : State) (n : Nat) : Nat :=
  if n < 72 then s.need n 8 else if (n = 82 ∨ n = 83) ∧ s.present n then 30 else 0

/-- Standing lane grants and those of P98 and P99; a port out of service holds none (15 R394, Idle). -/
def State.standingFor (s : State) (n : Nat) : Nat :=
  if !s.present n then 0
  else if 84 ≤ n ∧ n < 94 then 50 * (b01 (bit s.cfg.memIn (2 * (n - 84))) + b01 (bit s.cfg.memIn (2 * (n - 84) + 1)))
  else if 94 ≤ n ∧ n < 98 then 35 * (b01 (bit s.cfg.linkIn (2 * (n - 94))) + b01 (bit s.cfg.linkIn (2 * (n - 94) + 1)))
  else if n = 98 then 28 else if n = 99 then 50 else 0

def State.floor (s : State) (n : Nat) : Nat := s.fld (Reg.CP_P n) F.CP_P_FLOOR
def State.standing (s : State) (n : Nat) : Nat := s.fld (Reg.CP_P n) F.CP_P_STANDING
def State.granted (s : State) (n : Nat) : Nat := s.fld (Reg.CP_P n) F.CP_P_GRANT
def State.frozen (s : State) : Bool := s.flag Reg.CP_STAT F.CP_STAT_FROZEN

/-! ## The pool (15 R394, R398 to R401) -/

/-- Lane grants that ports out of service have released into the pool. -/
def State.releasedLanes (s : State) : Nat :=
  sum ((polders.filter (fun n => s.present n && decide (84 ≤ n) && decide (n < 98))).map (fun n =>
    (if n < 94 then 100 else 70) - s.standing n))
where
  /-- The sum of a list. -/
  sum (l : List Nat) : Nat := l.foldl (· + ·) 0

def State.pool (s : State) : Nat := s.fld Reg.CP_CFG F.CP_CFG_BUDGET + s.releasedLanes - 1558

/-- Quanta that polder `n` has drawn on reserves. -/
def State.drawnBy (s : State) (n : Nat) : Nat := (s.drawn.filter (fun d => d.2.1 == n)).foldl (fun a d => a + d.2.2) 0
/-- Quanta drawn on the reserve of passage entry `q`. -/
def State.drawnOn (s : State) (q : Nat) : Nat := (s.drawn.filter (fun d => d.1 == q)).foldl (fun a d => a + d.2.2) 0
/-- Reserves held for passages (15 R400). -/
def State.reserves (s : State) : Nat := s.passages.foldl (fun a x => a + x.2.power) 0

/-- Floors, reserves and arbitrated grants held from the pool (15 R412). -/
def State.poolHeld (s : State) : Nat :=
  polders.foldl (fun a n => a + s.floor n + s.granted n - s.drawnBy n) 0 + s.reserves

def State.poolRoom (s : State) : Nat := s.pool - s.poolHeld

/-- Quanta counted against a fleet's SHARE: the arbitrated grants of its core slots (15 R400). -/
def State.shareUsed (s : State) (f : Nat) : Nat :=
  ((List.range 72).filter (fun n => s.slotFleet n == some f)).foldl (fun a n => a + s.granted n) 0

/-- The most that a HOT polder's arbitrated grant may be: its floor and half its demand (15 R403). -/
def State.hotLimit (s : State) (n : Nat) : Nat := s.floor n + s.demand n / 2

def State.hotAllows (s : State) (n q : Nat) : Bool :=
  !s.flag (Reg.PACE_P n) F.PACE_P_HOT || decide (s.granted n + q ≤ s.hotLimit n)

def State.shareAllows (s : State) (n q : Nat) : Bool :=
  match s.slotFleet n with
  | some f => decide (s.shareUsed f + q ≤ s.fld (Reg.CP_FLEET f) F.CP_FLEET_SHARE)
  | none => true

/-- The total of all grants has risen; a rise counts against the ramp limit for 1 us (15 R401). -/
def State.rose (s : State) (rs : List (Nat × Nat)) : State :=
  { s with rises := s.rises.filter (fun x => decide (s.time < x.1 + 1000)) ++ rs.filter (fun x => x.2 != 0) }

/-- Does a rise keep the ramp limit over the last 1 us (15 R401)? -/
def State.rampAllows (s : State) (q : Nat) : Bool :=
  decide ((s.rises.filter (fun r => decide (s.time < r.1 + 1000))).foldl (fun a r => a + r.2) 0 + q ≤ s.fld Reg.CP_CFG F.CP_CFG_RAMP)

/-- The ramp limit; before an image has set it, its default (15 R401). -/
def State.ramp (s : State) : Nat := let r := s.fld Reg.CP_CFG F.CP_CFG_RAMP; if r = 0 then 400 else r

/-- A rise of `q` quanta from time `t` on: `room` at once, then at most `ramp` in every 1 us. -/
def rampSteps (ramp : Nat) : Nat → Nat → Nat → Nat → List (Nat × Nat)
  | 0, _, _, _ => []
  | f + 1, t, room, q => if q = 0 then [] else (t, min room q) :: rampSteps ramp f (t + 1000) ramp (q - min room q)

/-- Grants that wait for no request (a reserve at its admission, floors and standing grants) rise by `q` quanta in all: in steps that keep
the ramp limit, behind every rise given so far (15 R401, 14 R380). -/
def State.rampUp (s : State) (q : Nat) : State :=
  let t := s.rises.foldl (fun a r => max a r.1) s.time
  let near := (s.rises.filter (fun r => decide (t < r.1 + 1000))).foldl (fun a r => a + r.2) 0
  s.rose (rampSteps s.ramp 200 t (s.ramp - near) q)

/-- What is left of the reserve of passage entry `x`. -/
def State.reserveLeft (s : State) (x : Nat × Passage) : Nat := x.2.power - s.drawnOn x.1

/-- The passage on whose reserve a request may draw, and how much of it: one whose reserve holds all of it, else the one with the most
left (15 R398, R400). -/
def State.reserveFor (s : State) (r : GrantReq) : Option (Nat × Nat) :=
  let xs := s.passages.filter (fun x => (s.footprint x.2).contains r.polder)
  match xs.find? (fun x => decide (r.quanta ≤ s.reserveLeft x)) with
  | some x => some (x.1, r.quanta)
  | none => xs.foldl (fun o x =>
      if (match o with | some (_, m) => decide (m < s.reserveLeft x) | none => s.reserveLeft x != 0) then some (x.1, s.reserveLeft x)
      else o) none

/-- Draws of polder `n` follow a grant that became less. -/
def trimDraws (n : Nat) : Nat → List (Nat × Nat × Nat) → List (Nat × Nat × Nat)
  | _, [] => []
  | left, d :: ds =>
    if d.2.1 = n then
      let k := min left d.2.2
      if k = 0 then trimDraws n left ds else (d.1, n, k) :: trimDraws n (left - k) ds
    else d :: trimDraws n left ds

/-- A polder's arbitrated grant becomes at most `cap`. -/
def State.capGrant (s : State) (n cap : Nat) : State :=
  if s.granted n ≤ cap then s
  else { s.setFld (Reg.CP_P n) F.CP_P_GRANT cap with drawn := trimDraws n cap s.drawn }

/-- A governor asks for the increment its engine set needs, where its grant does not cover it and no request of its waits
(15 R398). Its engines start at the grant it holds; whether an event of theirs is delayed is a free value (R397). -/
def State.grantRequest (s : State) (n classes : Nat) : State :=
  let q := s.need n classes - (s.floor n + s.granted n)
  if q = 0 ∨ s.closed n ∨ s.grantQ.any (fun r => r.polder == n) then s
  else
    let d := s.draw
    let t := { d.2 with grantQ := d.2.grantQ ++ [⟨n, q⟩] }
    if bit d.1.toNat 0 then t.setFld (Reg.CP_P n) F.CP_P_THROTTLED 1 else t

/-- A request is granted: so much of it from a passage's reserve, which counted as a rise at its admission, and the rest from the
pool. -/
def State.giveGrant (s : State) (r : GrantReq) (reserve : Option (Nat × Nat)) : State :=
  let s := s.setFld (Reg.CP_P r.polder) F.CP_P_GRANT (s.granted r.polder + r.quanta)
  let s := { s with grantQ := s.grantQ.erase r }
  match reserve with
  | some (q, m) => { s with drawn := s.drawn ++ [(q, r.polder, m)] }.rose [(s.time, r.quanta - m)]
  | none => s.rose [(s.time, r.quanta)]

/-- Does a request fit a reserve whole? -/
def State.reserveFits (s : State) (r : GrantReq) : Bool := (s.reserveFor r).any (fun x => x.2 == r.quanta)

/-- Compass grants: a request that fits the reserve of a passage whose footprint holds its polder, or the head of its queue, which draws
on such a reserve first, where pool, share, ramp and heat allow (15 R398 to R403). -/
def State.grant (s : State) : State :=
  if s.frozen then s
  else
    let may := fun (r : GrantReq) => s.hotAllows r.polder r.quanta && s.shareAllows r.polder r.quanta
    match s.grantQ.find? (fun r => s.reserveFits r && may r) with
    | some r => s.giveGrant r (s.reserveFor r)
    | none =>
      match s.grantQ with
      | [] => s
      | r :: _ =>
        let rest := r.quanta - ((s.reserveFor r).map (fun x => x.2)).getD 0
        if rest ≤ s.poolRoom ∧ s.rampAllows rest ∧ may r then s.giveGrant r (s.reserveFor r)
        else s

/-- Engine classes that were idle for 4 us release their quanta; `classes` are those that stay active (15 R399). -/
def State.grantRelease (s : State) (n classes : Nat) : State := s.capGrant n (s.need n classes - s.floor n)

/-- Every arbitrated grant is withdrawn; those drawn on reserves stay where `keep` says so (15 R402, R403). -/
def State.withdrawAll (s : State) (keep : Bool) : State :=
  polders.foldl (fun (t : State) n => t.capGrant n (if keep then t.drawnBy n else 0)) s

/-- Arbitrated grants above a reduced pool are withdrawn, from the highest polder down (16 R424). -/
def State.fitPool (s : State) : State :=
  polders.reverse.foldl (fun (t : State) n =>
    let over_ := t.poolHeld - t.pool
    if over_ = 0 then t else t.capGrant n (t.granted n - min over_ (t.granted n - t.drawnBy n))) s

/-- Arbitrated grants of a fleet's core slots above its SHARE are withdrawn, from the highest slot down (15 R400). -/
def State.fitShares (s : State) : State :=
  (List.range 72).reverse.foldl (fun (t : State) n => match t.slotFleet n with
    | some f =>
      let over_ := t.shareUsed f - t.fld (Reg.CP_FLEET f) F.CP_FLEET_SHARE
      if over_ = 0 then t else t.capGrant n (t.granted n - over_)
    | none => t) s

/-- A polder loses floor, arbitrated grant and request (17 R448, R449). -/
def State.dropGrants (s : State) (n : Nat) : State :=
  let s := (s.capGrant n 0).setFld (Reg.CP_P n) F.CP_P_FLOOR 0
  { s with grantQ := s.grantQ.filter (fun r => r.polder != n) }

/-- A polder's floor and standing grant take the values the configuration gives; a rise keeps the ramp limit. A slot that works for no fleet
holds no grant and no request (R395); a HOT polder's arbitrated grant follows its limit (R403). -/
def State.setGrants (s : State) (n : Nat) : State :=
  let r := Reg.CP_P n
  let old := s.floor n + s.standing n
  let s := (s.setFld r F.CP_P_FLOOR (if s.closed n then 0 else s.floorFor n)).setFld r F.CP_P_STANDING (s.standingFor n)
  let s := s.rampUp (s.floor n + s.standing n - old)
  if n < 72 ∧ (s.slotFleet n).isNone then s.dropGrants n
  else if s.flag (Reg.PACE_P n) F.PACE_P_HOT then s.capGrant n (s.hotLimit n)
  else s

/-- Is an image still to be applied since reset: no polder has taken an epoch? -/
def State.bootNeeds (s : State) : Bool := s.rd (Reg.ZN_PEP 99) == 0

/-- CP_STAT (15 R412): the central reserve of 200 quanta is standing with the polders' own standing grants (R394). -/
def State.cpStat (s : State) : Word :=
  let own := if polders.all (fun n => s.standing n == 0) then 0 else 200
  let w := putF (s.rd Reg.CP_STAT) F.CP_STAT_QUEUED s.grantQ.length
  putF (putF w F.CP_STAT_STANDING (polders.foldl (fun a n => a + s.standing n) own)) F.CP_STAT_GRANTED s.poolHeld

/-- PACE_Pn (14 R393): setpoint, class and certified pace are the image's, and read 0 until one is applied (00 R7). -/
def State.paceReg (s : State) (n : Nat) : Word :=
  let w := s.rd (Reg.PACE_P n)
  if s.bootNeeds then putF (putF (putF w F.PACE_P_VSET 0) F.PACE_P_CLASS 0) F.PACE_P_CERT 0 else w

/-! ## Sags and heat (15 R402, R403) -/

/-- VIN below 1.71 V: granting freezes and arbitrated grants above floors and reserves are withdrawn (15 R402). -/
def State.vinWarn (s : State) (mv : Nat) : State :=
  let s := s.setFld Reg.IO_STAT F.IO_STAT_VIN_MV mv
  if 1710 ≤ mv then s
  else
    let s := s.setFld Reg.CP_STAT F.CP_STAT_VIN_WARN 1
    let s := (s.setFld Reg.CP_STAT F.CP_STAT_FROZEN 1).withdrawAll true
    (s.report ⟨0x25, 1, 99, 0, 0, 0xFF, 0, [s.cpStat]⟩).alert 8

/-- VIN at or above 1.74 V for 100 us: granting resumes (15 R402). -/
def State.vinRecover (s : State) (mv : Nat) : State :=
  let s := s.setFld Reg.IO_STAT F.IO_STAT_VIN_MV mv
  if mv < 1740 then s else s.setFld Reg.CP_STAT F.CP_STAT_FROZEN 0

/-- A polder's TJ has reached 125 degrees: THERM_TRIP_N goes low and every arbitrated grant is withdrawn (15 R403, 14 R391). -/
def State.thermTrip (s : State) (n : Nat) : State :=
  if s.fld (Reg.PACE_P n) F.PACE_P_TJ < 125 ∨ !s.present n then s
  else (((s.setFld Reg.CP_STAT F.CP_STAT_TRIP 1).withdrawAll false).riskAll 0).alert 8

/-! ## Pace monitors (14 R375, R376) -/

/-- What SAG or HOT of a polder brings about: held passages of its footprint are marked, a record and the alert. -/
def State.paceAlarm (s : State) (n code : Nat) : State :=
  (((s.riskPolder code n).report ⟨code, 1, n, 0, 0, 0xFF, 0, [s.paceReg n]⟩)).alert 7

/-- A pace in 0.01 G steps/s, rounded down, from the steps of a window: 1 024 ns of the timebase, or 256 ns in real-time mode (14 R375,
R390); at most what its field of 10 bits holds. -/
def State.paceOf (s : State) (steps : Nat) : Nat := min 1023 (100 * steps / (if s.rtMode then 256 else 1024))

/-- The wear ledger counts time by temperature: above 95 degrees twice (19 R496). -/
def State.wearTime (s : State) (n tj : Nat) : State :=
  { s with life := tput s.life n (tget 0 s.life n + (if s.rtMode then 256 else 1024) * (if 95 < tj then 2 else 1)) }

/-- A window of polder `n` ends with the steps counted and a temperature. -/
def State.paceWindow (s : State) (n steps tj : Nat) : State :=
  if !s.present n ∨ s.closed n then s
  else
    let s := s.wearTime n tj
    let r := Reg.PACE_P n
    let meas := s.paceOf steps
    let first := !s.windowed.contains n
    let low := if first then meas else min (s.fld r F.PACE_P_MIN) meas
    let s := ((s.setFld r F.PACE_P_MEAS meas).setFld r F.PACE_P_TJ tj).setFld r F.PACE_P_MIN low
    let s := if first then { s with windowed := s.windowed ++ [n] } else s
    let s := if meas < s.cert n then (s.setFld r F.PACE_P_SAG 1).paceAlarm n 0x20 else s
    if classLimit (s.fld r F.PACE_P_CLASS) < tj then
      let s := s.setFld r F.PACE_P_HOT 1
      (s.capGrant n (s.hotLimit n)).paceAlarm n 0x21
    else s

/-- A write of PACE_Pn: 1 to SAG clears it and sets MIN to MEAS; 1 to HOT clears it and lifts its limit (14 R376, R393). -/
def State.paceWrite (s : State) (n : Nat) (v : Word) : State :=
  let r := Reg.PACE_P n
  let s := if getF v F.PACE_P_SAG = 1 then (s.setFld r F.PACE_P_SAG 0).setFld r F.PACE_P_MIN (s.fld r F.PACE_P_MEAS) else s
  if getF v F.PACE_P_HOT = 1 then s.setFld r F.PACE_P_HOT 0 else s

end Sys2Proof.Machine
end

