-- ==== Sys2Proof/Machine/Logbook.lean ====
section
/-!
DEFINITION. Machine/Logbook.lean: the non-volatile store and its records, the Logbook ring and its batches, the berm save
(15 R404 to R410, 17 R456 to R458).
-/

namespace Sys2Proof.Machine

/-! ## The non-volatile store (15 R408, R409) -/

/-- Bytes of the store, which has 8 MiB. -/
def State.nvRead (s : State) (a n : Nat) : List Byte := readBytes zeroByte s.nv a n
def State.nvLE (s : State) (a n : Nat) : Nat := leNat (s.nvRead a n)
def State.nvPut (s : State) (a : Nat) (bs : List Byte) : State := { s with nv := writeBytes zeroByte s.nv a bs }

/-- The areas with two slots: offset, bytes of a slot, and the KIND of their records. -/
inductive NvArea where
  | repair | ledger | epoch | berm
  deriving DecidableEq, Repr

def NvArea.base : NvArea → Nat | .repair => 0 | .ledger => 0x10000 | .epoch => 0x30000 | .berm => 0x32000
def NvArea.size : NvArea → Nat | .repair => 0x8000 | .ledger => 0x10000 | .epoch => 0x1000 | .berm => 0x1000
def NvArea.kind : NvArea → Nat | .repair => 1 | .ledger => 2 | .epoch => 3 | .berm => 5

/-- The bytes of a record. -/
def nvRecord (kind seq : Nat) (body : List Byte) : List Byte :=
  let hd := natLE 2 kind ++ natLE 2 1 ++ natLE 4 body.length ++ natLE 8 seq ++ body
  hd ++ natLE 4 (crc32c hd) ++ natLE 4 0 ++ natLE 4 seq ++ natLE 4 0x4245524D

/-- The valid record at `a`, in `size` bytes: its SEQ and body. -/
def State.nvValid (s : State) (kind a size : Nat) : Option (Nat × List Byte) :=
  let len := s.nvLE (a + 4) 4
  let seq := s.nvLE (a + 8) 8
  if s.nvLE a 2 = kind ∧ s.nvLE (a + 2) 2 = 1 ∧ len + 32 ≤ size ∧ len % 8 = 0 ∧
      s.nvLE (a + 24 + len) 8 = 0x4245524D * 2 ^ 32 + seq % 2 ^ 32 ∧
      s.nvLE (a + 16 + len) 4 = crc32c (s.nvRead a (16 + len)) then
    some (seq, s.nvRead (a + 16) len)
  else none

/-- The newest valid record of a two-slot area: its slot, SEQ and body. -/
def State.nvNewest (s : State) (r : NvArea) : Option (Nat × Nat × List Byte) :=
  match s.nvValid r.kind r.base r.size, s.nvValid r.kind (r.base + r.size) r.size with
  | some a, some b => some (if a.1 < b.1 then (1, b) else (0, a))
  | some a, none => some (0, a)
  | none, some b => some (1, b)
  | none, none => none

/-- Where the area's next record goes, and its SEQ: into the slot that does not hold the newest one. -/
def State.nvNext (s : State) (r : NvArea) : Nat × Nat :=
  match s.nvNewest r with
  | some (i, q, _) => (r.base + (1 - i) * r.size, q + 1)
  | none => (r.base, 1)

/-- Write a record of a two-slot area. -/
def State.nvWrite (s : State) (r : NvArea) (body : List Byte) : State :=
  let p := s.nvNext r
  s.nvPut p.1 (nvRecord r.kind p.2 body)

/-- Batches fit at so many positions of the ring of 2 MiB. -/
def batchPlaces : Nat := 508
def batchBytes : Nat := 4128
/-- The position of batch number `seq`. -/
def batchPos (seq : Nat) : Nat := 0x34000 + (seq - 1) % batchPlaces * batchBytes

/-! ## Logbook records (17 R456, R457) -/

/-- The 64 bytes of a record. -/
def LogRec.bytes (r : LogRec) : List Byte :=
  let d := (r.rep.detail.take 4).flatMap (fun w => natLE 8 w.toNat)
  natLE 8 r.seq ++ natLE 8 r.time ++ natLE 2 r.rep.code ++ natLE 1 r.rep.sev ++ natLE 1 r.rep.src ++ natLE 1 r.rep.ukind ++
    natLE 1 r.rep.fleet ++ natLE 2 r.again ++ natLE 4 r.rep.unit ++ natLE 1 r.rep.status ++ natLE 3 0 ++ d ++
    List.replicate (32 - d.length) 0

/-- Records that wait to be persisted. -/
def State.unkept (s : State) : List LogRec := s.log.filter (fun r => r.kept == 0)

/-- Does an event match a record that it merges into? -/
def LogRec.merges (r : LogRec) (e : Report) (now : Nat) : Bool :=
  r.rep.code == e.code && r.rep.src == e.src && r.rep.unit == e.unit && r.rep.ukind == e.ukind && r.kept != 1 &&
  decide (now < r.time + 1000000)

/-- The codes of SEV 2 or 3 whose events another alert class counts: RUN_MISS, STREAM_MISS and STREAM_END (18 R478). -/
def otherClass (code : Nat) : Bool := code == 0x23 || code == 0x24 || code == 0x30

/-- An event enters the ring, or merges (17 R457); a record of SEV 2 or 3 that no other class counts raises RAS. While 1 024 records
wait it is never persisted, and counts as lost (15 R406). -/
def State.logEnter (s : State) (e : Report) : State :=
  match s.log.findIdx? (fun r => r.merges e s.time) with
  | some i => { s with log := s.log.modify i (fun r => { r with again := min 0xFFFF (r.again + 1) }) }
  | none =>
    let n := (s.rd Reg.LB_NEXT).toNat
    let r : LogRec := ⟨n, s.time, e, 0, if 1024 ≤ s.unkept.length then 2 else 0⟩
    let log := s.log ++ [r]
    let s := { s with log := log.drop (log.length - 65536), lostTail := if r.kept = 2 then s.lostTail + 1 else s.lostTail }
    let s := s.wr Reg.LB_NEXT (BitVec.ofNat 64 (n + 1))
    if 2 ≤ e.sev ∧ !otherClass e.code then s.alert 9 else s

/-- Report `i` reaches the keep polder. -/
def State.logbookRecord (s : State) (i : Nat) : State :=
  match s.reports[i]? with
  | none => s
  | some e => ({ s with reports := s.reports.eraseIdx i }).logEnter e

/-- Every report on its way enters. -/
def State.logAll (s : State) : State := s.reports.foldl (fun (t : State) e => t.logEnter e) { s with reports := [] }

/-- A batch of records, and the state that has given it the next number. -/
def State.takeBatch (s : State) : List LogRec × State :=
  let rs := s.unkept.take 64
  let last := (rs.map (fun r => r.seq)).foldl max s.keptSeq
  (rs, { s with
    batchSeq := s.batchSeq + 1
    keptSeq := last
    log := s.log.map (fun r => if rs.contains r then { r with kept := 1 } else r) })

def batchBody (rs : List LogRec) : List Byte := rs.flatMap LogRec.bytes

/-- A batch of up to 64 records is persisted: 16 are pending, or 1 ms has passed since the last batch (15 R406). -/
def State.logbookBatch (s : State) : State :=
  if s.unkept.isEmpty then s
  else
    let s := if 16 ≤ s.unkept.length then s else { s with time := max s.time (s.batchAt + 1000000) }
    let b := s.takeBatch
    let t := { b.2 with batchAt := b.2.time }
    t.nvPut (batchPos t.batchSeq) (nvRecord 4 t.batchSeq (batchBody b.1))

/-! ## The wear ledger (15 R408, 19 R496) -/

/-- The body of the ledger's record. -/
def State.ledgerBody (s : State) : List Byte := readBytes zeroByte s.ledger 0 32768
/-- The ledger takes in the wear since its last record. The spec lays out neither its bytes nor what wear adds: they are free values; the
times counted are kept beside them (19 R496). -/
def State.addWear (s : State) : State :=
  { s with
    lifeKept := s.life
    ledger := writeBytes zeroByte s.ledger 0 ((List.range 32768).map (fun i => Config.freeLedgerByte (s.nvNext .ledger).2 i)) }
def State.wearLedger (s : State) : State := let t := s.addWear; t.nvWrite .ledger t.ledgerBody

/-! ## Berm save (15 R404 to R410) -/

/-- The three stages in which a record is written. -/
def stages (a : Nat) (rec_ : List Byte) : List (Nat × List Byte) :=
  let n := rec_.length - 8
  [(a + n, List.replicate 8 0), (a, rec_.take n), (a + n, rec_.drop n)]

/-- Batches for every record that waits, up to 1 024: where each goes, and its bytes. -/
def State.bermBatches (s : State) : Nat → List (Nat × List Byte) → List (Nat × List Byte) × State
  | 0, rs => (rs, s)
  | n + 1, rs =>
    if s.unkept.isEmpty then (rs, s)
    else
      let b := s.takeBatch
      b.2.bermBatches n (rs ++ [(batchPos b.2.batchSeq, nvRecord 4 b.2.batchSeq (batchBody b.1))])

/-- The berm record's body (15 R410). -/
def State.bermBody (s : State) (cause : Nat) (warn running : Bool) : List Byte :=
  natLE 8 s.time ++ natLE 8 s.epoch ++ natLE 8 s.keptSeq ++ natLE 4 s.lostTail ++ natLE 1 cause ++
    natLE 1 (b01 warn + 2 * b01 running) ++ List.replicate 34 0

/-- Does the block take no command: its berm save is running or done (15 R405), or RESET_N is held low (19 R487)? -/
def State.stopped (s : State) : Bool := s.berm.isSome || s.bermed || s.inReset

/-- Every grant is withdrawn: arbitrated grants, floors and standing grants (15 R404). -/
def State.dropPower (s : State) : State :=
  polders.foldl (fun (t : State) n =>
    ((t.setFld (Reg.CP_P n) F.CP_P_GRANT 0).setFld (Reg.CP_P n) F.CP_P_FLOOR 0).setFld (Reg.CP_P n) F.CP_P_STANDING 0)
    { s with drawn := [], grantQ := [] }

/-- The berm save starts: every dike closes, grants are withdrawn, the host attach port stops, passages are marked, and what is to be
written, and read back, is fixed (15 R404); a second trigger is ignored. -/
def State.bermSave (s : State) (cause : Nat) : State :=
  if s.stopped then s
  else
    let running := s.passages.any (fun x => s.ptState x.1 == 2)
    let warn := s.flag Reg.CP_STAT F.CP_STAT_VIN_WARN
    let s := (s.dropPower.riskAll 0).setFld Reg.HA_STAT F.HA_STAT_STATE 0
    let s := s.logAll.addWear
    let b := s.bermBatches 16 []
    let p := b.2.nvNext .berm
    let q := b.2.nvNext .ledger
    let rs := (p.1, nvRecord 5 p.2 (b.2.bermBody cause warn running)) :: b.1 ++ [(q.1, nvRecord 2 q.2 b.2.ledgerBody)]
    { b.2 with berm := some ⟨rs.flatMap (fun r => stages r.1 r.2), rs, p.2⟩ }

/-- Does a record fail its read-back: is its commit word not in the store? -/
def State.failsBack (s : State) (r : Nat × List Byte) : Bool := s.nvRead (r.1 + (r.2.length - 8)) 8 != r.2.drop (r.2.length - 8)

/-- One write of the save. The spec lets a record fail its read-back (15 R404 step 7): whether a write takes is a free value. -/
def State.nvTry (s : State) (a : Nat) (bs : List Byte) : State :=
  let d := s.draw
  if d.1.getLsbD 0 then d.2.nvPut a bs else d.2

/-- One write of the save; after the last one each record is read back, one that fails is rewritten once, and BERM_DONE is set and the
block stays stopped. -/
def State.bermStep (s : State) : State :=
  match s.berm with
  | none => s
  | some b =>
    match b.writes with
    | [] =>
      (match b.check with
      | [] => { s with berm := none, bermed := true, bermDone := b.seq }
      | r :: rs => { s with berm := some ⟨if s.failsBack r then stages r.1 r.2 else [], rs, b.seq⟩ })
    | w :: ws => { s.nvTry w.1 w.2 with berm := some { b with writes := ws } }

/-- The save runs to its end. -/
def State.bermFinish (s : State) : State :=
  match s.berm with
  | none => s
  | some b =>
    let put := fun (t : State) (ws : List (Nat × List Byte)) => ws.foldl (fun (t : State) w => t.nvTry w.1 w.2) t
    { b.check.foldl (fun (t : State) r => if t.failsBack r then put t (stages r.1 r.2) else t) (put s b.writes) with
      berm := none, bermed := true, bermDone := b.seq }

/-- VKEEP falls below 1.30 V before BERM_DONE: writing stops (15 R407). -/
def State.vkeepLow (s : State) (mv : Nat) : State :=
  if mv < 1300 ∧ s.berm.isSome then
    { s.setFld Reg.IO_STAT F.IO_STAT_VKEEP_MV mv with berm := none, bermed := true }
  else if s.stopped then s
  else s.setFld Reg.IO_STAT F.IO_STAT_VKEEP_MV mv

/-- PWR_FAIL_N low, with VIN at `mv` in the same filter window. -/
def State.pwrFail (s : State) (mv : Nat) : State :=
  if s.stopped then s
  else
    let s := (s.setFld Reg.IO_STAT F.IO_STAT_PWR_FAIL 1).setFld Reg.IO_STAT F.IO_STAT_VIN_MV mv
    s.bermSave (1 + 2 * b01 (decide (mv < 1620)))

/-- VIN below 1.62 V, with PWR_FAIL_N low or not in the same filter window. -/
def State.vinLow (s : State) (mv : Nat) (pwr : Bool) : State :=
  if s.stopped ∨ 1620 ≤ mv then s
  else
    let s := (s.setFld Reg.IO_STAT F.IO_STAT_PWR_FAIL (b01 pwr)).setFld Reg.IO_STAT F.IO_STAT_VIN_MV mv
    s.bermSave (b01 pwr + 2)

end Sys2Proof.Machine
end

