-- ==== Sys2Proof/Machine/Reckoner.lean ====
section
/-!
DEFINITION. Machine/Reckoner.lean: the Reckoner: a passage's description, its admission, bound and release, and the deadline
of a run (14 R377 to R390, R393).
-/

namespace Sys2Proof.Machine

/-! ## The description (14 R378, R379) -/

/-- The 512 descriptor bytes of RK_DESC. -/
def State.descBytes (s : State) : List Byte := (List.range 64).flatMap (fun n => natLE 8 (s.rd (Reg.RK_DESC n)).toNat)

/-- `n` bytes of a description, little-endian. -/
def dsc (d : List Byte) (a n : Nat) : Nat := leNat ((d.drop a).take n)

/-- Numbers of the bits that are set among the first `n`. -/
def setBits (n w : Nat) : List Nat := (List.range n).filter (fun i => bit w i)

/-- A segment, by field. -/
structure Seg where
  scores : Nat
  steps : Nat
  tail : Nat
  landed : Nat
  reads : Nat
  writes : Nat
  rate : Nat
  nw : Nat
  hand : Nat
  last : Nat
  deriving DecidableEq, Repr

def segOf (d : List Byte) (j : Nat) : Seg :=
  let b := 32 + 32 * j
  ⟨dsc d b 8, dsc d (b + 8) 4, dsc d (b + 12) 4, dsc d (b + 16) 4, dsc d (b + 20) 4, dsc d (b + 24) 4, dsc d (b + 28) 1,
    dsc d (b + 29) 1, dsc d (b + 30) 1, dsc d (b + 31) 1⟩

def descNseg (d : List Byte) : Nat := dsc d 1 1
def descSegs (d : List Byte) : List Seg := (List.range (descNseg d)).map (fun j => segOf d (j + 1))

/-- Does a segment keep its field rules, in a description with these cores and reservations? -/
def Seg.ok (g : Seg) (cores rd wr : Nat) : Bool :=
  g.scores != 0 && (setBits 64 g.scores).all (fun i => bit cores i) && decide (g.rate ≤ 64) && decide (2 ≤ g.nw) &&
  decide (g.nw ≤ 7) && decide (g.hand ≤ 3) && g.last == 0 && (g.landed == 0 || g.rate != 0) && (g.reads == 0 || rd != 0) &&
  (g.writes == 0 || wr != 0)

/-- Does a description keep R378 and R379? -/
def descOk (d : List Byte) : Bool :=
  decide (dsc d 0 1 < 16) && decide (1 ≤ descNseg d) && decide (descNseg d ≤ 14) && dsc d 2 2 == 0 && dsc d 4 4 != 0 &&
  dsc d 8 8 != 0 && decide (dsc d 16 4 < 2 ^ 20) && decide (dsc d 20 2 ≤ 240) && decide (dsc d 22 2 ≤ 100) &&
  dsc d 28 36 == 0 && (descSegs d).all (fun g => g.ok (dsc d 8 8) (dsc d 20 2) (dsc d 22 2))

/-- The passage that a description names. -/
def passageOf (d : List Byte) : Passage :=
  let cores := setBits 64 (dsc d 8 8)
  { cores := cores
    ports := setBits 20 (dsc d 16 4)
    rdRes := dsc d 20 2
    wrRes := dsc d 22 2
    power := dsc d 24 4
    deadline := dsc d 4 4
    rates := cores.map (fun c => (c, ((descSegs d).filter (fun g => bit g.scores c)).foldl (fun a g => max a g.rate) 0))
    paces := []
    running := []
    missed := false
    aborted := false }

/-! ## The bound (14 R382, R383) -/

/-- L_MEM and T_HAND, in ns. -/
def lMem : Nat := 920
def tHand : Nat := 40

/-- The bound of a segment in ns, with `c` the least certified pace in 0.01 steps per ns. -/
def Seg.bound (g : Seg) (c rd wr : Nat) : Nat :=
  let f : Rat := (c : Rat) / 100
  let tc := (g.steps : Rat) / f
  let tl := if g.landed = 0 then 0 else (g.landed : Rat) / (f * min (4 * g.rate : Rat) (128 / (g.nw : Rat)))
  let tr := if g.reads = 0 then 0 else (g.reads : Rat) / rd
  let tw := if g.writes = 0 then 0 else (g.writes : Rat) / wr
  let l : Rat := if g.landed + g.reads + g.writes = 0 then 0 else lMem
  (l + max (max tc tl) (max tr tw) + (g.tail : Rat) / f + (tHand * g.hand : Nat)).ceil.toNat

/-- The least certified pace among the slots of cores. -/
def State.leastCert (s : State) (cores : List Nat) : Nat :=
  (cores.filterMap s.slotOf).foldl (fun a k => min a (s.cert k)) 1000

/-- The running sums of the segment bounds. -/
def State.boundSums (s : State) (d : List Byte) : List Nat :=
  ((descSegs d).foldl (fun (a : Nat × List Nat) g =>
    let t := a.1 + g.bound (s.leastCert (setBits 64 g.scores)) (dsc d 20 2) (dsc d 22 2)
    (t, a.2 ++ [t])) (0, [])).2

/-! ## Admission (14 R380, R381) -/

/-- Reservations of the held passages on a memory port. -/
def State.portReserved (s : State) (p : Nat) (f : Passage → Nat) : Nat :=
  (s.passages.filter (fun x => x.2.ports.contains p)).foldl (fun a x => a + f x.2) 0

/-- 400 x the bounded rate of a passage's cores in a sector, in bytes per ns. -/
def State.sectorRate (s : State) (sec : Nat) (p : Passage) : Nat :=
  (p.rates.filter (fun r => r.1 / 8 == sec)).foldl (fun a r =>
    a + 4 * r.2 * (match s.slotOf r.1 with | some k => s.cert k | none => 0)) 0

/-- Is a polder a quarantined spine half whose other half is open (14 R380, R385)? -/
def State.halfLost (s : State) (n : Nat) : Bool := (n == 80 || n == 81) && s.closed n && !s.closed (161 - n)

/-- Is a footprint polder unfit: setpoint below 0.68 V, SAG, HOT, quarantined or absent (check 5)? A quarantined spine half, which has no
setpoint, is excepted while the other half is open. -/
def State.unfit (s : State) (n : Nat) : Bool :=
  !s.present n || s.flag (Reg.PACE_P n) F.PACE_P_SAG || s.flag (Reg.PACE_P n) F.PACE_P_HOT ||
  (!s.halfLost n && (decide (s.vset n < 16) || s.closed n))

/-- The checks of R380 after SHAPE, in order: REASON of the first that fails, with SEG. -/
def State.admitCheck (s : State) (d : List Byte) : Option (Nat × Nat) :=
  let p := passageOf d
  let fl := dsc d 0 1
  let held := s.passages.map (fun x => x.2)
  if p.cores.any (fun c => (s.slotOf c).isNone || s.fleetOf c != some fl) then some (1, 0)
  else if p.cores.any (fun c => held.any (fun h => h.cores.contains c)) then some (2, 0)
  else if 32 ≤ s.passages.length then some (3, 0)
  else if (s.footprint p).any s.unfit then some (8, 0)
  else if p.ports.any (fun m => s.mpState m != 2 || decide (240 < s.portReserved m (fun x => x.rdRes) + p.rdRes) ||
      decide (100 < s.portReserved m (fun x => x.wrRes) + p.wrRes)) then some (4, 0)
  else if (List.range 8).any (fun sec => p.cores.any (fun c => c / 8 == sec) &&
      decide (102400 < (p :: held).foldl (fun a x => a + s.sectorRate sec x) 0)) then some (5, 0)
  else if s.poolRoom < p.power ∨ (s.frozen ∧ p.power ≠ 0) then some (6, 0)
  else
    match (s.boundSums d).findIdx? (fun t => decide (p.deadline < t)) with
    | some j => some (7, j + 1)
    | none => none

/-- RK_RESULT of a command. -/
def State.rkResult (s : State) (status reason seg : Nat) : State :=
  let r := Reg.RK_RESULT
  ((s.setFld r F.RK_RESULT_STATUS status).setFld r F.RK_RESULT_REASON reason).setFld r F.RK_RESULT_SEG seg

/-- The next identity: upward from 1, skipping 0 and those held (14 R380). -/
def State.freshPid (s : State) : Nat → Nat → Nat
  | 0, n => n
  | k + 1, n => if n % 2 ^ 32 = 0 ∨ (s.pidAt (n % 2 ^ 32)).isSome then s.freshPid k (n + 1) else n % 2 ^ 32

/-- A command of the Reckoner: while it is busy the command is lost; else it is done, and BUSY stays for a free time within 40 us
(14 R380). -/
def State.rkCommand (s : State) (f : State → State) : State :=
  if s.time < s.rkDue then s.setFld Reg.RK_STAT F.RK_STAT_CMD_LOST 1
  else
    let d := s.draw
    f { d.2 with rkDue := s.time + d.1.toNat % 40001 }

/-- RK_CMD ADMIT (14 R380). The standing grants of its POWER are given in steps of the ramp limit. -/
def State.admitPassage (s : State) : State :=
  let d := s.descBytes
  if !descOk d then s.rkResult 0x82 0 0
  else
    match s.admitCheck d with
    | some (reason, seg) => s.rkResult 0x09 reason seg
    | none =>
      match (List.range 32).find? (fun q => (tfind s.passages q).isNone) with
      | none => s.rkResult 0x09 3 0
      | some q =>
        let pid := s.freshPid 40 s.nextPid
        let p := passageOf d
        let p := { p with paces := (s.footprint p).map (fun n => (n, s.vset n, s.fld (Reg.PACE_P n) F.PACE_P_CLASS)) }
        let bound := (s.boundSums d).getLastD 0
        let s := { s with passages := tput s.passages q p, nextPid := pid + 1 }.rampUp p.power
        let s := s.wr (Reg.PT_ID q) (BitVec.ofNat 64 (2 ^ 62 + dsc d 0 1 * 2 ^ 56 + pid))
        let s := (s.wr (Reg.PT_TIME q) (BitVec.ofNat 64 (bound * 2 ^ 32))).wr (Reg.PT_START q) 0
        ((s.rkResult 0 0 0).setFld Reg.RK_RESULT F.RK_RESULT_PID pid).startRuns

/-! ## Release and deadlines (14 R388, R389) -/

/-- A passage leaves with its reservations and standing grants; what its polders had drawn goes back with the reserve. -/
def State.releasePassage (s : State) (q : Nat) : State :=
  let back := s.drawn.filter (fun d => d.1 == q)
  let s := back.foldl (fun (t : State) d => t.setFld (Reg.CP_P d.2.1) F.CP_P_GRANT (t.granted d.2.1 - d.2.2)) s
  ({ s with drawn := s.drawn.filter (fun d => d.1 != q) }).freePassage q

/-- RK_CMD RELEASE (14 R389). -/
def State.release (s : State) (pid : Nat) : State :=
  match s.pidAt pid with
  | some q => if s.ptState q = 1 then (s.releasePassage q).rkResult 0 0 0 else s.rkResult 0x09 0 0
  | none => s.rkResult 0x09 0 0

/-- The leases of a passage are revoked: it is released at once, and its run ends QUARANTINED (14 R389). -/
def State.revokePassage (s : State) (q : Nat) : State :=
  let s := if s.ptState q = 2 then s.setFld (Reg.PT_ID q) F.PT_ID_LAST 0x0E else s
  s.releasePassage q

/-- T0 + DEADLINE of entry `q` falls: a run that has not ended has missed (14 R388). -/
def State.runDeadline (s : State) (q : Nat) : State :=
  match tfind s.passages q with
  | none => s
  | some p =>
    if s.ptState q ≠ 2 ∨ p.missed then s
    else
      let s := { s with
        time := max s.time ((s.rd (Reg.PT_START q)).toNat + p.deadline)
        passages := tput s.passages q { p with missed := true } }
      let s := s.errCount Reg.RK_STAT F.RK_STAT_MISSES Reg.RK_STAT F.RK_STAT_MISS_SAT 0 99
      (s.report ⟨0x23, 2, 99, 7, s.ptPid q, s.fld (Reg.PT_ID q) F.PT_ID_FLEET, 0x05,
        [s.rd (Reg.PT_ID q), s.rd (Reg.PT_TIME q), s.rd (Reg.PT_START q)]⟩).alert 10

/-- A write of RK_CTL.RT (14 R390). -/
def State.rtWrite (s : State) (on : Bool) : State := (s.setFld Reg.RK_CTL F.RK_CTL_RT (b01 on)).settleRt

end Sys2Proof.Machine
end

