-- ==== Sys2Proof/Machine/Sha.lean ====
section
/-!
DEFINITION. Machine/Sha.lean: SHA-384 (FIPS 180-4) and ECDSA verification on P-384 (FIPS 186-5), as 16 R418 names them.
-/

namespace Sys2Proof.Machine

/-! ## SHA-384 -/

/-- The largest `r` with `r ^ n ≤ v`, its low `k` bits found from the top, `r` being found so far. -/
def rootBits (n v : Nat) : Nat → Nat → Nat
  | 0, r => r
  | k + 1, r => rootBits n v k (if (r + 2 ^ k) ^ n ≤ v then r + 2 ^ k else r)

/-- The first 64 bits of the fractional part of the `n`-th root of a number below 512. -/
def rootWord (n p : Nat) : Word := BitVec.ofNat 64 (rootBits n (p * 2 ^ (64 * n)) 69 0)

/-- The first 80 primes. -/
def shaPrimes : List Nat := (List.range' 2 408).filter (fun p => (List.range' 2 19).all (fun d => p == d || p % d != 0))

/-- The round constants: from the cube roots of the first 80 primes. -/
def shaK : List Word := shaPrimes.map (rootWord 3)

/-- The initial hash value of SHA-384: from the square roots of the ninth to the sixteenth prime. -/
def shaInit : List Word := ((shaPrimes.drop 8).take 8).map (rootWord 2)

/-- A big-endian number. -/
def beNat (bs : List Byte) : Nat := bs.foldl (fun a b => a * 256 + b.toNat) 0
/-- The big-endian bytes of a number. -/
def natBE (n w : Nat) : List Byte := (natLE n w).reverse

/-- A word turned right by each of several amounts, the results added without carry to `x`. -/
def turned (ns : List Nat) (w x : Word) : Word := ns.foldl (fun a n => a ^^^ w.rotateRight n) x

/-- The working variables of the hash. -/
structure ShaVars where
  a : Word
  b : Word
  c : Word
  d : Word
  e : Word
  f : Word
  g : Word
  h : Word
  deriving DecidableEq, Repr

/-- One round with constant `k` and schedule word `m`. -/
def ShaVars.round (v : ShaVars) (k m : Word) : ShaVars :=
  let choice := v.g ^^^ (v.e &&& (v.f ^^^ v.g))
  let most := (v.a &&& (v.b ||| v.c)) ||| (v.b &&& v.c)
  let mixed := turned [14, 18, 41] v.e 0 + choice + v.h + m + k
  ⟨mixed + turned [28, 34, 39] v.a 0 + most, v.a, v.b, v.c, v.d + mixed, v.e, v.f, v.g⟩

/-- The schedule from its last 16 words, the oldest first: each word as its round comes. -/
def shaSchedule : Nat → List Word → List Word
  | 0, _ => []
  | n + 1, w =>
    let at_ := fun i => w.getD i 0
    let new := at_ 0 + turned [1, 8] (at_ 1) (at_ 1 >>> 7) + at_ 9 + turned [19, 61] (at_ 14) (at_ 14 >>> 6)
    at_ 0 :: shaSchedule n (w.drop 1 ++ [new])

/-- One block of 128 bytes. -/
def shaBlock (o : ShaVars) (b : List Byte) : ShaVars :=
  let first := (List.range 16).map (fun i => BitVec.ofNat 64 (beNat ((b.drop (8 * i)).take 8)))
  let v := (shaK.zip (shaSchedule 80 first)).foldl (fun (v : ShaVars) p => v.round p.1 p.2) o
  ⟨o.a + v.a, o.b + v.b, o.c + v.c, o.d + v.d, o.e + v.e, o.f + v.f, o.g + v.g, o.h + v.h⟩

/-- The blocks of a padded message. -/
def shaBlocks : Nat → ShaVars → List Byte → ShaVars
  | 0, h, _ => h
  | n + 1, h, bs => shaBlocks n (shaBlock h (bs.take 128)) (bs.drop 128)

/-- The digest: 48 bytes. -/
def sha384 (m : List Byte) : List Byte :=
  let z := (128 - (m.length + 17) % 128) % 128
  let p := m ++ [0x80] ++ List.replicate z 0 ++ natBE 16 (8 * m.length)
  let i := fun n => shaInit.getD n 0
  let v := shaBlocks (p.length / 128) ⟨i 0, i 1, i 2, i 3, i 4, i 5, i 6, i 7⟩ p
  [v.a, v.b, v.c, v.d, v.e, v.f].flatMap (fun w => natBE 8 w.toNat)

/-! ## P-384 -/

def ecP : Nat := 2 ^ 384 - 2 ^ 128 - 2 ^ 96 + 2 ^ 32 - 1
def ecN : Nat := 0xffffffffffffffffffffffffffffffffffffffffffffffffc7634d81f4372ddf581a0db248b0a77aecec196accc52973
def ecB : Nat := 0xb3312fa7e23ee7e4988e056be3f82d19181d9c6efe8141120314088f5013875ac656398d8a2ed19d2a85c8edd3ec2aef
def ecGx : Nat := 0xaa87ca22be8b05378eb1c71ef320ad746e1d3b628ba79b9859f741e082542a385502f25dbf55296c3a545e3872760ab7
def ecGy : Nat := 0x3617de4a96262c6f5d9e98bf9292dc29f8f41dbd289a147ce9da3113b5f0b8c00a60b1ce1d7e819d7a431d7c90ea0e5f

/-- `b ^ e mod m`, over `n` bits of `e`. -/
def powMod (m : Nat) : Nat → Nat → Nat → Nat
  | 0, _, _ => 1
  | n + 1, b, e => let r := powMod m n (b * b % m) (e / 2); if e % 2 = 1 then b * r % m else r

/-- The inverse modulo a prime. -/
def invMod (m a : Nat) : Nat := powMod m 384 (a % m) (m - 2)
def subMod (a b : Nat) : Nat := (a + ecP - b % ecP) % ecP

/-- A point in Jacobian coordinates: (x / z^2, y / z^3); with z = 0 the point at infinity. -/
structure EcPt where
  x : Nat
  y : Nat
  z : Nat
  deriving DecidableEq, Repr

/-- Twice a point. -/
def ecDbl (p : EcPt) : EcPt :=
  let d := p.z * p.z % ecP
  let g := p.y * p.y % ecP
  let b := p.x * g % ecP
  let a := 3 * subMod p.x d * (p.x + d) % ecP
  let x := subMod (a * a) (8 * b)
  ⟨x, subMod (a * subMod (4 * b) x) (8 * (g * g % ecP)), 2 * p.y * p.z % ecP⟩

/-- The sum of two points. -/
def ecAdd (p q : EcPt) : EcPt :=
  if p.z = 0 then q
  else if q.z = 0 then p
  else
    let zz := p.z * p.z % ecP
    let ww := q.z * q.z % ecP
    let u := p.x * ww % ecP
    let s := p.y * q.z * ww % ecP
    let h := subMod (q.x * zz) u
    let r := subMod (q.y * p.z * zz) s
    if h = 0 then (if r = 0 then ecDbl p else ⟨1, 1, 0⟩)
    else
      let hh := h * h % ecP
      let v := u * hh % ecP
      let c := hh * h % ecP
      let x := subMod (r * r) (c + 2 * v)
      ⟨x, subMod (r * subMod v x) (s * c), h * p.z * q.z % ecP⟩

/-- `k` times a point, over `n` bits of `k`. -/
def ecMul : Nat → Nat → EcPt → EcPt
  | 0, _, _ => ⟨1, 1, 0⟩
  | n + 1, k, p => let r := ecMul n (k / 2) (ecDbl p); if k % 2 = 1 then ecAdd p r else r

/-- Is a point on the curve, its coordinates reduced? -/
def ecOn (x y : Nat) : Bool :=
  decide (x < ecP) && decide (y < ecP) && y * y % ecP == (x * x % ecP * x + (ecP - 3) * x + ecB) % ecP

/-- Does a signature verify under the key (x, y) for a digest? -/
def ecdsaOk (digest : List Byte) (x y r s : Nat) : Bool :=
  if !ecOn x y || r == 0 || s == 0 || decide (ecN ≤ r) || decide (ecN ≤ s) then false
  else
    let w := invMod ecN s
    let v := ecAdd (ecMul 384 (beNat digest * w % ecN) ⟨ecGx, ecGy, 1⟩) (ecMul 384 (r * w % ecN) ⟨x, y, 1⟩)
    let i := invMod ecP v.z
    v.z != 0 && v.x * (i * i % ecP) % ecP % ecN == r

end Sys2Proof.Machine
end

