-- ==== Sys2Proof/Machine/Zenen.lean ====
section
/-!
DEFINITION. Machine/Zenen.lean: the configuration image, its checks, and live change by sluices (16 R413 to R431, 17 R442).
-/

namespace Sys2Proof.Machine

/-! ## The image (16 R413 to R416) -/

/-- `n` bytes of an image at `a`, little-endian. -/
def im (b : List Byte) (a n : Nat) : Nat := leNat ((b.drop a).take n)
def imLen (b : List Byte) : Nat := im b 8 4
def imNsec (b : List Byte) : Nat := im b 12 2
def imSvn (b : List Byte) : Nat := im b 14 2
def imDelta (b : List Byte) : Bool := bit (im b 6 2) 0
def imRaise (b : List Byte) : Bool := bit (im b 6 2) 1

/-- An entry of the section table: ID, body offset and length. -/
def imSec (b : List Byte) (i : Nat) : Nat × Nat × Nat := (im b (128 + 16 * i) 1, im b (132 + 16 * i) 4, im b (136 + 16 * i) 4)
def imSecs (b : List Byte) : List (Nat × Nat × Nat) := (List.range (imNsec b)).map (imSec b)
/-- The body of a section, where the image has it. -/
def imBody (b : List Byte) (id : Nat) : Option (List Byte) :=
  ((imSecs b).find? (fun e => e.1 == id)).map (fun e => (b.drop e.2.1).take e.2.2)

/-- Does the header keep R414, for an image or a pilot (18 R474) with its MAGIC? -/
def hdrOk (magic : Nat) (b : List Byte) : Bool :=
  im b 0 4 == magic && im b 4 2 == 1 && decide (im b 6 2 < 4) && imLen b == b.length && imLen b % 8 == 0 &&
  decide (1024 ≤ imLen b) && decide (1 ≤ imNsec b) && decide (imNsec b ≤ 14) && (imDelta b || im b 16 8 == 0) &&
  decide (im b 24 4 < 32) && im b 28 4 == 0 && ((b.drop 64).take 64).all (fun x => x == 0)

/-- Do the section table and the bodies keep R415? -/
def tableOk (b : List Byte) : Bool :=
  let es := imSecs b
  let n := imNsec b
  (List.range n).all (fun i =>
    let e := imSec b i
    im b (129 + 16 * i) 1 == 1 && im b (130 + 16 * i) 2 == 0 && e.2.1 % 8 == 0 && decide (128 + 16 * n ≤ e.2.1) &&
    decide (e.2.1 + e.2.2 ≤ imLen b - 256) && im b (140 + 16 * i) 4 == crc32c ((b.drop e.2.1).take e.2.2) &&
    (List.range i).all (fun j =>
      let f := es.getD j (0, 0, 0)
      f.1 != e.1 && !overlaps e.2.1 e.2.2 f.2.1 f.2.2))

/-- The signer's key and the signature (16 R418). -/
def imSig (b : List Byte) : List Byte := b.drop (imLen b - 256)

/-- The digest that key slot `k` holds (18 R484, R485). -/
def State.keyDigest (s : State) (k : Nat) : List Byte := (List.range 6).flatMap (fun j => natLE 8 (s.rd (Reg.OTP_KEY k j)).toNat)

/-- The unrevoked slot that matches the signer's key. -/
def State.keySlot (s : State) (b : List Byte) : Option Nat :=
  let d := sha384 ((imSig b).take 96)
  (List.range 4).find? (fun k => bit (s.fld Reg.OTP_STAT F.OTP_STAT_PROGRAMMED) k &&
    !bit (s.fld Reg.OTP_STAT F.OTP_STAT_REVOKED) k && s.keyDigest k == d)

/-- Does the signature verify? -/
def sigOk (b : List Byte) : Bool :=
  let g := imSig b
  let n := fun (a : Nat) => beNat ((g.drop a).take 48)
  (g.drop 192).all (fun x => x == 0) && ecdsaOk (sha384 (b.take (imLen b - 256))) (n 0) (n 48) (n 96) (n 144)

/-- SVN_MIN. -/
def State.svnMin (s : State) : Nat := s.fld Reg.ZN_COMPAT F.ZN_COMPAT_SVN_MIN

/-- Checks 1 to 5 of R420, for an image or a pilot: STATUS and REASON of the first that fails; `limit` is the largest LEN. -/
def State.authCheck (s : State) (magic limit : Nat) (src : Option (List Byte)) : Option (Nat × Nat) :=
  match src with
  | none => some (0x04, 0)
  | some b =>
    if !hdrOk magic b || decide (limit < imLen b) || !tableOk b then some (0x82, 0)
    else if (s.keySlot b).isNone then some (0x09, 1)
    else if !sigOk b then some (0x09, 2)
    else if imSvn b < s.svnMin then some (0x09, 3)
    else none

def zenMagic : Nat := 0x5A4E4E45
def pilotMagic : Nat := 0x5A4E5046

/-! ## Sections (16 R416, 17 R442) -/

/-- The body in force. -/
def State.inForce (s : State) (id : Nat) : List Byte := tget [] s.zen.force id

/-- VSET and CLASS of a polder, fleet of a core, cache part and owner of a sector, by section bodies. -/
def bVset (b : List Byte) (n : Nat) : Nat := im b (2 * n) 1
def bClass (b : List Byte) (n : Nat) : Nat := im b (2 * n + 1) 1
def bFleet (b : List Byte) (id : Nat) : Nat := im b id 1
def bCache (b : List Byte) (sec : Nat) : Nat := im b (64 + 2 * sec) 2 % 32
def bOwner (b : List Byte) (sec : Nat) : Nat := im b (64 + 2 * sec) 2 / 256 % 16
def bHalf (b : List Byte) (a c : Nat) : Nat := b01 (bit (im b (pairBit a c / 8) 1) (pairBit a c % 8))

/-- Records of RANKS: fleet, own rank, nodes. -/
def rankRecords : Nat → List Byte → List (Nat × Nat × List Nat)
  | 0, _ => []
  | n + 1, b =>
    if b.length < 8 then []
    else
      let nr := im b 2 2
      let len := cdiv (8 + 2 * nr) 8 * 8
      (im b 0 1, im b 4 2, (List.range nr).map (fun i => im b (8 + 2 * i) 2)) :: rankRecords n (b.drop len)

/-- Are the bytes that the layout of RANKS gives as 0, padding included, 0 in every record? -/
def rankZeros : Nat → List Byte → Bool
  | 0, _ => true
  | n + 1, b =>
    if b.length < 8 then true
    else
      let used := 8 + 2 * im b 2 2
      let len := cdiv used 8 * 8
      im b 1 1 == 0 && im b 6 2 == 0 && ((b.take len).drop used).all (· == 0) && rankZeros n (b.drop len)

/-- SERVICE's fields; the defaults stand where the section is absent (17 R442). -/
def serviceDefault : List Byte := natLE 2 24 ++ natLE 2 4096 ++ [4, 0, 64, 7] ++ List.replicate 8 0
def State.service (s : State) : List Byte := (tfind s.zen.force 0x0E).getD serviceDefault
def State.periodH (s : State) : Nat := im s.service 0 2
def State.dirtyLimit (s : State) : Nat := im s.service 2 2
def State.passLimit (s : State) : Nat := im s.service 4 1
def State.spareVset (s : State) : Nat := im s.service 5 1
def State.ceLimit (s : State) : Nat := im s.service 6 1
def State.svcCaches (s : State) : Bool := bit (im s.service 7 1) 0
def State.autoRelief (s : State) : Bool := bit (im s.service 7 1) 1
def State.autoRebind (s : State) : Bool := bit (im s.service 7 1) 2

/-- Is every bit of SPINE that names no pair 0? -/
def spineBits (b : List Byte) : Bool :=
  (List.range 640).all (fun i => !bit (im b (i / 8) 1) (i % 8) || (decide (i / 25 < i % 25) && decide (i / 25 < 25)))

/-! ## Checks 6 to 9 of R420 -/

/-- The option bits of the macro (16 R414, 18 R485). -/
def State.optionBits (s : State) : Nat :=
  (if s.opts.memPorts = 20 then 2 else if s.opts.memPorts = 16 then 1 else 0) + 4 * b01 (s.opts.linkPorts == 8) +
    8 * b01 (s.opts.hostCores == 8) + 16 * b01 s.opts.lanes64

/-- Check 8: a Reset-class part of a delta differs from the one in force (R416, R417, R424). -/
def State.resetOnly (s : State) (b : List Byte) : Bool :=
  let differs := fun (id : Nat) (f : List Byte → List Nat) => match imBody b id with
    | some x => f x != f (s.inForce id)
    | none => false
  differs 1 (fun x => x.map (fun y => y.toNat)) || differs 6 (fun x => x.map (fun y => y.toNat)) ||
  differs 2 (fun x => [82, 83, 98, 99].map (fun n => im x (2 * n) 2)) || differs 0x0B (fun x => [im x 0 2]) ||
  (match imBody b 7 with
    | some x => (List.range 20).any (fun p => bit (im x 0 4) p && !bit s.cfg.memIn p)
    | none => false)

/-- The body that a section will have: the image's, or the one in force. -/
def State.willBe (s : State) (b : List Byte) (id : Nat) : List Byte := (imBody b id).getD (s.inForce id)

/-- Will the slot of polder `n` hold a core of a fleet? -/
def State.willServe (s : State) (b : List Byte) (n : Nat) : Bool :=
  match s.coreOf n with
  | some id => bFleet (s.willBe b 3) id != 0xFF
  | none => false

/-- May polder `n` have a setpoint below 0.68 V under the image (14 R373)? -/
def State.mayBeLow (s : State) (b : List Byte) (n : Nat) : Bool :=
  decide (n < 72) && !s.willServe b n && !s.passages.any (fun x => (x.2.cores.filterMap s.slotOf).contains n)

/-- The floors that the image's setpoints and fleets ask for (15 R395). -/
def State.willFloors (s : State) (b : List Byte) : Nat :=
  let p := s.willBe b 2
  (List.range 84).foldl (fun a n =>
    if n < 72 then (if s.willServe b n then a + quanta 133 (bVset p n) (certPace (bVset p n) (bClass p n)) else a)
    else if 82 ≤ n ∧ s.present n then a + 30 else a) 0

/-- Is a section's body well-formed and within its ranges (R416, R442)? -/
def State.sectionOk (s : State) (id : Nat) (x : List Byte) : Bool :=
  let o := s.opts
  match id with
  | 1 => x.length == 8 && decide (im x 0 8 < 2)
  | 2 => x.length == 200 && polders.all (fun n =>
      if s.present n then decide (bVset x n ≤ 60) && decide (bClass x n ≤ 2) else im x (2 * n) 2 == 0)
  | 3 => x.length == 80 && (List.range 64).all (fun i => decide (bFleet x i < 16) || bFleet x i == 0xFF) &&
      (List.range 8).all (fun i => decide (bCache x i ≤ 16) && im x (64 + 2 * i) 2 == bCache x i + 256 * bOwner x i)
  | 4 => x.length == 36 && decide (1500 ≤ im x 0 2) && decide (im x 0 2 ≤ 4500) && decide (50 ≤ im x 2 2) && decide (im x 2 2 ≤ 1000) &&
      (List.range 16).all (fun f => decide (im x (4 + 2 * f) 2 ≤ 2942))
  | 5 => x.length == 8 && decide (im x 0 8 < 2)
  | 6 => x.length == 128 && (List.range 8).all (fun r => decide (getF (BitVec.ofNat 64 (im x (16 * r) 8)) F.MR_BASE_MODE ≤ 2))
  | 7 => x.length == 4 && decide (im x 0 4 < 2 ^ 28) && decide (im x 0 4 % 2 ^ 20 < 2 ^ o.memPorts) && decide (im x 0 4 / 2 ^ 20 < 2 ^ o.linkPorts)
  | 8 => x.length == 80 && spineBits x
  | 9 => x.length == 1536 && (List.range 64).all (fun g =>
      decide (getF (BitVec.ofNat 64 (im x (24 * g + 8) 8)) F.MG_CFG_NMUS < 2 ^ o.memPorts) &&
      [F.MG_LAND_TS_BASE, F.MG_LAND_NMU_OFF].all (fun f => getF (BitVec.ofNat 64 (im x (24 * g + 16) 8)) f % 16 == 0))
  | 10 => x.length == 256
  | 11 => x.length == 50 && decide (im x 0 2 < 4096) && (List.range 8).all (fun l => decide (im x (2 + 2 * l) 2 < 4096) &&
      (List.range 3).all (fun i => decide (1 ≤ im x (18 + 4 * l + i) 1) && decide (im x (18 + 4 * l + i) 1 ≤ 15)) && im x (21 + 4 * l) 1 == 0)
  | 12 => x.length == 4096 && x.all (fun v => decide (v.toNat < o.linkPorts) || v == 0xFF)
  | 13 =>
    let rs := rankRecords (x.length / 8) x
    rankZeros (x.length / 8) x &&
    x.length == rs.foldl (fun a r => a + cdiv (8 + 2 * r.2.2.length) 8 * 8) 0 &&
    rs.all (fun r => decide (r.1 < 16) && decide (1 ≤ r.2.2.length) && decide (r.2.2.length ≤ 4096) && decide (r.2.1 < r.2.2.length) &&
      r.2.2.all (fun v => decide (v < 4096)) && decide r.2.2.Nodup) && decide (rs.map (fun r => r.1)).Nodup
  | 14 => x.length == 16 && decide (im x 0 2 ≤ 720) && decide (256 ≤ im x 2 2) && decide (im x 2 2 ≤ 16384) && decide (1 ≤ im x 4 1) &&
      decide (im x 4 1 ≤ 8) && decide (im x 5 1 ≤ 16) && decide (1 ≤ im x 6 1) && decide (im x 7 1 < 8) && im x 8 8 == 0
  | _ => false

/-- Check 9: the section it names. -/
def State.contentCheck (s : State) (b : List Byte) : Option Nat :=
  match (imSecs b).find? (fun e => !s.sectionOk e.1 ((b.drop e.2.1).take e.2.2)) with
  | some e => some e.1
  | none =>
    match (if imDelta b then none else (List.range' 1 13).find? (fun id => (imBody b id).isNone)) with
    | some id => some id
    | none =>
      let has := fun (id : Nat) => (imBody b id).isSome
      let p := s.willBe b 2
      let w := s.willBe b 4
      let ports := im (s.willBe b 7) 0 4
      let count := fun (lo n : Nat) => ((List.range n).filter (fun i => bit ports (lo + i))).length
      let standing := 278 + 50 * count 0 s.opts.memPorts + 35 * count 20 s.opts.linkPorts
      if (has 2 || has 3) && polders.any (fun n => s.present n && decide (bVset p n < 16) && !s.mayBeLow b n) then
        some (if has 2 then 2 else 3)
      else if (has 2 || has 3 || has 4 || has 7) && decide (im w 0 2 < standing + s.willFloors b + s.reserves) then
        some (if has 4 then 4 else if has 2 then 2 else if has 3 then 3 else 7)
      else none

/-- Every check of R420: STATUS, REASON and SECTION of the first that fails. -/
def State.imageCheck (s : State) (src : Option (List Byte)) : Option (Nat × Nat × Nat) :=
  match s.authCheck zenMagic 0x100000 src, src with
  | some (st, r), _ => some (st, r, 0)
  | none, none => none
  | none, some b =>
    if im b 24 4 ≠ s.optionBits then some (0x09, 4, 0)
    else if imDelta b ∧ im b 16 8 ≠ s.epoch then some (0x09, 5, 0)
    else if imDelta b ∧ s.resetOnly b then some (0x09, 6, 0)
    else (s.contentCheck b).map (fun id => (0x09, 8, id))

/-! ## Applying sections -/

/-- The fields of a register that an image gives. -/
def keepFlds (v : Nat) (fs : List Fld) : Word := fs.foldl (fun (w : Word) f => putF w f (getF (BitVec.ofNat 64 v) f)) 0

/-- Group `g` of MG0 to MG63. -/
def State.loadGroup (s : State) (x : List Byte) (g : Nat) : State :=
  ((s.wr (Reg.MG_CORES g) (BitVec.ofNat 64 (im x (24 * g) 8))).wr (Reg.MG_CFG g)
    (keepFlds (im x (24 * g + 8) 8) [F.MG_CFG_VALID, F.MG_CFG_FLEET, F.MG_CFG_CH, F.MG_CFG_NMUS])).wr (Reg.MG_LAND g)
    (keepFlds (im x (24 * g + 16) 8) [F.MG_LAND_TALLY, F.MG_LAND_TALLY_EN, F.MG_LAND_TS_BASE, F.MG_LAND_NMU_OFF])

def State.loadComb (s : State) (x : List Byte) (c : Nat) : State :=
  s.wr (Reg.CN_CFG c) (keepFlds (im x (8 * c) 8) [F.CN_CFG_VALID, F.CN_CFG_FLEET])

def State.loadPower (s : State) (x : List Byte) : State :=
  let s := (s.setFld Reg.CP_CFG F.CP_CFG_BUDGET (im x 0 2)).setFld Reg.CP_CFG F.CP_CFG_RAMP (im x 2 2)
  (List.range 16).foldl (fun (t : State) f => t.setFld (Reg.CP_FLEET f) F.CP_FLEET_SHARE (im x (4 + 2 * f) 2)) s

/-- Peer, weights and partner access of link `l`. -/
def State.loadLink (s : State) (x : List Byte) (l : Nat) : State :=
  { s with cfg := { s.cfg with
    peers := tput s.cfg.peers l (im x (2 + 2 * l) 2)
    weights := tput s.cfg.weights l [im x (18 + 4 * l) 1, im x (19 + 4 * l) 1, im x (20 + 4 * l) 1]
    open_ := tput s.cfg.open_ l (b01 (Config.linkOpen x l)) } }

def State.loadRank (s : State) (x : List Byte) (f : Nat) : State :=
  { s with cfg := { s.cfg with ranks := match (rankRecords (x.length / 8) x).find? (fun r => r.1 == f) with
    | some r => tput s.cfg.ranks f r.2
    | none => serase f s.cfg.ranks } }

/-- The routes of nodes, where the table names a port. -/
def routesOf (x : List Byte) : Sparse Nat :=
  ((List.range 4096).zip x).filterMap (fun p => if p.2.toNat < 8 then some (p.1, p.2.toNat) else none)

def State.loadFleet (s : State) (id f : Nat) : State :=
  { s with cfg := { s.cfg with coreFleet := if f < 16 then tput s.cfg.coreFleet id f else serase id s.cfg.coreFleet } }

/-- MiB `m` of a sector's pool becomes zero. -/
def Sector.zeroMiB (c : Sector) (m : Nat) : Sector :=
  { c with
    pool := c.pool.filter (fun p => p.1 / 2 ^ 20 != m)
    poolGen := serase m c.poolGen
    bad := c.bad.filter (fun w => 8 * w / 2 ^ 20 != m) }

/-- A split or owner change (R423): the cache is invalidated; what becomes addressable is zeroed, or all of it where the
owner changes. -/
def State.loadSplit (s : State) (sec cache owner : Nat) : State :=
  let old := tget 0 s.cfg.poolMiB sec
  let new := 16 - cache
  let from_ := if tfind s.cfg.poolOwner sec = some owner then old else 0
  let c := (List.range' from_ (new - from_)).foldl (fun (c : Sector) m => c.zeroMiB m) { s.sector sec with cache := [] }
  { s.setSector sec c with cfg := { s.cfg with
    poolMiB := tput s.cfg.poolMiB sec new
    poolOwner := tput s.cfg.poolOwner sec owner } }

/-! ## The plan of a change (16 R424 to R426) -/

/-- The polder of a spine endpoint (R416). -/
def endPolder (e : Nat) : Nat :=
  if e < 8 then 72 + e else if e < 18 then 76 + e else if e < 22 then 76 + e else if e < 24 then 60 + e else 98

/-- Pairs of endpoints. -/
def endPairs : List (Nat × Nat) := (List.range 25).flatMap (fun a => (List.range' (a + 1) (24 - a)).map (fun b => (a, b)))

/-- The polders that a paired change closes together (R425). -/
def Change.ends : Change → List Nat
  | .spine a b _ => [endPolder a, endPolder b]
  | .route a b => [a, b]
  | _ => []

/-- A paired change is made with every one that shares an end with it, in one closure (R425). -/
def joinStep (ps : List PlanStep) (c : Change) : List PlanStep :=
  let near := fun (p : PlanStep) => p.what.any (fun d => d.ends.any c.ends.contains)
  ps.filter (fun p => !near p) ++ [⟨5, (ps.filter near).flatMap (fun p => p.what) ++ [c]⟩]

/-- Paired changes in steps, in the order of their lowest polders (R426). -/
def pairSteps (cs : List Change) : List PlanStep :=
  let ps := cs.foldl joinStep []
  polders.flatMap (fun n => ps.filter (fun p => (p.what.flatMap Change.ends).foldl min 99 == n))

/-- The changes that a delta's sections make, phase by phase. -/
def State.planOf (s : State) (b : List Byte) : List PlanStep :=
  let sec := fun (id : Nat) (f : List Byte → List PlanStep) => match imBody b id with | some x => f x | none => []
  let one := fun (ph : Nat) (c : Change) => (⟨ph, [c]⟩ : PlanStep)
  let old := s.inForce
  let ph1 := sec 4 (fun x => if x = old 4 then [] else [one 1 .power]) ++ sec 5 (fun x => if x = old 5 then [] else [one 1 .reckoner]) ++
    sec 0x0E (fun x => if x = s.service then [] else [one 1 .service]) ++
    sec 7 (fun x => ((List.range 8).filter (fun l => bit (im x 0 4) (20 + l) && !bit s.cfg.linkIn l)).map (fun l => one 1 (.linkIn l)))
  let ph2 := sec 2 (fun x =>
    let ns := polders.filter (fun n => s.present n && (bVset x n != s.vset n || bClass x n != s.fld (Reg.PACE_P n) F.PACE_P_CLASS))
    let low := fun (n : Nat) => decide (bVset x n < s.vset n)
    (ns.filter (fun n => !low n) ++ ns.filter low).map (fun n => one 2 (.setpoint n (bVset x n) (bClass x n))))
  let ph3 := sec 3 (fun x =>
    let cs := (List.range 64).filter (fun i => (tfind s.cfg.coreFleet i).getD 0xFF != bFleet x i)
    let bound := (List.range 72).filterMap (fun n => (s.coreOf n).bind (fun i => if cs.contains i then some i else none))
    let free := cs.filter (fun i => !bound.contains i)
    let ss := (List.range 8).filter (fun n => 16 - tget 0 s.cfg.poolMiB n != bCache x n || tfind s.cfg.poolOwner n != some (bOwner x n))
    (free ++ bound).map (fun i => one 3 (.coreFleet i (bFleet x i))) ++ ss.map (fun n => one 3 (.split n (bCache x n) (bOwner x n))))
  let ph4 := sec 0x0B (fun x => ((List.range 4).filter (fun m => [2 * m, 2 * m + 1].any (fun l =>
      im x (2 + 2 * l) 2 != im (old 0x0B) (2 + 2 * l) 2 || im x (18 + 4 * l) 4 != im (old 0x0B) (18 + 4 * l) 4))).map (fun m => one 4 (.linkCfg (94 + m)))) ++
    sec 0x0D (fun x => ((List.range 16).filter (fun f =>
      (rankRecords (x.length / 8) x).find? (fun r => r.1 == f) != (rankRecords ((old 0x0D).length / 8) (old 0x0D)).find? (fun r => r.1 == f))).map
        (fun f => one 4 (.ranks f)))
  let ph5 := sec 8 (fun x => pairSteps ((endPairs.filter (fun (p : Nat × Nat) => bHalf x p.1 p.2 != tget 0 s.cfg.halves (pairBit p.1 p.2))).map
      (fun (p : Nat × Nat) => .spine p.1 p.2 (bHalf x p.1 p.2)))) ++
    sec 0x0C (fun x =>
      let new := routesOf x
      let ch := (List.range 4096).filter (fun n => tfind new n != tfind s.cfg.routes n)
      let pr := ch.map (fun n =>
        let a := (tfind s.cfg.routes n).map (fun l => 94 + l / 2)
        let c := (tfind new n).map (fun l => 94 + l / 2)
        (min (a.getD (c.getD 94)) (c.getD (a.getD 94)), max (a.getD (c.getD 94)) (c.getD (a.getD 94))))
      pairSteps (pr.dedup.map (fun (p : Nat × Nat) => .route p.1 p.2)))
  let ph6 := sec 9 (fun x => ((List.range 64).filter (fun g => (x.drop (24 * g)).take 24 != ((old 9).drop (24 * g)).take 24)).map (fun g => one 6 (.group g))) ++
    sec 10 (fun x => ((List.range 32).filter (fun c => im x (8 * c) 8 != im (old 10) (8 * c) 8)).map (fun c => one 6 (.comb c)))
  let ph7 := sec 7 (fun x => ((List.range 8).filter (fun l => !bit (im x 0 4) (20 + l) && bit s.cfg.linkIn l)).map (fun l => one 7 (.linkOut l)) ++
      ((List.range 20).filter (fun p => !bit (im x 0 4) p && bit s.cfg.memIn p)).map (fun p => one 7 (.memOut p)))
  ph1 ++ ph2 ++ ph3 ++ ph4 ++ ph5 ++ ph6 ++ ph7

/-- The polders that a change closes. -/
def State.changeClose (s : State) : Change → List Nat
  | .setpoint p _ _ => [p]
  | .coreFleet id _ => (s.slotOf id).toList
  | .split sec _ _ => [72 + sec]
  | .linkCfg p => [p]
  | .spine a b h => (Change.spine a b h).ends
  | .route a b => (Change.route a b).ends
  | _ => []

/-- The polders that a step closes: those that are not quarantined (R429). -/
def State.stepClose (s : State) (p : PlanStep) : List Nat :=
  ((p.what.flatMap s.changeClose).dedup).filter (fun n => !s.closed n)

/-- The time a change takes in a closure, in ns (R423). -/
def State.changeCost (s : State) : Change → Nat
  | .setpoint p v c =>
    let d := if s.vset p ≤ v then v - s.vset p else s.vset p - v
    (if d = 0 then 0 else 2000 + 250 * d) + (if c = s.fld (Reg.PACE_P p) F.PACE_P_CLASS then 0 else 200)
  | .split sec cache owner =>
    let from_ := if tfind s.cfg.poolOwner sec = some owner then tget 0 s.cfg.poolMiB sec else 0
    10920 + 2730 * (16 - cache - from_)
  | _ => 200

/-- The closure time of a step: drain, apply and reopen (R423). -/
def State.stepCost (s : State) (p : PlanStep) : Nat := 1200 + (p.what.map s.changeCost).foldl (· + ·) 0

/-- Is a relief or sounding at work on a polder (R429)? -/
def State.underWork (s : State) (n : Nat) : Bool :=
  (match s.repair.relief with | some r => r.x == n || r.y == n | none => false) || s.repair.soundings.any (fun r => r.polder == n)

/-- What keeps a change waiting. -/
inductive Wait where
  | no
  | object
  | passage (q : Nat)
  deriving DecidableEq, Repr

/-- Is the object of a change not yet quiet (R424), or does a held passage forbid it (14 R374)? -/
def State.changeWait (s : State) : Change → Wait
  | .coreFleet id _ => match s.slotOf id with | some k => if s.klState k = 0 then .no else .object | none => .no
  | .group g => if (List.range 72).any (fun k => (s.slot k).bulks.any (fun b => mcGroup b.word == g) ||
      ((s.slot k).sendM ++ (s.slot k).sendH).any (fun e => opcode e.word == 0xA2 && mcGroup e.word == g)) then .object else .no
  | .comb c => if s.fld (Reg.CN_STAT c) F.CN_STAT_STATE = 0 then .no else .object
  | .ranks f => if s.nmus.any (fun p => p.2.tags.any (fun q => q.2.fleet == f)) then .object else .no
  | .linkOut l => if s.cfg.routes.any (fun r => r.2 == l) then .object else .no
  | .memOut p => if s.mpLost p then .no else .object
  | .setpoint p v c =>
    match s.passages.find? (fun x => x.2.paces.any (fun y => y.1 == p && (decide (v < y.2.1) || c != y.2.2))) with
    | some x => .passage x.1
    | none => .no
  | _ => .no

/-- What keeps a step waiting: an object, a passage, work on a polder to be closed, or slack (R424, R426, R429). -/
def State.stepWait (s : State) (p : PlanStep) : Wait :=
  match (p.what.map s.changeWait).find? (fun w => w != .no) with
  | some w => w
  | none =>
    let c := s.stepClose p
    if c.any s.underWork then .object
    else if c.isEmpty then .no
    else match s.blocker c (s.stepCost p) with
      | some q => .passage q
      | none => .no

/-- Apply one change. -/
def State.applyChange (s : State) : Change → State
  | .power => (s.loadPower (s.willBe s.zen.buf 4)).fitPool.fitShares
  | .reckoner => s.rtWrite (bit (im (s.willBe s.zen.buf 5) 0 8) 0)
  | .service => { s with zen := { s.zen with force := tput s.zen.force 0x0E (s.willBe s.zen.buf 0x0E) } }
  | .linkIn l =>
    let s := { s with cfg := { s.cfg with linkIn := s.cfg.linkIn ||| 2 ^ l } }.setGrants (94 + l / 2)
    if s.flLost l then s else s.trainFl l
  | .setpoint p v c => if s.closed p then s else (s.setPace p v c).setGrants p
  | .coreFleet id f =>
    let s := s.loadFleet id f
    (match s.slotOf id with | some k => s.setGrants k | none => s).fitShares
  | .split sec cache owner => if s.closed (72 + sec) then s else s.loadSplit sec cache owner
  | .linkCfg p => [2 * (p - 94), 2 * (p - 94) + 1].foldl (fun (t : State) l => t.loadLink (s.willBe s.zen.buf 0x0B) l) s
  | .ranks f => s.loadRank (s.willBe s.zen.buf 0x0D) f
  | .spine a b h => { s with cfg := { s.cfg with halves := tput s.cfg.halves (pairBit a b) h } }
  | .route a b =>
    let new := routesOf (s.willBe s.zen.buf 0x0C)
    let here := fun (r : Option Nat) => match r with | some l => 94 + l / 2 == a || 94 + l / 2 == b | none => true
    let routes := (List.range 4096).filterMap (fun n =>
      let o := tfind s.cfg.routes n
      let w := tfind new n
      (if here o && here w then w else o).map (fun l => (n, l)))
    { s with cfg := { s.cfg with routes := routes } }.linkAgain
  | .group g => s.loadGroup (s.willBe s.zen.buf 9) g
  | .comb c => s.loadComb (s.willBe s.zen.buf 10) c
  | .linkOut l =>
    let s := { s with cfg := { s.cfg with linkIn := s.cfg.linkIn &&& (2 ^ 8 - 1 - 2 ^ l) } }
    (if s.flLost l then s else s.setFld (Reg.FL_STAT l) F.FL_STAT_STATE 0).setGrants (94 + l / 2)
  | .memOut p => ({ s with cfg := { s.cfg with memIn := s.cfg.memIn &&& (2 ^ 20 - 1 - 2 ^ p) } }).setGrants (84 + p / 2)

/-! ## Progress (16 R426 to R428) -/

def State.znState (s : State) : Nat := s.fld Reg.ZN_STAT F.ZN_STAT_STATE

/-- ZN_STAT of a command or change. -/
def State.znResult (s : State) (state status reason section_ pid : Nat) : State :=
  let r := Reg.ZN_STAT
  let s := ((s.setFld r F.ZN_STAT_STATE state).setFld r F.ZN_STAT_STATUS status).setFld r F.ZN_STAT_REASON reason
  (s.setFld r F.ZN_STAT_SECTION section_).setFld r F.ZN_STAT_DEFER_PID pid

/-- The body of an epoch record: the epoch, the compatibility state and SVN_MIN (R428). -/
def State.epochBody (s : State) (epoch : Nat) : List Byte :=
  natLE 8 epoch ++ natLE 8 (b01 s.dn16) ++ natLE 8 s.svnMin

/-- Write the epoch record and make an epoch current (R421, R428). -/
def State.newEpoch (s : State) (b : List Byte) (epoch : Nat) : State :=
  let s := if imRaise b then s.setFld Reg.ZN_COMPAT F.ZN_COMPAT_SVN_MIN (imSvn b) else s
  (s.nvWrite .epoch (s.epochBody epoch)).wr Reg.ZN_EPOCH (BitVec.ofNat 64 epoch)

/-- The last change has been applied (R428). -/
def State.zenFinish (s : State) : State :=
  let b := s.zen.buf
  let e := s.epoch + 1
  let s := s.newEpoch b e
  let force := (imSecs b).foldl (fun (f : Sparse (List Byte)) x => tput f x.1 ((b.drop x.2.1).take x.2.2)) s.zen.force
  let s := { s with zen := { s.zen with
    force := force
    buf := []
    committed := false
    signers := if s.zen.signers.contains s.zen.signer then s.zen.signers else s.zen.signers ++ [s.zen.signer] } }
  let s := (s.znResult 0 0 0 0 0).report ⟨0x10, 0, 99, 0, 0, 0xFF, 0,
    [BitVec.ofNat 64 e, BitVec.ofNat 64 (im b 32 8), BitVec.ofNat 64 (im b 40 8), BitVec.ofNat 64 (im b 48 8)]⟩
  s.alert 2

/-- The change waits: DEFERRED, with REASON and, for a passage, its PID (R424, R426). -/
def State.zenDefer (s : State) : Wait → State
  | .no => s
  | .object => s.znResult 4 0x08 0xA 0 0
  | .passage q => s.znResult 4 0x08 9 0 (s.ptPid q)

/-- Steps that need no closure are made until one needs a closure, one must wait, or none is left. -/
def State.zenAdvance : Nat → State → State
  | 0, s => s
  | n + 1, s =>
    match s.zen.plan with
    | [] => s.zenFinish
    | p :: ps =>
      if !(s.stepClose p).isEmpty then s
      else
        match s.stepWait p with
        | .no =>
          let s := p.what.foldl (fun (t : State) c => t.applyChange c) s
          ({ s with zen := { s.zen with plan := ps, committed := true } }).zenAdvance n
        | w => s.zenDefer w

/-- ZN_CMD of a code that does not match STATE. -/
def State.znLost (s : State) : State := s.setFld Reg.ZN_STAT F.ZN_STAT_CMD_LOST 1
/-- A second command while a change is made (R427). -/
def State.znBusy (s : State) : State := (s.setFld Reg.ZN_STAT F.ZN_STAT_STATUS 0x09).setFld Reg.ZN_STAT F.ZN_STAT_REASON 7

/-- ZN_CMD LOAD. -/
def State.znLoad (s : State) : State :=
  if s.znState = 3 ∨ s.znState = 4 then s.znBusy
  else if s.znState = 0 ∨ s.znState = 2 then
    { s.znResult 1 0 0 0 0 with zen := { s.zen with buf := [] } }
  else s.znLost

/-- The source's bytes: External Memory is read here; what host memory or the flash gave comes with the event. -/
def State.znSource (s : State) (src : Option (List Byte)) : Option (List Byte) × State :=
  if s.fld Reg.ZN_SRC F.ZN_SRC_KIND = 2 then
    let a := (s.rd Reg.ZN_ADDR).toNat
    match s.emLoadBy .keep (clsPrio 0) a 128 with
    | (0, h, s) =>
      (match s.emLoadBy .keep (clsPrio 0) a (min (max (imLen h) 128) 0x100000) with
        | (0, b, s) => (some b, s)
        | (_, _, s) => (none, s))
    | (_, _, s) => (none, s)
  else (src, s)

/-- The image is in the buffer and checked (R420). -/
def State.znLoaded (s : State) (src : Option (List Byte)) : State :=
  if s.znState ≠ 1 then s
  else s.overEm fun s =>
    let (src, s) := s.znSource src
    match s.imageCheck src, src with
    | some (st, r, id), _ => s.znResult 0 st r id 0
    | none, some b => { s.znResult 2 0 0 0 0 with zen := { s.zen with buf := b, signer := (s.keySlot b).getD 4 } }
    | none, none => s

/-- ZN_CMD APPLY (R426). -/
def State.znApply (s : State) : State :=
  if s.znState = 3 ∨ s.znState = 4 then s.znBusy
  else if s.znState ≠ 2 then s.znLost
  else if !imDelta s.zen.buf then s.znResult 2 0x09 5 0 0
  else
    let plan := s.planOf s.zen.buf
    ({ s.znResult 3 0 0 0 0 with zen := { s.zen with plan := plan, committed := false } }).zenAdvance (plan.length + 1)

/-- ZN_CMD STAGE_WARM (R430). -/
def State.znStage (s : State) : State :=
  if s.znState = 3 ∨ s.znState = 4 then s.znBusy
  else if s.znState ≠ 2 then s.znLost
  else if imDelta s.zen.buf then s.znResult 2 0x09 5 0 0
  else s.znResult 5 0 0 0 0

/-- ZN_CMD ABORT (R427). -/
def State.znAbort (s : State) : State :=
  if s.znState ≠ 3 ∧ s.znState ≠ 4 then s.znLost
  else if s.zen.committed ∨ s.zen.closing ≠ [] then s.setFld Reg.ZN_STAT F.ZN_STAT_STATUS 0x01
  else { s.znResult 2 0x02 0 0 0 with zen := { s.zen with plan := [] } }

/-- ZN_CMD DISCARD (R430). -/
def State.znDiscard (s : State) : State :=
  if s.znState = 2 ∨ s.znState = 5 then { s.znResult 0 0 0 0 0 with zen := { s.zen with buf := [] } } else s.znLost

/-- The next step's polders close, where nothing keeps it waiting; its time is charged (R422, R426). -/
def State.sluiceClose (s : State) : State :=
  if s.znState ≠ 3 ∨ s.zen.closing ≠ [] then s
  else
    match s.zen.plan with
    | [] => s
    | p :: _ =>
      let c := s.stepClose p
      if c.isEmpty then s
      else
        match s.stepWait p with
        | .no =>
          let cost := s.stepCost p
          let qs := s.chargeable c
          let s := (c.foldl (fun (t : State) n => t.setFld (Reg.DK_P n) F.DK_P_STATE 2) s).charge qs cost
          { s with zen := { s.zen with closing := c, cost := cost, charged := qs, committed := true } }
        | w => s.zenDefer w

/-- Does the step at the head of the plan change a route of link polder `n`? -/
def State.reroutes (s : State) (n : Nat) : Bool :=
  match s.zen.plan with
  | p :: _ => p.what.any (fun c => match c with | .route a b => a == n || b == n | _ => false)
  | [] => false

/-- Is a closed polder at its sluice (R422 step 4, R425): its transfers have landed or been acknowledged, nothing that it or a core slot
behind its dike injected is in transit, and for a pair the old path is empty, the frames of a port that loses or gains a route
acknowledged? What is to cross a closed spine half waits outside it. -/
def State.drained (s : State) (pair : List Nat) (n : Nat) : Bool :=
  (if n < 72 then (s.slot n).outs.isEmpty else true) &&
  !s.net.any (fun p => (s.wayOf p.src).contains n && (p.plane != .reply || (s.wayOf p.dst).any pair.contains)) &&
  (!s.reroutes n || ([2 * (n - 94), 2 * (n - 94) + 1].all (fun l => (s.link l).kept.isEmpty)))

/-- A dike reopens, but a quarantined polder's. -/
def State.reopen (s : State) (n : Nat) : State := if s.closed n then s else s.setFld (Reg.DK_P n) F.DK_P_STATE 1

/-- The polders have drained: the changes are applied, the polder epochs set and the dikes reopened (R422 steps 4 to 6);
then the change goes on (R426, R428). A passage admitted since the closure began may forbid the change: then the dikes reopen without it,
and it waits (14 R374). -/
def State.sluice (s : State) : State :=
  match s.zen.plan with
  | [] => s
  | p :: ps =>
    let c := s.zen.closing
    if c.isEmpty ∨ !c.all (s.drained c) then s
    else
      match (p.what.map s.changeWait).find? (fun w => w != .no) with
      | some w =>
        let s := c.foldl (fun (t : State) n => t.reopen n) s
        ({ s with zen := { s.zen with closing := [], charged := [] } }).zenDefer w
      | none =>
      let s := p.what.foldl (fun (t : State) x => t.applyChange x) s
      let s := c.foldl (fun (t : State) n =>
        (t.wr (Reg.ZN_PEP n) (BitVec.ofNat 64 (s.epoch + 1))).reopen n) s
      ({ s with zen := { s.zen with plan := ps, closing := [], charged := [] } }).zenAdvance (ps.length + 1)

/-- A drain lasts longer than 1.0 us: the charged passages are marked, and a record is written (R423). -/
def State.drainOverrun (s : State) : State :=
  let c := s.zen.closing
  if c.isEmpty ∨ c.all (s.drained c) then s
  else
    let s := s.zen.charged.foldl (fun (t : State) q => t.riskOne 0x11 q) s
    s.report ⟨0x11, 1, c.headD 99, 0, 0, 0xFF, 0, [BitVec.ofNat 64 s.zen.cost]⟩

/-- A DEFERRED change proceeds once nothing keeps it waiting (R424, R426). -/
def State.zenResume (s : State) : State :=
  if s.znState ≠ 4 then s
  else
    match s.zen.plan with
    | [] => s
    | p :: ps => if s.stepWait p = .no then (s.znResult 3 0 0 0 0).zenAdvance (ps.length + 2) else s

/-! ## A full image at reset (16 R421, R430, 18 R475) -/

/-- Every section of a full image takes effect; every polder takes the new epoch. -/
def State.applyFull (s : State) (b : List Byte) : State :=
  let x := fun (id : Nat) => (imBody b id).getD []
  let force := (imSecs b).foldl (fun (f : Sparse (List Byte)) e => tput f e.1 ((b.drop e.2.1).take e.2.2)) []
  let dn := bit (im (x 1) 0 8) 0
  let s := { s with
    cfg := { s.cfg with
      ownNode := im (x 0x0B) 0 2
      routes := routesOf (x 0x0C)
      halves := (endPairs.filter (fun (p : Nat × Nat) => bHalf (x 8) p.1 p.2 == 1)).map (fun (p : Nat × Nat) => (pairBit p.1 p.2, 1))
      memIn := im (x 7) 0 4 % 2 ^ 20
      linkIn := im (x 7) 0 4 / 2 ^ 20 % 2 ^ 8 }
    zen := { s.zen with force := force } }
  let s := (s.setFld Reg.ZN_COMPAT F.ZN_COMPAT_IMG_DN16 (b01 dn)).setFld Reg.ZN_COMPAT F.ZN_COMPAT_DN16
    (b01 (dn || s.flag Reg.ZN_COMPAT F.ZN_COMPAT_PIN_DN16))
  let s := (List.range 64).foldl (fun (t : State) id => t.loadFleet id (bFleet (x 3) id)) s
  let s := (List.range 8).foldl (fun (t : State) n => t.loadSplit n (bCache (x 3) n) (bOwner (x 3) n)) s
  let s := polders.foldl (fun (t : State) n => if t.present n then t.setPace n (bVset (x 2) n) (bClass (x 2) n) else t) s
  let s := s.loadPower (x 4)
  let s := { s.setFld Reg.RK_CTL F.RK_CTL_RT (im (x 5) 0 8 % 2) with rtMode := bit (im (x 5) 0 8) 0 }
  let s := (List.range 8).foldl (fun (t : State) r => (List.range s.opts.memPorts).foldl (fun (t : State) p =>
    (t.wr (Reg.MR_BASE p r) (keepFlds (im (x 6) (16 * r) 8) [F.MR_BASE_VALID, F.MR_BASE_MODE, F.MR_BASE_BASE])).wr (Reg.MR_MAP p r)
      (keepFlds (im (x 6) (16 * r + 8) 8) [F.MR_MAP_LB, F.MR_MAP_EXT])) t) s
  let s := (List.range 64).foldl (fun (t : State) g => t.loadGroup (x 9) g) s
  let s := (List.range 32).foldl (fun (t : State) c => t.loadComb (x 10) c) s
  let s := (List.range 8).foldl (fun (t : State) l => t.loadLink (x 0x0B) l) s
  let s := (List.range 16).foldl (fun (t : State) f => t.loadRank (x 0x0D) f) s
  let s := polders.foldl (fun (t : State) n => t.setGrants n) s
  let e := s.epoch + 1
  polders.foldl (fun (t : State) n => if t.present n then t.wr (Reg.ZN_PEP n) (BitVec.ofNat 64 e) else t) (s.newEpoch b e)

end Sys2Proof.Machine
end

