-- ==== Sys2Proof/Machine/Repair.lean ====
section
/-!
DEFINITION. Machine/Repair.lean: the repair map, spare slots, soundings, the rotation and watch relief (17 R433 to R446).
Quarantine, which upsets and failed soundings can bring about, is in Machine/Quarantine.lean.
-/

namespace Sys2Proof.Machine

def State.modRepair (s : State) (f : Repair → Repair) : State := { s with repair := f s.repair }

/-! ## The repair map (R434, R435) -/

def State.isRetired (s : State) (k : Nat) : Bool := s.repair.retired.contains k

/-- SLOT byte of physical slot `k`. -/
def State.slotByte (s : State) (k : Nat) : Nat :=
  if s.isRetired k then 0xF else match s.coreOf k with | some id => id % 8 | none => 8

def State.arrayWord (s : State) (k : Nat) : Nat := tget 0xFFFFFFFF s.repair.array k

/-- A map's body: SLOT bytes, ARRAY words, lane images and SRAM entries. -/
def mapBody (slots arrays mpl fll : List Nat) (srams : List Word) : List Byte :=
  slots.flatMap (natLE 1) ++ arrays.flatMap (natLE 4) ++ mpl.flatMap (natLE 4) ++ fll.flatMap (natLE 2) ++
    natLE 4 srams.length ++ natLE 4 0 ++ srams.flatMap (fun (w : Word) => natLE 8 w.toNat)

/-- The map that the live state gives. -/
def State.repairBody (s : State) : List Byte :=
  mapBody ((List.range 72).map s.slotByte) ((List.range 72).map s.arrayWord)
    ((List.range 20).map (fun p => (s.rd (Reg.MP_LANES p)).toNat % 2 ^ 32))
    ((List.range 8).map (fun l => (s.rd (Reg.FL_LANES l)).toNat % 2 ^ 16)) s.repair.srams

/-- The identity map (R434). -/
def defaultMap : List Byte :=
  mapBody ((List.range 72).map (fun k => k % 9)) (List.replicate 72 0xFFFFFFFF) (List.replicate 20 0) (List.replicate 8 0) []

/-- The map in the non-volatile store, or the default. -/
def State.storedMap (s : State) : List Byte :=
  match s.nvNewest .repair with | some (_, _, b) => b | none => defaultMap

/-- Changes of the repair state that are not yet in the store are written as one record (R435). -/
def State.repairMapWrite (s : State) : State :=
  if s.repairBody = s.storedMap then s
  else
    let n := (s.nvNext .repair).2
    (s.nvWrite .repair s.repairBody).report ⟨0x62, 0, 99, 0, 0, 0xFF, 0, [BitVec.ofNat 64 n]⟩

/-! ## SRAM rows (R434, R437, R438) -/

/-- The polder of an SRAM entry; `bankOf` names its bank in the cluster. -/
def sramPolder (w : Word) : Nat := bits w.toNat 57 7
def bankOf (w : Word) : Nat := bits w.toNat 40 24
/-- An entry as it names its row, without the spare. -/
def rowOf (w : Word) : Word := BitVec.ofNat 64 (w.toNat / 2 ^ 28 * 2 ^ 28)

/-- The lowest spare row of a row's bank that is free, where the map has room for it. -/
def spareRow (srams : List Word) (w : Word) : Option Nat :=
  if 4000 ≤ srams.length then none
  else (List.range 4).find? (fun n => !srams.any (fun x => bankOf x == bankOf w && bits x.toNat 26 2 == n))

/-- Repair rows with spares of their banks: the map's entries, and the rows for which no spare was free. -/
def coverRows : List Word → List Word → List Word × List Word
  | [], srams => (srams, [])
  | w :: ws, srams =>
    match spareRow srams w with
    | some n => coverRows ws (srams ++ [rowOf w ||| BitVec.ofNat 64 (n * 2 ^ 26)])
    | none => let r := coverRows ws srams; (r.1, rowOf w :: r.2)

/-- Rows of a polder that are queued for repair. -/
def State.queuedRows (s : State) (p : Nat) : List Word := s.repair.queued.filter (fun w => sramPolder w == p)

/-- A corrected error in a row: the fourth within a sounding period queues it (R438). -/
def State.rowError (s : State) (w : Word) : State :=
  let r := rowOf w
  let n := ((s.repair.rowCe.find? (fun (x : Word × Nat) => x.1 == r)).map (fun x => x.2)).getD 0 + 1
  let s := s.modRepair (fun x => { x with rowCe := x.rowCe.filter (fun (y : Word × Nat) => y.1 != r) ++ [(r, n)] })
  if 4 ≤ n ∧ !s.repair.queued.contains r then
    (s.modRepair (fun x => { x with queued := x.queued ++ [r] })).report ⟨0x50, 1, sramPolder r, 0, 0, 0xFF, 0, [r]⟩
  else s

/-- The errors counted against the rows of a polder's sounding period. -/
def State.forgetRows (s : State) (p : Nat) : State :=
  s.modRepair (fun x => { x with rowCe := x.rowCe.filter (fun (y : Word × Nat) => sramPolder y.1 != p) })

/-- Array rows or columns given to free spares: the map's word, and whether all found one. `lo` is the bit of spare 0. -/
def coverLines (lo : Nat) : List Nat → Nat → Nat × Bool
  | [], w => (w, true)
  | x :: xs, w =>
    let put := fun (i : Nat) => w - bits w (lo + 8 * i) 8 * 2 ^ (lo + 8 * i) + x % 256 * 2 ^ (lo + 8 * i)
    if bits w lo 8 = 0xFF then coverLines lo xs (put 0)
    else if bits w (lo + 8) 8 = 0xFF then coverLines lo xs (put 1)
    else (w, false)

/-! ## Spare slots -/

/-- The SPARE slots of a sector that are free to take work: unbound, not RETIRED, with open dikes and no sounding. -/
def State.spares (s : State) (sec : Nat) : List Nat :=
  (List.range' (9 * sec) 9).filter (fun k => (s.coreOf k).isNone && !s.isRetired k && s.fld (Reg.DK_P k) F.DK_P_STATE == 1 && !s.underWork k)

/-- Has a sector a SPARE slot, be it in a sounding? -/
def State.hasSpare (s : State) (sec : Nat) : Bool :=
  (List.range' (9 * sec) 9).any (fun k => (s.coreOf k).isNone && !s.isRetired k && s.fld (Reg.DK_P k) F.DK_P_STATE == 1)

/-- The setpoint of a slot that is SPARE. -/
def State.sparePace (s : State) (k : Nat) : State := (s.setPace k s.spareVset (s.fld (Reg.PACE_P k) F.PACE_P_CLASS)).setGrants k

/-- The logical core that a binding gives slot `k`. -/
def State.bindCore (s : State) (id k : Nat) : State := { s with bind := tput s.bind id (k % 9) }

/-- A slot after cold reset that goes on counting transfers, messages and kernels where `c` stood, so that what is still in
flight for `c` reaches nothing of it. -/
def Slot.fresh (c : Slot) : Slot :=
  { Slot.reset with
    nextXfer := c.nextXfer
    nextSer := c.nextSer
    nextEntry := c.nextEntry
    kser := c.kser }

/-- The registers of slot `k`'s window take their reset values. -/
def State.clearWindow (s : State) (k : Nat) : State :=
  { s with drs := s.drs.filter (fun (p : Nat × Word) => decide (p.1 < slotBase k) || decide (slotBase k + 0x20000 ≤ p.1)) }

/-- The registers of slot `x`'s window move to slot `y`'s. -/
def State.moveWindow (s : State) (x y : Nat) : State :=
  let mine := s.drs.filter (fun (p : Nat × Word) => decide (slotBase x ≤ p.1) && decide (p.1 < slotBase x + 0x20000))
  mine.foldl (fun (t : State) (p : Nat × Word) => t.wr (p.1 - slotBase x + slotBase y) p.2) ((s.clearWindow y).clearWindow x)

/-! ## Soundings (R439, R440) -/

/-- Does a polder's sounding close its dikes: a sector's or a memory polder's? -/
def soundCloses (p : Nat) : Bool := (decide (72 ≤ p) && decide (p < 80)) || (decide (84 ≤ p) && decide (p < 94))

/-- The closure time of a sounding in ns, for passages (R440, R442): drain and reopen, and what it applies. -/
def State.soundCost (s : State) (p : Nat) : Nat :=
  let rows := 200 * (s.queuedRows p).length
  if 72 ≤ p ∧ p < 80 then (if s.svcCaches then 44890 else 12120) + rows else 1200 + rows

/-- May a sounding of `p` begin now? -/
def State.soundWaits (s : State) (p : Nat) : Bool :=
  s.underWork p || s.zen.closing.contains p || (soundCloses p && (s.blocker [p] (s.soundCost p)).isSome)

/-- Is it a polder that SOUND and the rotation may test: a slot that is SPARE, or a polder that is open? -/
def State.soundable (s : State) (p : Nat) : Bool :=
  s.present p && decide (1 ≤ s.fld (Reg.DK_P p) F.DK_P_STATE) && !s.closed p &&
    (decide (72 ≤ p) || ((s.coreOf p).isNone && !s.isRetired p))

/-- A sounding begins: a slot's at 0.68 V, a sector's or memory polder's as a closure that is charged. -/
def State.soundStart (s : State) (p : Nat) (unq : Bool) : State :=
  let s := s.modRepair (fun r => { r with soundings := r.soundings ++ [⟨p, s.time, unq⟩] })
  if p < 72 then s.setPace p 16 (s.fld (Reg.PACE_P p) F.PACE_P_CLASS)
  else if unq then s
  else if soundCloses p then (s.setFld (Reg.DK_P p) F.DK_P_STATE 2).charge (s.chargeable [p]) (s.soundCost p)
  else s

/-- RP_STAT.STATUS. -/
def State.rpStatus (s : State) (st : Nat) : State := s.setFld Reg.RP_STAT F.RP_STAT_STATUS st

/-- A sounding that is due begins, or waits, which RP_STAT reports as DEFERRED (R441, 14 R387). -/
def State.soundDue (s : State) (p : Nat) : State :=
  if !s.soundable p then s
  else if s.soundWaits p then (s.modRepair (fun r => { r with waiting := r.waiting ++ [⟨false, p, s.time, false⟩] })).rpStatus 0x08
  else s.soundStart p false

def State.rpLost (s : State) : State := s.setFld Reg.RP_STAT F.RP_STAT_CMD_LOST 1
/-- RP_STAT.BUSY (R459). -/
def State.rpBusy (s : State) : Bool := s.repair.relief.isSome || !s.repair.soundings.isEmpty

/-- RP_CTL SOUND. -/
def State.sound (s : State) (p : Nat) : State :=
  if s.rpBusy ∨ !s.soundable p then s.rpLost
  else if s.soundWaits p then s.soundDue p
  else (s.soundStart p false).rpStatus 0

/-- RP_CTL UNQUARANTINE: the sounding comes first (R451). -/
def State.unquarantine (s : State) (p : Nat) : State :=
  if s.rpBusy ∨ !s.present p ∨ s.fld (Reg.DK_P p) F.DK_P_STATE ≠ 4 then s.rpLost
  else (s.soundStart p true).rpStatus 0

/-- What a sounding comes to: 1 PASS, 2 REPAIRED, 3 FAIL, with the polder's new ARRAY word, the map's SRAM entries, the rows
left without a spare, and whether a slot is to be RETIRED. -/
structure Outcome where
  result : Nat
  array : Nat
  srams : List Word
  left : List Word
  retire : Bool
  deriving DecidableEq, Repr

/-- Judge a sounding of polder `p` by what it found and the rows queued (R438 to R440). -/
def State.judge (s : State) (p : Nat) (f : Found) : Outcome :=
  let rows := (s.queuedRows p ++ (f.srams.filter (fun w => sramPolder w == p)).map rowOf).dedup
  let r := coverRows rows s.repair.srams
  if p < 72 then
    let a := coverLines 0 f.rows (s.arrayWord p)
    let c := coverLines 16 f.cols a.1
    if f.fatal || !a.2 || !c.2 || !r.2.isEmpty then ⟨3, s.arrayWord p, s.repair.srams, [], true⟩
    else if rows.isEmpty && f.rows.isEmpty && f.cols.isEmpty then ⟨1, s.arrayWord p, s.repair.srams, [], false⟩
    else ⟨2, c.1, r.1, [], !f.retest⟩
  else if f.fatal then ⟨3, 0xFFFFFFFF, r.1, r.2, false⟩
  else ⟨if rows.isEmpty then 1 else 2, 0xFFFFFFFF, r.1, r.2, false⟩

/-- The polder takes what the sounding gave: the map, DK_P.SOUND, and a record. -/
def State.soundRecord (s : State) (b : Sounding) (f : Found) (o : Outcome) : State :=
  let p := b.polder
  let s := s.modRepair (fun r => { r with
    soundings := r.soundings.filter (fun x => x.polder != p)
    array := if p < 72 then tput r.array p o.array else r.array
    srams := o.srams
    queued := r.queued.filter (fun w => sramPolder w != p)
    retired := if o.retire && !r.retired.contains p then r.retired ++ [p]
      else if b.unq && !o.retire then r.retired.filter (· != p) else r.retired })
  let s := (s.forgetRows p).setFld (Reg.DK_P p) F.DK_P_SOUND o.result
  let s := o.left.foldl (fun (t : State) w => t.report ⟨0x63, 2, p, 0, 0, 0xFF, 0, [w]⟩) s
  s.report ⟨0x60, if o.result = 3 then 2 else 0, p, if p < 72 then 2 else 0, if p < 72 then p else 0, 0xFF, 0,
    [BitVec.ofNat 64 o.result, BitVec.ofNat 64 (f.rows.length + f.cols.length + f.srams.length + b01 f.fatal), BitVec.ofNat 64 (s.time - b.since)]⟩

/-- After a sounding a slot's Tile Store is zero; its setpoint is SPARE_VSET, and it is unpowered where it is RETIRED (R439). -/
def State.slotSounded (s : State) (p : Nat) (retire : Bool) : State :=
  let s := s.setSlot p (s.slot p).fresh
  if retire then s.setPace p 0 (s.fld (Reg.PACE_P p) F.PACE_P_CLASS) else s.sparePace p

/-- The settings in force for a polder (16 R429): setpoint, class and grants, and a sector's split and owner; before an
image is applied, those of boot (18 R475). -/
def State.takeSettings (s : State) (p : Nat) : State :=
  let x := s.inForce 2
  if s.bootNeeds then (s.setPace p 30 1).setGrants p
  else
  let s := if 72 ≤ p ∧ p < 80 then s.loadSplit (p - 72) (bCache (s.inForce 3) (p - 72)) (bOwner (s.inForce 3) (p - 72)) else s
  ((s.setPace p (bVset x p) (bClass x p)).setGrants p).wr (Reg.ZN_PEP p) (BitVec.ofNat 64 s.epoch)

/-- A polder that passed its sounding returns from quarantine; one that failed stays (R451). -/
def State.returned (s : State) (p result : Nat) (retire : Bool) : State :=
  let ok := result != 3 && !retire
  let s := s.report ⟨0x72, if ok then 0 else 2, p, 0, 0, 0xFF, 0, [BitVec.ofNat 64 result]⟩
  if !ok then s
  else
    let s := (s.setFld (Reg.DK_P p) F.DK_P_STATE 1).takeSettings p
    if p < 72 then s.sparePace p
    else if 94 ≤ p ∧ p < 98 then
      [2 * (p - 94), 2 * (p - 94) + 1].foldl (fun (t : State) l => if bit t.cfg.linkIn l then t.trainFl l else t) s
    else s

/-- A sounding of polder `p` ends. -/
def State.soundingDone (s : State) (p : Nat) (f : Found) : State :=
  match s.repair.soundings.find? (fun x => x.polder == p) with
  | none => s
  | some b =>
    if soundCloses p ∧ !b.unq ∧ !s.drained [p] p then s
    else
      let o := s.judge p f
      let s := s.soundRecord b f o
      let s := if p < 72 then s.slotSounded p o.retire else s
      let s := if 72 ≤ p ∧ p < 80 then s.setSector (p - 72) { s.sector (p - 72) with cache := [] } else s
      if b.unq then s.returned p o.result o.retire
      else if soundCloses p then s.setFld (Reg.DK_P p) F.DK_P_STATE 1
      else s

/-! ## Watch relief (R443 to R446) -/

/-- The time of the pause at floor pace in ns (R445). -/
def State.reliefTime (s : State) : Nat := cdiv ((2 * 16390 + s.dirtyLimit + 2466) * 2) 3 + 600

/-- Must a relief of slot `x` into a spare wait for other work? -/
def State.reliefWaits (s : State) (x : Nat) : Bool :=
  s.repair.relief.isSome || s.underWork x || s.zen.closing.contains x || (s.spares (x / 9)).isEmpty ||
    (s.spares (x / 9)).any (fun y => s.zen.closing.contains y)

/-- Preparation and the first copy pass: Y takes the setpoint, class and floor of X, a rise in steps of RAMP (15 R401). -/
def State.reliefStart (s : State) (id x : Nat) : State :=
  let y := (s.spares (x / 9)).headD x
  let s := ((s.rampUp (s.floor x - s.floor y)).setPace y (s.vset x) (s.fld (Reg.PACE_P x) F.PACE_P_CLASS)).setFld (Reg.CP_P y) F.CP_P_FLOOR (s.floor x)
  s.modRepair (fun r => { r with relief := some ⟨id, x, y, 0, [], false, false, s.time⟩ })

/-- A relief of logical core `id` is due: it starts, or waits; without a SPARE slot it is not made. `front`: ahead of what waits. -/
def State.reliefDue (s : State) (id : Nat) (front : Bool) : State :=
  match s.slotOf id with
  | none => s
  | some x =>
    let w : Waiting := ⟨true, id, s.time, false⟩
    if !s.hasSpare (x / 9) then s
    else if s.reliefWaits x then
      (s.modRepair (fun r => { r with waiting := if front then w :: r.waiting else r.waiting ++ [w] })).rpStatus 0x08
    else s.reliefStart id x

/-- RP_CTL RELIEVE. -/
def State.relieve (s : State) (id : Nat) : State :=
  match s.slotOf id with
  | none => s.rpLost
  | some x =>
    if s.rpBusy then s.rpLost
    else if !s.hasSpare (x / 9) then s.rpStatus 0x92
    else if s.reliefWaits x then s.reliefDue id false
    else (s.reliefStart id x).rpStatus 0

/-- A relief's record: slots, STATUS, dirty lines and pause in four words. -/
def State.reliefRecord (s : State) (r : Relief) (status pause : Nat) : State :=
  s.report ⟨0x61, if status = 0 then 0 else 1, 72 + r.x / 9, 1, r.lid, 0xFF, status,
    [BitVec.ofNat 64 (r.x + 2 ^ 32 * r.y), BitVec.ofNat 64 status, BitVec.ofNat 64 r.dirty.length, BitVec.ofNat 64 pause]⟩

/-- A relief of logical core `id` waits no longer. -/
def State.waitsNot (s : State) (id : Nat) : State :=
  s.modRepair (fun r => { r with waiting := r.waiting.filter (fun w => !(w.relief && w.what == id)) })

/-- A relief is abandoned: X goes on, Y is SPARE again. -/
def State.reliefAbandon (s : State) (status : Nat) : State :=
  match s.repair.relief with
  | none => s
  | some r =>
    let s := (s.modRepair (fun x => { x with relief := none })).waitsNot r.lid
    let s := if r.pause ∧ !r.was then s.tileHalt r.x false else s
    let s := if s.closed r.y then s else s.sparePace r.y
    s.reliefRecord r status 0

/-- The pause begins, where the passages allow it: contexts stop, a tile halt is requested (R444). Where they do not, the relief waits,
and is tried again as any that waits (14 R387, R441). -/
def State.reliefPause (s : State) (r : Relief) : State :=
  let cost := s.reliefTime
  match s.blocker [r.x] cost with
  | some _ =>
    let s := s.rpStatus 0x08
    if s.repair.waiting.any (fun w => w.relief && w.what == r.lid) then s
    else s.modRepair (fun x => { x with waiting := x.waiting ++ [⟨true, r.lid, s.time, false⟩] })
  | none =>
    let s := s.waitsNot r.lid
    let was := s.flag (Reg.TILE_CTL r.x) F.TILE_CTL_HALT
    let s := (s.charge (s.chargeable [r.x]) cost).tileHalt r.x true
    s.modRepair (fun x => { x with relief := some { r with
      pause := true
      was := was
      since := s.time } })

/-- A copy pass ends (R443). -/
def State.copyPassDone (s : State) : State :=
  match s.repair.relief with
  | none => s
  | some r =>
    if r.pause then s
    else
      let n := r.passes + 1
      if r.dirty.length ≤ s.dirtyLimit then s.reliefPause r
      else if s.passLimit ≤ n then (s.reliefAbandon 0x93).rpStatus 0x93
      else s.modRepair (fun x => { x with relief := some { r with
        passes := n
        dirty := [] } })

/-- A command of slot `x` as one of slot `y`. A DRS access names an offset, which leads where its window does. -/
def movedCmd (x : Nat) (y : Fin 72) : Instr → Instr
  | .numStatClear k v => .numStatClear (if k.val = x then y else k) v
  | .scoutWrite (.scout0 k) v => .scoutWrite (.scout0 (if k.val = x then y else k)) v
  | .scoutWrite (.scout1 k) v => .scoutWrite (.scout1 (if k.val = x then y else k)) v
  | .swi k on => .swi (if k.val = x then y else k) on
  | .go k => .go (if k.val = x then y else k)
  | .abort k => .abort (if k.val = x then y else k)
  | .halt k on => .halt (if k.val = x then y else k) on
  | .save k u => .save (if k.val = x then y else k) u
  | .restore k => .restore (if k.val = x then y else k)
  | .vrRegSave k u => .vrRegSave (if k.val = x then y else k) u
  | .vrRegRestore k => .vrRegRestore (if k.val = x then y else k)
  | .resume k i => .resume (if k.val = x then y else k) i
  | .cancel k i => .cancel (if k.val = x then y else k) i
  | .channelEnable (.core k c) v => .channelEnable (.core (if k.val = x then y else k) c) v
  | .channelReset (.core k c) => .channelReset (.core (if k.val = x then y else k) c)
  | c => c

/-- Is a command an access of the DRS by its offset? -/
def byOffset : Instr → Bool
  | .registerWrite _ _ _ _ => true
  | .drsRd _ _ _ _ _ => true
  | .drsWr _ _ _ _ _ => true
  | .hostCoreAccess _ _ _ _ _ => true
  | _ => false

/-- A held access of slot `x` acts at slot `y` (R446); one by an offset in slot `x`'s own window stays that slot's. -/
def heldMoved (x y : Nat) (e : Nat × Instr) : Nat × Instr :=
  if byOffset e.2 || decide (e.1 < slotBase x) || decide (slotBase x + 0x20000 ≤ e.1) then e
  else if h : y < 72 then (e.1 - slotBase x + slotBase y, movedCmd x ⟨y, h⟩ e.2) else e

/-- Frozen state moves to Y, the binding commits, and Y goes on; X is SPARE and is sounded (R444). -/
def State.reliefCommit (s : State) : State :=
  match s.repair.relief with
  | none => s
  | some r =>
    if !r.pause ∨ (s.slot r.x).halt ≠ .halted then s
    else
      let c := s.slot r.x
      let s := (s.setSlot r.y c).moveWindow r.x r.y
      let s := (s.bindCore r.lid r.y).wr (Reg.ZN_PEP r.y) (s.rd (Reg.ZN_PEP r.x))
      let s := { s with
        passages := s.passages.map (fun (q : Nat × Passage) => (q.1, { q.2 with
          paces := q.2.paces.map (fun (z : Nat × Nat × Nat) => if z.1 = r.x then (r.y, z.2) else z) }))
        leases := s.leases.map (fun (l : Lease) => if l.polder = r.x then { l with polder := r.y } else l)
        drsHeld := s.drsHeld.map (heldMoved r.x r.y) }
      let s := if r.was then s else s.tileHalt r.y false
      let s := ((s.setSlot r.x c.fresh).dropGrants r.x).setGrants r.y
      let s := s.modRepair (fun x => { x with relief := none })
      ((s.reliefRecord r 0 (s.time - r.since)).rpStatus 0).soundDue r.x

/-! ## The rotation (R441) -/

/-- The next step of a sector's rotation. Step 0 sounds the SPARE slot in place; step `j + 1` relieves the core in slot `j`, which
is sounded once it is vacated. Slots already sounded and RETIRED ones are skipped. -/
def State.rotate (s : State) (sec : Nat) : Nat → State
  | 0 => s
  | n + 1 =>
    let t := tget (0, 9) s.repair.turn sec
    let turn := fun (s : State) (j skip : Nat) => s.modRepair (fun r => { r with turn := tput r.turn sec (j, skip) })
    if t.1 = 0 then
      match (List.range' (9 * sec) 9).find? (fun k => (s.coreOf k).isNone && !s.isRetired k && !s.closed k) with
      | some k => (turn s 1 (k % 9)).soundDue k
      | none => s
    else if 10 ≤ t.1 then (turn s 0 9).rotate sec n
    else
      let k := 9 * sec + (t.1 - 1)
      let s := turn s (t.1 + 1) t.2
      if t.1 - 1 = t.2 ∨ s.isRetired k ∨ s.closed k then s.rotate sec n
      else
        match s.coreOf k with
        | some id => s.reliefDue id false
        | none => s.soundDue k

/-- The rotation of sector `sec` falls due: of its slots, or (`polder`) of its sector polder and the memory polders sounded with
it. Without a SPARE slot it has stopped, which one record says. -/
def State.soundingRotation (s : State) (sec : Nat) (polder : Bool) : State :=
  if s.periodH = 0 then s
  else if polder then
    ((84 + sec) :: (if sec < 2 then [92 + sec] else [])).foldl (fun (t : State) p => if t.present p then t.soundDue p else t) (s.soundDue (72 + sec))
  else if !s.hasSpare sec then
    if tget (0, 9) s.repair.turn sec = (0, 10) then s
    else (s.modRepair (fun r => { r with turn := tput r.turn sec (0, 10) })).report
      ⟨0x63, 2, 72 + sec, 0, 0, 0xFF, 0, [BitVec.ofNat 64 sec]⟩
  else s.rotate sec 12

/-- The relief of logical core `id` that is in progress, before its pause. -/
def State.reliefOf (s : State) (id : Nat) : Option Relief :=
  s.repair.relief.filter (fun r => r.lid == id && !r.pause)

/-- A waiting relief or sounding is tried again; one that has waited longer than PERIOD_H is recorded once (R441). -/
def State.soundingRetry (s : State) (i : Nat) : State :=
  match s.repair.waiting[i]? with
  | none => s
  | some w =>
    let waited := s.time - w.since
    let late := !w.late && decide (s.periodH * 3600000000000 < waited)
    let s := if late then
        s.report ⟨0x64, 1, if w.relief then 72 + w.what / 8 else w.what, if w.relief then 1 else 0, if w.relief then w.what else 0, 0xFF, 0,
          [BitVec.ofNat 64 waited]⟩
      else s
    let s := s.modRepair (fun r => { r with waiting := r.waiting.modify i (fun (x : Waiting) => { x with late := x.late || late }) })
    let gone := s.modRepair (fun r => { r with waiting := r.waiting.eraseIdx i })
    if w.relief then
      match s.reliefOf w.what, s.slotOf w.what with
      | some r, _ =>
        if r.dirty.length ≤ s.dirtyLimit ∧ (s.blocker [r.x] s.reliefTime).isNone then (s.reliefPause r).rpStatus 0 else s
      | none, none => gone
      | none, some x =>
        if !s.hasSpare (x / 9) then gone.rpStatus 0x92 else if s.reliefWaits x then s else (gone.reliefStart w.what x).rpStatus 0
    else if !s.soundable w.what then gone
    else if s.soundWaits w.what then s
    else (gone.soundStart w.what false).rpStatus 0

end Sys2Proof.Machine
end

