-- ==== Sys2Proof/Machine/Semaphores.lean ====
section
/-!
DEFINITION. Machine/Semaphores.lean: the keep polder's semaphores (17 R452, R453).
-/

namespace Sys2Proof.Machine

/-- The operations of SEM_CMDa. -/
inductive SemOp where
  | down
  | up
  | init (value : Nat)
  deriving DecidableEq, Repr

def State.semValue (s : State) (n : Nat) : Nat := s.fld (Reg.SEM_V n) F.SEM_V_VALUE
def State.semAbandoned (s : State) (n : Nat) : Bool := s.flag (Reg.SEM_V n) F.SEM_V_ABANDONED
def State.semOwned (s : State) (n : Nat) : Bool := s.flag (Reg.SEM_V n) F.SEM_V_OWNED

/-- A semaphore's word. -/
def semWord (abandoned owned owner value : Nat) : Word :=
  putF (putF (putF (putF 0 F.SEM_V_ABANDONED abandoned) F.SEM_V_OWNED owned) F.SEM_V_OWNER owner) F.SEM_V_VALUE value

/-- STATUS of a command on semaphore `n` for `owner`, and the semaphore's new word (R452). -/
def State.semResult (s : State) (op : SemOp) (owner n : Nat) : Nat × Word :=
  let v := s.semValue n
  if owner = 99 ∨ !s.present owner then (0x82, s.rd (Reg.SEM_V n))
  else
    match op with
    | .down =>
      if s.semAbandoned n then (0x07, semWord 0 1 owner v)
      else if v = 0 then (0x09, s.rd (Reg.SEM_V n))
      else if v = 1 then (0x00, semWord 0 1 owner 0)
      else (0x00, putF (s.rd (Reg.SEM_V n)) F.SEM_V_VALUE (v - 1))
    | .up =>
      if s.semAbandoned n then (0x09, s.rd (Reg.SEM_V n))
      else if v = 2 ^ 32 - 1 then (0x06, s.rd (Reg.SEM_V n))
      else (0x00, semWord 0 0 0 (v + 1))
    | .init x => (0x00, semWord 0 0 0 x)

/-- Agent `a` (0 to 7 the host cores, 8 the host attach port) gives a command; SEM_RESa shows how it completed. -/
def State.semCommand (s : State) (a : Nat) (op : SemOp) (owner n : Nat) : State :=
  let r := s.semResult op owner n
  let s := s.wr (Reg.SEM_V n) r.2
  s.wr (Reg.SEM_RES a) (putF (putF (putF 0 F.SEM_RES_DONE 1) F.SEM_RES_STATUS r.1) F.SEM_RES_VALUE (s.semValue n))

/-- A write of SEM_CMDa by its agent. -/
def State.semWrite (s : State) (a : Nat) (v : Word) : State :=
  let go := fun (op : SemOp) => s.semCommand a op (getF v F.SEM_CMD_OWNER) (getF v F.SEM_CMD_SEM)
  match getF v F.SEM_CMD_OP with
  | 1 => go .down
  | 2 => go .up
  | 3 => go (.init (getF v F.SEM_CMD_VALUE))
  | _ => s

/-- The semaphores a polder owns. -/
def State.semsOf (s : State) (p : Nat) : List Nat :=
  (List.range 256).filter (fun n => s.semOwned n && s.fld (Reg.SEM_V n) F.SEM_V_OWNER == p)

/-- A polder's semaphores become ABANDONED, each with a record (R453). -/
def State.abandonSems (s : State) (p : Nat) : State :=
  (s.semsOf p).foldl (fun (t : State) n =>
    (t.wr (Reg.SEM_V n) (semWord 1 0 0 (t.semValue n))).report
      ⟨0x73, 2, 99, 0, n, 0xFF, 0, [BitVec.ofNat 64 n, BitVec.ofNat 64 p]⟩) s

end Sys2Proof.Machine
end

