-- ==== Sys2Proof/Machine/Quarantine.lean ====
section
/-!
DEFINITION. Machine/Quarantine.lean: quarantine of a polder and the revocation of its leases (17 R447 to R451, 18 R473), and
what upsets in SRAM lead to (05 R124, 17 R437, R438).
-/

namespace Sys2Proof.Machine

/-! ## Leases (R449) -/

/-- Does a tag slot's reduction run over link polder `p`? -/
def State.tagVia (s : State) (p : Nat) (t : TagSlot) : Bool :=
  (s.ranksOf t.fleet).2.any (fun node => node != s.cfg.ownNode && (match s.routeTo node with | some l => 94 + l / 2 == p | none => false))

/-- The tags that a polder carries: of its NMUs, or over its links. -/
def State.tagsOf (s : State) (p : Nat) : List Nat :=
  (s.nmus.flatMap (fun (x : Nat × Nmu) => (x.2.tags.filter (fun (q : Nat × TagSlot) =>
    !q.2.ended && ((84 + x.1 / 2 == p) || (decide (94 ≤ p) && decide (p < 98) && s.tagVia p q.2)))).map (fun (q : Nat × TagSlot) => q.2.tag))).dedup

/-- Passages that hold a lease on a polder; a spine half holds none (14 R385). -/
def State.passagesOf (s : State) (p : Nat) : List Nat :=
  if p = 80 ∨ p = 81 then [] else (s.passages.filter (fun x => (s.footprint x.2).contains p)).map (fun x => x.1)

/-- Sessions of the polder's fleet that it has contributed to in their current generation (09 R259). -/
def State.sessionsOf (s : State) (p : Nat) : List Nat :=
  (List.range 32).filter (fun c => s.cnState c != 0 && (s.cn c).contributors.contains p &&
    (decide (72 ≤ p) || s.slotFleet p == some (s.fld (Reg.CN_CFG c) F.CN_CFG_FLEET)))

/-- Streams of a slot that hold a convoy position. -/
def State.convoysOf (s : State) (p : Nat) : List Nat :=
  if p < 72 then (List.range 32).filter (fun i => (s.strm p i).state != .idle && hConvoy (s.strm p i).header) else []

/-- Ring reservations of a polder. -/
def State.ringsOf (s : State) (p : Nat) : List Lease := s.leases.filter (fun l => l.kind == 1 && l.polder == p)

/-- The kinds of lease that a polder holds, as bits. -/
def State.leaseKinds (s : State) (p : Nat) : Nat :=
  b01 (s.net.any (fun x => s.polderOf x.src == p)) + 2 * b01 (!(s.ringsOf p).isEmpty) +
  4 * b01 (decide (0 < s.floor p + s.granted p + s.standing p)) + 8 * b01 (!(s.tagsOf p).isEmpty) +
  16 * b01 (!(s.semsOf p).isEmpty) + 32 * b01 (!(s.convoysOf p).isEmpty) + 64 * b01 (!(s.passagesOf p).isEmpty) +
  128 * b01 (!(s.sessionsOf p).isEmpty)

/-- DK_P.SLOT: where no map has been loaded yet, 0; before an image is applied the loaded map's byte, or RETIRED (00 R7, 17 R434). -/
def State.slotShown (s : State) (k : Nat) : Nat :=
  if s.isRetired k then 0xF
  else if !s.bootNeeds then s.slotByte k
  else if s.fld Reg.RST_STAT F.RST_STAT_PHASE = 0 then 0
  else im s.storedMap k 1

/-- DK_Pn (17 R459). -/
def State.dkP (s : State) (n : Nat) : Word :=
  let w := putF (s.rd (Reg.DK_P n)) F.DK_P_LEASES (s.leaseKinds n)
  putF w F.DK_P_SLOT (if n < 72 then s.slotShown n else 0)

/-- The responder of a request is gone: the requester's own message unit writes the reply (09 R249). -/
def State.revokeRing (s : State) (l : Lease) : State :=
  let kind := l.a / 64
  let sid := l.a % 64
  let m := ownReply kind sid (l.c / 2 ^ 16) 0x0E (l.c % 2 ^ 16) l.d
  let go := fun (h : Home) => (s.withAnswers (fun s => ((), (s.writeEntry h m).unreserve h))).2
  if kind = 1 then go (.host l.b)
  else match s.slotOf sid with
    | some k => if s.closed k then s else go (.core k l.b)
    | none => s

/-- Streams that put convoy tiles to a core end (08 R229). -/
def State.endUpstream (s : State) (id : Nat) : State :=
  (List.range 72).foldl (fun (t : State) k => if t.closed k then t else
    (List.range 32).foldl (fun (u : State) i =>
      let h := (u.strm k i).header
      if (u.strm k i).state ≠ .idle ∧ hConvoy h ∧ hKind h = some .put ∧ hDcore h = id then u.endStrm k i 0x0E else u) t) s

/-- Every lease of a polder is revoked, by its kind. -/
def State.revoke (s : State) (p : Nat) : State :=
  let rings := s.ringsOf p
  let tags := s.tagsOf p
  let s := { s with leases := s.leases.filter (fun l => l.polder != p && !(decide (l.a < 64) && s.slotOf l.a == some p)) }
  let s := rings.foldl (fun (t : State) l => t.revokeRing l) s
  let s := s.nmus.foldl (fun (t : State) (x : Nat × Nmu) => if 84 + x.1 / 2 = p then t else
    x.2.tags.foldl (fun (u : State) (q : Nat × TagSlot) => if tags.contains q.2.tag ∧ !q.2.ended then u.stopTag x.1 q.2.tag 0x0E else u) t) s
  let s := s.abandonSems p
  let s := match s.coreOf p with | some id => s.endUpstream id | none => s
  let s := (s.passagesOf p).foldl (fun (t : State) q => t.revokePassage q) s
  (s.sessionsOf p).foldl (fun (t : State) c =>
    let u := t.cnCancel c 0x0E
    u.report ⟨0x33, 1, 80 + c / 16, 6, c, u.fld (Reg.CN_CFG c) F.CN_CFG_FLEET, 0x0E, [u.cnStat c, u.rd (Reg.CN_COUNT c)]⟩) s

/-! ## Packets (R448) -/

/-- What a closed dike does with a packet for its polder: request-plane packets are refused, transfers end, replies are dropped;
a REL whose signal is stopped ends too. -/
def State.bounce (s : State) (p : Packet) : State :=
  let back := fun (b : Payload) => s.send .reply p.dst p.src b
  match p.body with
    | .tallySig ks q t _ _ _ => s.relAck p.src ks q t 0x0E
    | .wordSig ks q t _ _ _ _ => s.relAck p.src ks q t 0x0E
    | b => if p.plane = .reply then s else match b with
    | .put xid _ _ _ => back (.xferAck xid 0x0E)
    | .mem xid req => if req.write then back (.xferAck xid 0x0E) else s.send .data p.dst p.src (.xferData xid 0x0E [])
    | .delta to_ xid blk _ =>
      (match p.src with | .port o => s.releaseHeld o blk | _ => s).send .reply p.dst to_ (.xferAck xid 0x0E)
    | .msg ch m => back (.refusal ch m.entry 0x0E m)
    | .bulk xid _ _ _ => back (.bulkAck xid 0x0E)
    | .result gen _ _ _ => back (.resultAck gen)
    | .deliver tag _ _ _ => back (.deliverAck tag 0x0E 0)
    | _ => s

/-- What becomes of a packet that a lost polder or half had on its way to another: answers tell the operation's end; what
settles a message stays; the rest is lost. -/
def lostAnswer (p : Packet) : Option Packet :=
  match p.body with
  | .xferData xid _ _ => some { p with body := .xferData xid 0x0E [] }
  | .xferAck xid _ => some { p with body := .xferAck xid 0x0E }
  | .bulkAck xid _ => some { p with body := .bulkAck xid 0x0E }
  | .deliverAck tag _ n => some { p with body := .deliverAck tag 0x0E n }
  | .delta to_ xid _ _ => some ⟨.reply, p.src, to_, .xferAck xid 0x0E⟩
  | .admission _ _ => some p
  | .refusal _ _ _ _ => some p
  | .wake _ => some p
  | .resultAck _ => some p
  | _ => none

/-- Packets into a polder meet its closed dikes; packets out of it are lost. -/
def State.purge (s : State) (p : Nat) : State :=
  let here := fun (e : Endpoint) => s.polderOf e == p
  let host := fun (x : Packet) => match x.body, x.dst with | .msg _ _, .host _ => true | _, _ => false
  let into := s.net.filter (fun x => here x.dst && !here x.src && !host x)
  let net := s.net.filterMap (fun x =>
    if here x.src then (if here x.dst && !host x then none else lostAnswer x)
    else if here x.dst && !host x then none else some x)
  into.foldl (fun (t : State) x => t.bounce x) { s with net := net }

/-- A packet that a lost spine half had on its way, or that finds no half left: its operation ends QUARANTINED (R450). -/
def State.cut (s : State) (x : Packet) : State :=
  match s.cutForm x with
  | some y => { s with net := s.net ++ [y] }
  | none => s.bounce x

/-- Operations with a packet in a lost spine half end QUARANTINED (R450); a reply arrives with that status. -/
def State.purgeHalf (s : State) (cross : List Packet) : State :=
  cross.foldl (fun (t : State) x => t.cut x) { s with net := s.net.filter (fun x => !cross.contains x) }

/-- Senders that wait for a channel or intake of the polder send again, and are refused at its dike. -/
def State.wakeWaiters (s : State) (p : Nat) : State :=
  let wake := fun (t : State) (self : Endpoint) (c : Nat) (w : Nat × Nat) => t.send .reply self (senderEnd w.1 w.2) (.wake c)
  if p < 72 then
    (s.slot p).chWait.foldl (fun (t : State) (x : Nat × List (Nat × Nat)) => x.2.foldl (fun (u : State) w => wake u (.core (s.idOf p)) x.1 w) t) s
  else if 84 ≤ p ∧ p < 94 then
    [2 * (p - 84), 2 * (p - 84) + 1].foldl (fun (t : State) n => (s.nmu n).wait.foldl (fun (u : State) w => wake u (.nmu n) 0 w) t) s
  else s

/-! ## By kind of polder (R450, 18 R473) -/

/-- A slot: its kernel's record commits; its core goes to a SPARE slot, or is UNBOUND; it is RETIRED. -/
def State.loseSlot (s : State) (k : Nat) : State :=
  let s := if s.klState k = 0 then s else s.commitRecord k 0x0E
  let c := s.slot k
  let core := s.coreOf k
  let stat := s.rd (Reg.KL_STAT k)
  let done := s.rd (Reg.KL_DONE k)
  let s := (((s.setSlot k c.fresh).clearWindow k).wr (Reg.KL_STAT k) stat).wr (Reg.KL_DONE k) done
  let s := s.modRepair (fun r => { r with retired := if r.retired.contains k then r.retired else r.retired ++ [k] })
  match core with
  | none => s
  | some id =>
    match (if s.autoRebind && !s.closed (72 + k / 9) then (s.spares (k / 9)).head? else none) with
    | some y =>
      let s := ((s.setSlot y c.fresh).clearWindow y).bindCore id y
      let s := s.setPace y (s.vset k) (s.fld (Reg.PACE_P k) F.PACE_P_CLASS)
      (s.wr (Reg.ZN_PEP y) (s.rd (Reg.ZN_PEP k))).setGrants y
    | none => { s with bind := tput s.bind id unbound }

/-- A sector: its pool's contents are lost, and read as undefined bytes. -/
def State.loseSector (s : State) (sec : Nat) : State :=
  let g := s.free + 1
  { s with free := g }.setSector sec { Sector.reset with poolGen := (List.range 16).map (fun m => (m, g)) }

/-- The combining nodes of a spine half: their sessions end. -/
def State.loseHalf (s : State) (h : Nat) : State :=
  (List.range' (16 * h) 16).foldl (fun (t : State) c =>
    if t.cnState c = 0 then t
    else
      let u := t.cnCancel c 0x0E
      (u.setCn c { u.cn c with queue := [] }).report
        ⟨0x33, 1, 80 + h, 6, c, u.fld (Reg.CN_CFG c) F.CN_CFG_FLEET, 0x0E, [u.cnStat c, u.rd (Reg.CN_COUNT c)]⟩) s

/-- A memory polder: ports LOST, NMU commands gone. -/
def State.loseMemory (s : State) (m : Nat) : State :=
  [2 * m, 2 * m + 1].foldl (fun (t : State) p => (t.loseMp p).modNmu p (fun c => { Nmu.reset with staging := c.staging })) s

/-- Host cores that can still work. -/
def State.workingHart (s : State) : Option Nat :=
  (List.range s.opts.hostCores).find? (fun a => !s.closed (if a < 4 then 82 else 83))

/-- A host-complex polder: its cores stop; cache lines last used by them, and with P82 the shared cache, are lost; what named
its cores moves to the lowest working one, and without one the channels close (18 R473). -/
def State.loseHosts (s : State) (p : Nat) : State :=
  let mine := fun (a : Nat) => if p = 82 then decide (a < 4) else decide (4 ≤ a)
  let s := s.setFld Reg.HC_CTL F.HC_CTL_RUN (if p = 82 then s.fld Reg.HC_CTL F.HC_CTL_RUN / 16 * 16 else s.fld Reg.HC_CTL F.HC_CTL_RUN % 16)
  let s := { s with
    hcache := s.hcache.filter (fun (l : HLine) => !mine l.hart)
    hostSend := s.hostSend.filter (fun (x : Nat × List SendEntry) => !mine x.1)
    hostRes := s.hostRes.filter (fun (x : Nat × HostRes) => !mine x.1) }
  match s.workingHart with
  | none => (List.range 32).foldl (fun (t : State) c => t.setFld (Reg.HCH_CFG c) F.CH_CFG_EN 0) s
  | some w =>
    let s := (List.range 32).foldl (fun (t : State) c =>
      if mine (t.fld (Reg.HCH_CFG c) F.HCH_CFG_HART) then t.setFld (Reg.HCH_CFG c) F.HCH_CFG_HART w else t) s
    let s := if mine (s.fld Reg.AL_ROUTE F.AL_ROUTE_HART) then s.setFld Reg.AL_ROUTE F.AL_ROUTE_HART w else s
    { s with net := s.net.map (fun (x : Packet) => match x.body, x.dst with
      | .msg _ _, .host a => if mine a then { x with dst := .host w } else x
      | _, _ => x) }

/-- The host attach polder: HA_RDY drops, outbound host-memory transfers end (18 R473). -/
def State.loseAttach (s : State) : State :=
  let s := { s.setFld Reg.HA_STAT F.HA_STAT_STATE 2 with
    haOut := []
    nprIn := []
    puts := []
    haCredits := (0, 0) }
  s.hm.foldl (fun (t : State) r => t.hmEnd r 0x0E []) s

def State.losePolder (s : State) (p : Nat) : State :=
  if p < 72 then s.loseSlot p
  else if p < 80 then s.loseSector (p - 72)
  else if p < 82 then s.loseHalf (p - 80)
  else if p < 84 then s.loseHosts p
  else if p < 94 then s.loseMemory (p - 84)
  else if p < 98 then (s.loseFl (2 * (p - 94))).loseFl (2 * (p - 94) + 1)
  else s.loseAttach

/-! ## Quarantine (R447, R448) -/

/-- Relief, sounding and waiting work on a polder are abandoned. -/
def State.abandonWork (s : State) (p : Nat) : State :=
  let s := match s.repair.relief with
    | some r => if r.x = p ∨ r.y = p then s.reliefAbandon 0x0E else s
    | none => s
  s.modRepair (fun r => { r with
    soundings := r.soundings.filter (fun x => x.polder != p)
    waiting := r.waiting.filter (fun x => if x.relief then s.slotOf x.what != some p else x.what != p) })

/-- A configuration change that was closing the polder, or was about to, counts it as done (16 R429). -/
def State.zenSkip (s : State) (p : Nat) : State :=
  if !s.zen.closing.contains p then
    (if s.znState = 3 ∧ s.zen.closing.isEmpty ∧ !s.zen.plan.isEmpty then s.zenAdvance (s.zen.plan.length + 1) else s)
  else
    let c := s.zen.closing.filter (· != p)
    match c, s.zen.plan with
    | [], x :: xs =>
      let s := x.what.foldl (fun (t : State) y => t.applyChange y) s
      ({ s with zen := { s.zen with
        plan := xs
        closing := []
        charged := [] } }).zenAdvance (xs.length + 1)
    | _, _ => { s with zen := { s.zen with closing := c } }

/-- One polder is quarantined, all of R448 at once. -/
def State.quarantineOne (s : State) (p cause : Nat) : State :=
  let kinds := s.leaseKinds p
  let cross := if p = 80 ∨ p = 81 then s.net.filter (fun x => s.halfOf x.src x.dst == some (p - 80)) else []
  let s := s.abandonWork p
  let s := (s.setFld (Reg.DK_P p) F.DK_P_STATE 3).setFld (Reg.DK_P p) F.DK_P_CAUSE cause
  let s := ((s.riskPolder 0x70 p).purgeHalf cross).purge p
  let s := ((s.wakeWaiters p).revoke p).losePolder p
  let s := (s.dropGrants p).setPace p 0 (s.fld (Reg.PACE_P p) F.PACE_P_CLASS)
  let s := s.setFld (Reg.DK_P p) F.DK_P_STATE 4
  let s := s.report ⟨0x70, 3, p, 0, 0, 0xFF, 0, [BitVec.ofNat 64 cause, s.dkP p]⟩
  let s := s.report ⟨0x71, 2, p, 0, 0, 0xFF, 0, [BitVec.ofNat 64 kinds]⟩
  s.zenSkip p

/-- A polder is quarantined; with a sector polder go its nine slots. The keep polder never is, nor one that already is. -/
def State.quarantine (s : State) (p cause : Nat) : State :=
  if !s.present p ∨ p = 99 ∨ s.closed p then s
  else if 72 ≤ p ∧ p < 80 then
    let s := s.setFld (Reg.DK_P p) F.DK_P_STATE 3
    let s := (List.range' (9 * (p - 72)) 9).foldl (fun (t : State) k => if t.closed k then t else t.quarantineOne k 5) s
    s.quarantineOne p cause
  else s.quarantineOne p cause

/-- RP_CTL QUARANTINE. -/
def State.quarantineCmd (s : State) (p : Nat) : State :=
  if s.rpBusy ∨ !s.present p ∨ p = 99 ∨ s.closed p then s.rpLost else (s.quarantine p 4).rpStatus 0

/-! ## Upsets (05 R124, 17 R437, R438) -/

/-- A corrected error: counted, counted against its row, and at CE_LIMIT the bound slot is relieved next (R441). -/
def State.corrected (s : State) (w : Word) : State :=
  let p := sramPolder w
  let s := (s.errCount (Reg.RAS_P p) F.RAS_P_CE (Reg.RAS_P p) F.RAS_P_CE_SAT 0 p).rowError w
  let on := decide (p < 72) && s.autoRelief && decide (s.ceLimit ≤ s.fld (Reg.RAS_P p) F.RAS_P_CE)
  match (if on then s.coreOf p else none) with
  | some id =>
    if s.repair.waiting.any (fun x => x.relief && x.what == id) || (match s.repair.relief with | some r => r.x == p | none => false) then s
    else s.reliefDue id true
  | none => s

/-- The running command of an NMU meets an error: it ends with 0x0B at its unit (12 R322). -/
def State.runError (s : State) (n : Nat) : State :=
  s.modNmu n (fun c => { c with run := c.run.map (fun (r : Run) => if r.status = 0 then { r with status := 0x0B } else r) })

/-- A word of staging of NMU `n` is in error: the command that reads it ends with 0x0B. -/
def State.stagingError (s : State) (n a : Nat) : State :=
  if 0x200000 ≤ a then
    match s.tagSlot n (a % 2 ^ 20 / 0x4000) with
    | some t => if t.ended || t.status != 0 then s else s.setTag n { t with status := 0x0B }
    | none => s
  else
    match (s.nmu n).headRed 0x50 with
    | some m =>
      if overlaps m.pblk 64 (a / 8 * 8) 8 then (s.takeRed n m).nmuRecord n m 0x0B ((Run.start m (s.pblkOf n m) 0x0B).record 0 0)
      else s.runError n
    | none => s.runError n

/-- A double-bit error, by where it lies. The address of a word of a sector polder is its place in the 16 MiB of SRAM, whose
addressable part comes first; `n` is the NMU whose command met an error in staging: in the tag windows and moorings the tag of that slot
(12 R316), in the block of the TAGRES that is next that one, else the command that runs. -/
def State.uncorrected (s : State) (n : Nat) (w addr : Word) : State :=
  let p := sramPolder w
  let s := (s.errCount (Reg.RAS_P p) F.RAS_P_UE (Reg.RAS_P p) F.RAS_P_UE_SAT 0 p).report
    ⟨0x51, 3, p, 0, 0, 0xFF, 0, [w, addr]⟩
  if p < 72 then s.quarantine p 1
  else if p < 80 then
    let sec := p - 72
    let a := addr.toNat
    if a < s.poolSize sec then
      let c := s.sector sec
      s.setSector sec { c with bad := if c.bad.contains (a / 8) then c.bad else c.bad ++ [a / 8] }
    else
      let sets := s.cacheSets sec
      let i := (a - s.poolSize sec) / 256
      let c := s.sector sec
      if sets = 0 then s
      else s.setSector sec { c with cache := tput c.cache (i % sets) ((tget [] c.cache (i % sets)).eraseIdx (i / sets)) }
  else if 84 ≤ p ∧ p < 94 ∧ 84 + n / 2 = p then
    s.stagingError n addr.toNat
  else s

/-- What a command of slot `k`, or of NMU `n`, meets in SRAM. -/
def State.upset (s : State) (k n : Nat) (u : Upset) : State :=
  match u with
  | .none => s
  | .flag =>
    let s := s.setFld (Reg.TILE_STAT k) F.TILE_STAT_FLAG_ERR 1
    (s.report ⟨0x52, 1, k, 2, k, 0xFF, 0, [s.tileStat k]⟩).modSlot k (fun c => { c with firstFull := true })
  | .one w => s.corrected w
  | .two w a => s.uncorrected n w a

end Sys2Proof.Machine
end

