-- ==== Sys2Proof/Machine/Boot.lean ====
section
/-!
DEFINITION. Machine/Boot.lean: cold and warm reset and what boot loads (18 R474 to R477; 15 R409, R411; 17 R436, R457).
A reset runs as one event; what pins, supplies, flash, host memory and hardware contribute comes with the command.
-/

namespace Sys2Proof.Machine

/-! ## The non-volatile store at boot (15 R409) -/

/-- The valid batches of the ring: SEQ and body. -/
def State.nvBatches (s : State) : List (Nat × List Byte) :=
  (List.range batchPlaces).filterMap (fun i => s.nvValid 4 (0x34000 + i * batchBytes) batchBytes)

/-- The largest record number in a list of batches. -/
def topRecord (bs : List (Nat × List Byte)) : Nat :=
  (bs.flatMap (fun b => (List.range (b.2.length / 64)).map (fun i => im b.2 (64 * i) 8))).foldl max 0

/-- NV_LOST: bit `k` for area `k` without a valid record. -/
def State.nvLost (s : State) (bs : List (Nat × List Byte)) : Nat :=
  b01 (s.nvNewest .repair).isNone + 2 * b01 (s.nvNewest .ledger).isNone + 4 * b01 (s.nvNewest .epoch).isNone +
    8 * b01 (s.nvNewest .berm).isNone + 16 * b01 bs.isEmpty

/-- The boot ROM takes the newest records: NV_STAT, BERM_LAST, the wear ledger (zero where there is none), the stored epoch and SVN_MIN, and the number of the next Logbook
record (17 R457); areas without a record and a save cut short are recorded. -/
def State.loadNv (s : State) : State :=
  let bs := s.nvBatches
  let lost := s.nvLost bs
  let berm := s.nvNewest .berm
  let q := match berm with | some (_, q, _) => q | none => 0
  let body := match berm with | some (_, _, b) => b | none => []
  let found := decide (s.bermSeen < q)
  let done := found && s.bermDone == q
  let ep := match s.nvNewest .epoch with | some (_, _, b) => b | none => []
  let top := topRecord bs
  let next := max (s.rd Reg.LB_NEXT).toNat (if done then im body 16 8 + im body 24 4 + 1 else top + 65537)
  let st := putF (putF (putF (putF 0 F.NV_STAT_NV_LOST lost) F.NV_STAT_BERM_FOUND (b01 found)) F.NV_STAT_BERM_CUT
    (b01 (found && !done))) F.NV_STAT_LOST_TAIL (im body 24 4)
  let s := { s with
    bermSeen := max s.bermSeen q
    batchSeq := (bs.map (fun (b : Nat × List Byte) => b.1)).foldl max 0
    ledger := match s.nvNewest .ledger with | some (_, _, b) => writeBytes zeroByte [] 0 b | none => []
    life := if (s.nvNewest .ledger).isSome then s.lifeKept else []
    keptSeq := top }
  let s := ((s.wr Reg.NV_STAT st).wr Reg.BERM_LAST (BitVec.ofNat 64 (im body 0 8))).wr Reg.ZN_EPOCH (BitVec.ofNat 64 (im ep 0 8))
  let s := (s.setFld Reg.ZN_COMPAT F.ZN_COMPAT_SVN_MIN (im ep 16 8)).wr Reg.LB_NEXT (BitVec.ofNat 64 next)
  let s := (setBits 5 lost).foldl (fun (t : State) _ => t.report ⟨3, 2, 99, 0, 0, 0xFF, 0, [st]⟩) s
  if found && !done then
    s.report ⟨2, 2, 99, 0, 0, 0xFF, 0, (List.range 3).map (fun i => BitVec.ofNat 64 (im body (8 * i) 8))⟩
  else s

/-! ## The repair map at boot (17 R436) -/

/-- Lane spares, array and SRAM remaps and retired slots of the stored map. -/
def State.loadMap (s : State) : State :=
  let b := s.storedMap
  let s := s.modRepair (fun r => { r with
    retired := (List.range 72).filter (fun k => im b k 1 == 0xF)
    array := ((List.range 72).map (fun k => (k, im b (72 + 4 * k) 4))).filter (fun (p : Nat × Nat) => p.2 != 0xFFFFFFFF)
    srams := (List.range (im b 456 4)).map (fun i => BitVec.ofNat 64 (im b (464 + 8 * i) 8)) })
  let s := (List.range s.opts.memPorts).foldl (fun (t : State) p => t.wr (Reg.MP_LANES p) (BitVec.ofNat 64 (im b (360 + 4 * p) 4))) s
  (List.range s.opts.linkPorts).foldl (fun (t : State) l => t.wr (Reg.FL_LANES l) (BitVec.ofNat 64 (im b (440 + 2 * l) 2))) s

/-- The map's slot of a logical core, where it is not RETIRED. -/
def State.mappedSlot (s : State) (b : List Byte) (id : Nat) : Option Nat :=
  (List.range' (9 * (id / 8)) 9).find? (fun k => im b k 1 == id % 8 && !s.isRetired k)

/-- Bindings: the map's; a logical core whose slot failed its sounding takes a spare slot of its sector, the lowest one left, or
stays UNBOUND (01 R14). -/
def State.loadBindings (s : State) : State :=
  let b := s.storedMap
  let s := (List.range 64).foldl (fun (t : State) id => match t.mappedSlot b id with
    | some k => t.bindCore id k
    | none => { t with bind := tput t.bind id unbound }) s
  (List.range 64).foldl (fun (t : State) id =>
    if (t.slotOf id).isSome ∨ !(List.range' (9 * (id / 8)) 9).any (fun k => im b k 1 == id % 8) then t
    else match (List.range' (9 * (id / 8)) 9).find? (fun k => (t.coreOf k).isNone && !t.isRetired k) with
      | some k => t.bindCore id k
      | none => t) s

/-! ## Power, training and soundings at boot (18 R475 steps 3 to 5) -/

/-- Every port is in service until an image says otherwise; standing grants are taken, and every present polder that is not RETIRED goes
to 0.75 V in class 95; P98 opens, and HA_RDY rises where HA_CLK runs. -/
def State.raise (s : State) (haClk : Bool) : State :=
  let s := { s with cfg := { s.cfg with
    memIn := 2 ^ s.opts.memPorts - 1
    linkIn := 2 ^ s.opts.linkPorts - 1 } }
  let s := polders.foldl (fun (t : State) n =>
    if t.present n && !t.isRetired n then (t.setPace n 30 1).setGrants n else t) s
  (s.setFld Reg.HA_STAT F.HA_STAT_STATE (b01 haClk)).setFld Reg.IO_STAT F.IO_STAT_HA_CLK_RUN (b01 haClk)

/-- A training without its result in the command finds every lane good. -/
def goodTraining : Trained := ⟨true, [], [], 0⟩

/-- Memory port `p` trains, with up to three attempts. -/
def State.bootMp (s : State) (p : Nat) (r : Trained) : State :=
  let t := s.trainMp p false
  if r.ok then t.trainingDone p true r.badRx r.badTx
  else ((t.trainingDone p false [] []).trainingDone p false [] []).trainingDone p false [] []

/-- Filic port `l` trains, with up to three attempts. -/
def State.bootFl (s : State) (l : Nat) (r : Trained) : State :=
  let t := s.trainFl l
  if r.ok then t.flTrainingDone l true r.node r.badRx r.badTx
  else
    let miss := fun (t : State) => t.flTrainingDone l false 0 r.badRx r.badTx
    miss (miss (miss t))

def State.bootTrain (s : State) (b : BootIn) : State :=
  let s := (List.range s.opts.memPorts).foldl (fun (t : State) p => t.bootMp p (b.mem.getD p goodTraining)) s
  (List.range s.opts.linkPorts).foldl (fun (t : State) l => t.bootFl l (b.links.getD l goodTraining)) s

/-- The sounding of slot or sector polder `p` at cold reset. -/
def State.bootSound (s : State) (p : Nat) (f : Found) : State :=
  let o := s.judge p f
  let s := s.soundRecord ⟨p, s.time, false⟩ f o
  if p < 72 then s.slotSounded p o.retire else s

def noFault : Found := ⟨[], [], [], false, true⟩

/-- Soundings of every slot that is not RETIRED and of every sector polder. -/
def State.bootSoundings (s : State) (found : List (Nat × Found)) : State :=
  (List.range 80).foldl (fun (t : State) p => if t.isRetired p then t else t.bootSound p ((tfind found p).getD noFault)) s

/-! ## Directories and images (18 R474) -/

/-- Is a directory good? -/
def dirOk (d : List Byte) : Bool :=
  im d 0 4 == 0x4E574244 && im d 4 4 == 0 && ((d.drop 40).take 20).all (fun x => x == 0) && im d 60 4 == crc32c (d.take 60)

/-- `n` bytes of a source at `a`, where it can be read. -/
def srcRead (m : Option (List (Nat × Byte))) (a n : Nat) : Option (List Byte) := m.map (fun l => readBytes zeroByte l a n)

/-- The image at `a` of a source, of at most `limit` bytes. -/
def srcImage (m : Option (List (Nat × Byte))) (a limit : Nat) : Option (List Byte) :=
  match srcRead m a 128 with
  | some h => srcRead m a (min (max (imLen h) 128) limit)
  | none => none

/-- The largest pilot image: header, one table entry, a body of 4 MiB, signature block. -/
def pilotMax : Nat := 0x400000 + 400

/-- Is an image with a good container a pilot: one section, ID 0x40, of at most 4 MiB? -/
def pilotShape (b : List Byte) : Bool := imNsec b == 1 && (imSec b 0).1 == 0x40 && decide ((imSec b 0).2.2 ≤ 0x400000)

/-- Checks 1 to 5 of R420 for a pilot image: STATUS and REASON of the first that fails. -/
def State.pilotCheck (s : State) (src : Option (List Byte)) : Option (Nat × Nat) :=
  match src with
  | some b => if hdrOk pilotMagic b && tableOk b && !pilotShape b then some (0x82, 0) else s.authCheck pilotMagic pilotMax src
  | none => s.authCheck pilotMagic pilotMax none

/-- The check of the image that boot applies: R420, and it is a full image. It is made with the bindings that take effect with the
image (14 R373). -/
def State.bootCheck (s : State) (src : Option (List Byte)) : Option Nat :=
  match s.loadBindings.imageCheck src, src with
  | some (st, _, _), _ => some st
  | none, some b => if imDelta b then some 0x09 else none
  | none, none => some 0x04

/-- Step 7: bindings and the image take effect; a RETIRED slot stays unpowered and a spare one at SPARE_VSET; a port out of service,
or with another peer than the image names, is DOWN (13 R349, 19 R494). -/
def State.bootApply (s : State) (b : List Byte) (signer : Nat) : State :=
  let s := s.loadBindings.applyFull b
  let s := (List.range 72).foldl (fun (t : State) k =>
    if t.isRetired k then (t.setPace k 0 (t.fld (Reg.PACE_P k) F.PACE_P_CLASS)).setGrants k
    else if (t.coreOf k).isNone then t.sparePace k else t) s
  let s := (List.range s.opts.linkPorts).foldl (fun (t : State) l =>
    if !bit t.cfg.linkIn l then t.setFld (Reg.FL_STAT l) F.FL_STAT_STATE 0
    else if t.flUp l && (tfind t.cfg.peers l).any (· != t.fld (Reg.FL_STAT l) F.FL_STAT_PEER) then
      let t := (t.setFld (Reg.FL_STAT l) F.FL_STAT_STATE 0).setFld (Reg.FL_STAT l) F.FL_STAT_MISWIRE 1
      t.report ⟨0x44, 2, 94 + l / 2, 5, l, 0xFF, 0, [t.rd (Reg.FL_STAT l)]⟩
    else t) s
  { s with zen := { s.zen with buf := [], signer := 4, signers := [signer] } }

/-- The record of a boot that has ended (17 R458). -/
def State.bootRecord (s : State) : State :=
  s.report ⟨1, 0, 99, 0, 0, 0xFF, 0, [BitVec.ofNat 64 (b01 (s.fld Reg.RST_STAT F.RST_STAT_CAUSE != 0)), s.rd Reg.ZN_EPOCH, s.rd Reg.NV_STAT]⟩

/-- The host cores start (step 9). -/
def State.bootDone (s : State) (entry : Nat) : State :=
  let s := { s with hostStart := (List.range s.opts.hostCores).map (fun a => (a, entry)) }
  let s := s.setFld Reg.HC_CTL F.HC_CTL_RUN (2 ^ s.opts.hostCores - 1)
  let s := (s.setFld Reg.RST_STAT F.RST_STAT_BOOTED 1).setFld Reg.RST_STAT F.RST_STAT_PHASE 0x1F
  s.bootRecord.alert 12

/-- Boot stops; the DRS, the host attach port and I3C stay available. -/
def State.bootStop (s : State) (status : Nat) : State :=
  (s.setFld Reg.RST_STAT F.RST_STAT_STATUS status).bootRecord.alert 12

/-- Step 8: the pilot of directory `d` is verified and loaded to PLOAD, in a region of the image; the status where it fails. -/
def State.bootPilot (s : State) (d : List Byte) (src : Option (List Byte)) : Except Nat State :=
  match s.pilotCheck src, src with
  | some (st, _), _ => .error st
  | none, none => .error 0x04
  | none, some b =>
    let body := (imBody b 0x40).getD []
    let at_ := im d 24 8
    if body.length ≤ im d 32 8 then .error 0x82
    else if (s.regionFor at_ body.length).isNone then .error 0x04
    else
      match s.withAnswers (fun s => s.emStore (clsPrio 0) at_ body) with
      | (0, t) => .ok (({ t with zen := { t.zen with fw := some (at_, body.length) } }).bootDone (at_ + im d 32 8))
      | (st, _) => .error st

/-- The step that loads the Zenen image, cold or warm (R475, R476). -/
def State.imageStep (s : State) : Nat := if s.fld Reg.RST_STAT F.RST_STAT_CAUSE = 0 then 6 else 5
/-- The step that loads the pilot. -/
def State.pilotStep (s : State) : Nat := if s.fld Reg.RST_STAT F.RST_STAT_CAUSE = 0 then 8 else 6
/-- The pilot's step is in progress. -/
def State.pilotPhase (s : State) : State := s.setFld Reg.RST_STAT F.RST_STAT_PHASE s.pilotStep

/-- Boot from the source `m` whose directory is at `dir`: the state, whether an image is applied, and the status where the source
fails. `need` says that no image is applied yet. -/
def State.bootFrom (s : State) (m : Option (List (Nat × Byte))) (dir code : Nat) (need : Bool) : State × Bool × Option Nat :=
  match srcRead m dir 64 with
  | none => (s, need, some 0x04)
  | some d =>
    if !dirOk d then (s, need, some 0x82)
    else
      let z := if need then srcImage m (im d 8 8) 0x100000 else none
      match (if need then s.bootCheck z else none) with
      | some st => (s, need, some st)
      | none =>
        let s := (match z with | some b => s.bootApply b ((s.keySlot b).getD 4) | none => s).pilotPhase
        match s.bootPilot d (srcImage m (im d 16 8) pilotMax) with
        | .ok t => (t.setFld Reg.RST_STAT F.RST_STAT_SRC_USED code, false, none)
        | .error st => (s, false, some st)

/-- Is boot waiting for the host (18 R474)? -/
def State.bootWaits (s : State) : Bool :=
  let r := Reg.RST_STAT
  let p := s.fld r F.RST_STAT_PHASE
  let c := s.fld r F.RST_STAT_SRC_PIN
  (p == s.imageStep || p == s.pilotStep) && !s.flag r F.RST_STAT_BOOTED && s.fld r F.RST_STAT_STATUS == 0 && (c == 1 || c == 2)

/-- Boot from the flash: the primary directory, then the secondary; what is left to do where both fail is to wait for the host or
to stop. -/
def State.bootFlash (s : State) (b : BootIn) (need : Bool) : State :=
  let a := s.bootFrom (some b.flash) 0 0 need
  match a.2.2 with
  | none => a.1
  | some _ =>
    let c := a.1.bootFrom (some b.flash) 0x800000 1 a.2.1
    match c.2.2 with
    | none => c.1
    | some st => if c.1.fld Reg.RST_STAT F.RST_STAT_SRC_PIN = 2 then c.1 else c.1.bootStop st

/-- BT_CTL.GO: a waiting boot reads the host's directory; any other ignores it. -/
def State.bootGo (s : State) (b : BootIn) : State :=
  if !s.bootWaits then s
  else
    let a := s.bootFrom b.host (s.rd Reg.BT_HADDR).toNat 2 s.bootNeeds
    match a.2.2 with
    | none => a.1
    | some st => a.1.bootStop st

/-- Boot images by BOOT_SRC, once ports and polders are up. PHASE is the step in progress, the image's or, where a staged one has been
applied, the pilot's. -/
def State.bootImages (s : State) (b : BootIn) : State :=
  let step := if s.bootNeeds then s.imageStep else s.pilotStep
  let t := s.setFld Reg.RST_STAT F.RST_STAT_PHASE step
  match s.fld Reg.RST_STAT F.RST_STAT_SRC_PIN with
  | 3 => (s.setFld Reg.RST_STAT F.RST_STAT_PHASE (s.imageStep - 1)).bootStop 0
  | 1 => t
  | _ => t.bootFlash b s.bootNeeds

/-! ## Resets (18 R475 to R477) -/

/-- Registers that OTP holds (18 R484). -/
def otpRegs : List Nat :=
  Reg.ID2 :: (List.range 4).flatMap (fun k => (List.range 6).map (fun j => Reg.OTP_KEY k j))

/-- The DRS after a reset: every field at its reset value, but for what OTP holds. -/
def State.otpKept (s : State) : Sparse Word :=
  let t := otpRegs.foldl (fun (t : State) r => t.wr r (s.rd r)) { s with drs := [] }
  ([F.OTP_STAT_MFR, F.OTP_STAT_DEBUG_OPEN, F.OTP_STAT_REVOKED, F.OTP_STAT_PROGRAMMED].foldl (fun (t : State) f =>
    t.setFld Reg.OTP_STAT f (s.fld Reg.OTP_STAT f)) t).drs

/-- Step 1 of a cold reset: a berm save in progress completes first (15 R405); the non-volatile store, OTP and what the stacks hold
stay; the pins are sampled. While RESET_N is low the block stays so, and THERM_TRIP_N keeps its state (19 R487). -/
def State.coldStart (s : State) (b : BootIn) : State :=
  let s := s.bermFinish
  let t := { State.reset with
    pending := s.pending
    free := s.free
    opts := s.opts
    drs := s.otpKept
    em := s.em
    badBlocks := s.badBlocks
    nv := s.nv
    bermDone := s.bermDone
    bermSeen := s.bermSeen
    lifeKept := s.lifeKept
    inReset := b.low
    jtag := s.jtag
    pins := s.pins }
  let t := if b.low then t.setFld Reg.CP_STAT F.CP_STAT_TRIP (s.fld Reg.CP_STAT F.CP_STAT_TRIP) else t
  let t := (t.setFld Reg.ZN_COMPAT F.ZN_COMPAT_PIN_DN16 (b01 b.dn16)).setFld Reg.ZN_COMPAT F.ZN_COMPAT_DN16 (b01 b.dn16)
  let t := (t.setFld Reg.IO_STAT F.IO_STAT_VIN_MV b.vin).setFld Reg.IO_STAT F.IO_STAT_VKEEP_MV b.vkeep
  t.setFld Reg.RST_STAT F.RST_STAT_SRC_PIN b.src

/-- RESET_N goes low and is held, or is released: the cold reset sequence. -/
def State.coldReset (s : State) (b : BootIn) : State :=
  if b.low then s.coldStart b
  else
  let s := ((s.coldStart b).loadNv.loadMap).raise b.haClk
  ((s.bootTrain b).bootSoundings b.found).bootImages b

/-- Bytes of a free value for each 8 of a block. -/
def State.drawBytes : Nat → State → List Byte × State
  | 0, s => ([], s)
  | n + 1, s =>
    let d := s.draw
    let r := State.drawBytes n d.2
    (natLE 8 d.1.toNat ++ r.1, r.2)

/-- Writes in flight at a memory port when a warm reset starts leave their blocks undefined (R477). -/
def State.loseWrites (s : State) : State :=
  s.ports.foldl (fun (t : State) (p : Nat × Port) => (p.2.wrHeld ++ p.2.wrQ ++ p.2.wrOut).foldl (fun (t : State) w =>
    let d := State.drawBytes 32 t
    d.2.emPut p.1 (256 * w.blk) d.1) t) s

/-- Registers of the keep polder that a warm reset leaves: OTP, what the boot ROM loaded, the pins and supplies as sampled, the
thermal trip, and a staged image's state (R477, 15 R403, 16 R430, 19 R497). -/
def State.warmRegs (s : State) : Sparse Word :=
  let t := { s with drs := s.otpKept }
  let t := [Reg.NV_STAT, Reg.BERM_LAST, Reg.ZN_EPOCH, Reg.LB_NEXT].foldl (fun (t : State) r => t.wr r (s.rd r)) t
  let keep := fun (t : State) (r : Nat) (f : Fld) => t.setFld r f (s.fld r f)
  let t := [F.ZN_COMPAT_PIN_DN16, F.ZN_COMPAT_SVN_MIN].foldl (fun (t : State) f => keep t Reg.ZN_COMPAT f) t
  let t := t.setFld Reg.ZN_COMPAT F.ZN_COMPAT_DN16 (s.fld Reg.ZN_COMPAT F.ZN_COMPAT_PIN_DN16)
  let t := keep t Reg.RST_STAT F.RST_STAT_SRC_PIN
  let t := [F.IO_STAT_TB_INT, F.IO_STAT_HA_CLK_RUN, F.IO_STAT_PWR_FAIL, F.IO_STAT_VKEEP_MV, F.IO_STAT_VIN_MV].foldl
    (fun (t : State) f => keep t Reg.IO_STAT f) t
  let t := keep t Reg.CP_STAT F.CP_STAT_TRIP
  (if s.znState = 5 then t.setFld Reg.ZN_STAT F.ZN_STAT_STATE 5 else t).drs

/-- Step 1 of a warm reset. Tile Stores and pools are undefined from now on: a new generation of free values. -/
def State.warmStart (s : State) (cause : Nat) : State :=
  let s := s.loseWrites.logAll
  let staged := s.znState == 5
  let gen := s.free + 1
  let t := { State.reset with
    pending := s.pending
    free := s.free + 1
    opts := s.opts
    time := s.time
    drs := s.warmRegs
    em := s.em
    badBlocks := s.badBlocks
    slots := (List.range 72).map (fun k => (k, { Slot.reset with tsGen := gen }))
    sectors := (List.range 8).map (fun n => (n, { Sector.reset with poolGen := (List.range 16).map (fun m => (m, gen)) }))
    nmus := s.nmus.map (fun (p : Nat × Nmu) => (p.1, { Nmu.reset with
      staging := p.2.staging.filter (fun (x : Nat × Byte) => decide (x.1 < generalArea)) }))
    zen := if staged then { State.reset.zen with buf := s.zen.buf, signer := s.zen.signer } else State.reset.zen
    log := s.log
    lostTail := s.lostTail
    nv := s.nv
    ledger := s.ledger
    batchAt := s.batchAt
    batchSeq := s.batchSeq
    keptSeq := s.keptSeq
    bermDone := s.bermDone
    bermSeen := s.bermSeen
    life := s.life
    lifeKept := s.lifeKept
    phyOff := s.phyOff
    jtag := s.jtag
    pins := s.pins }
  (t.setFld Reg.RST_STAT F.RST_STAT_CAUSE cause).wr Reg.LB_NEXT
    (BitVec.ofNat 64 (max (s.rd Reg.LB_NEXT).toNat (topRecord s.nvBatches + 65537)))

/-- The staged image is applied; the pilot comes from the boot source. -/
def State.applyStaged (s : State) : State :=
  if s.znState = 5 then
    (s.znResult 0 0 0 0 0).bootApply s.zen.buf s.zen.signer
  else s

/-- A warm reset (R476), by WARM_N (cause 1) or RST_CTL (cause 2). WARM_N is ignored until step 7 of a cold reset has completed. -/
def State.warmReset (s : State) (cause : Nat) (b : BootIn) : State :=
  let s := ((s.warmStart cause).loadMap).raise b.haClk
  ((s.bootTrain b).applyStaged).bootImages b

/-- WARM_N low for 1 us. -/
def State.warmPin (s : State) (b : BootIn) : State := if s.bootNeeds ∧ s.fld Reg.RST_STAT F.RST_STAT_CAUSE = 0 then s else s.warmReset 1 b

end Sys2Proof.Machine
end

