-- ==== Sys2Proof/Machine/Host.lean ====
section
/-!
DEFINITION. Machine/Host.lean: what the host complex and the management ports command (18 R470 to R484, 19 R489, R492): OTP,
verifying and restarting the pilot firmware, the send blocks, PMBus, JTAG, I3C addresses and the reference clocks.
-/

namespace Sys2Proof.Machine

/-! ## OTP (18 R484) -/

/-- Programming ends with a status. -/
def State.otpDone (s : State) (status : Nat) : State :=
  (s.setFld Reg.OTP_STAT F.OTP_STAT_STATUS status).setFld Reg.OTP_STAT F.OTP_STAT_BUSY 0

/-- Add bit `k` to a field of OTP_STAT. -/
def State.otpBit (s : State) (f : Fld) (k : Nat) : State := s.setFld Reg.OTP_STAT f (s.fld Reg.OTP_STAT f ||| 2 ^ k)

/-- OTP_CMD PROG_KEY: the staged digest into an unprogrammed slot. -/
def State.progKey (s : State) (k : Nat) : State :=
  if bit (s.fld Reg.OTP_STAT F.OTP_STAT_PROGRAMMED) k then s.otpDone 0x09
  else
    (((List.range 6).foldl (fun (t : State) j => t.wr (Reg.OTP_KEY k j) (t.rd (Reg.OTP_STAGE j))) s).otpBit
      F.OTP_STAT_PROGRAMMED k).otpDone 0

/-- OTP_CMD REVOKE: not the slot that signed what is in force, nor the last slot that is not revoked. -/
def State.revokeKey (s : State) (k : Nat) : State :=
  let rev := s.fld Reg.OTP_STAT F.OTP_STAT_REVOKED
  if s.zen.signers.contains k || (List.range 4).all (fun i => i == k || bit rev i) then s.otpDone 0x09
  else (s.otpBit F.OTP_STAT_REVOKED k).otpDone 0

/-- OTP_CMD SET_DEBUG. -/
def State.setDebug (s : State) : State := (s.setFld Reg.OTP_STAT F.OTP_STAT_DEBUG_OPEN 1).otpDone 0

/-- OTP_CMD SET_MFR. -/
def State.setMfr (s : State) (v : Nat) : State :=
  (s.setFld Reg.OTP_STAT F.OTP_STAT_MFR v).otpDone 0

/-- A write of OTP_CMD. -/
def State.otpCmd (s : State) (v : Word) : State :=
  if s.flag Reg.OTP_STAT F.OTP_STAT_BUSY then s
  else
    match getF v F.OTP_CMD_OP with
    | 1 => s.progKey (getF v F.OTP_CMD_SLOT)
    | 2 => s.revokeKey (getF v F.OTP_CMD_SLOT)
    | 3 => s.setDebug
    | 4 => s.setMfr (getF v F.OTP_CMD_VALUE)
    | _ => s

/-! ## Pilot firmware (18 R472) -/

/-- HC_FWCMD.VERIFY: checks 1 to 5 of R420 on the image at HC_FWADDR. -/
def State.fwVerify (s : State) : State := s.overEm fun s =>
  let a := s.fld Reg.HC_FWADDR F.HC_FWADDR_PA
  let h := s.emLoadBy .keep (clsPrio 0) a 128
  let len := min (max (imLen h.2.1) 128) pilotMax
  let r := if h.1 = 0 then h.2.2.emLoadBy .keep (clsPrio 0) a len else h
  let src := if r.1 = 0 then some r.2.1 else none
  let s := r.2.2
  let fin := fun (t : State) (st rs : Nat) => (t.setFld Reg.HC_FWCMD F.HC_FWCMD_STATUS st).setFld Reg.HC_FWCMD F.HC_FWCMD_REASON rs
  match s.pilotCheck src, src with
  | some (st, rs), _ => fin s st rs
  | none, none => fin s 0x04 0
  | none, some b => fin { s with zen := { s.zen with fw := some (a, imLen b) } } 0 0

/-- A dirty line of the host-complex caches is written back; the write's status. -/
def State.cleanLine (s : State) (l : HLine) : Nat × State :=
  if l.dirty then
    let r := s.emStoreBy (.host l.hart) (clsPrio 0) (64 * l.line) l.bytes
    (r.1, { r.2 with hcache := r.2.hcache.map (fun (x : HLine) => if x.line = l.line then { x with dirty := false } else x) })
  else (0, s)

/-- Write back every dirty line. -/
def State.cleanAll (s : State) : State := s.hcache.foldl (fun (t : State) l => (t.cleanLine l).2) s

/-- The polder of host core `a` (01 R16). -/
def hartPolder (a : Nat) : Nat := 82 + a / 4

/-- HC_CTL.RESTART of the host cores in `mask`: refused with 0x09 unless HC_ENTRY lies in the last image verified OK. -/
def State.fwRestart (s : State) (mask : Nat) : State :=
  let e := s.fld Reg.HC_ENTRY F.HC_ENTRY_PA
  if !s.zen.fw.any (fun (w : Nat × Nat) => decide (w.1 ≤ e) && decide (e < w.1 + w.2)) then
    s.setFld Reg.HC_CTL F.HC_CTL_STATUS 0x09
  else s.overEm fun s =>
    let s := s.cleanAll
    let named := (setBits 8 mask).filter (fun a => decide (a < s.opts.hostCores) && !s.closed (hartPolder a))
    let s := named.foldl (fun (t : State) a =>
      { t with hostStart := tput t.hostStart a e }.setFld Reg.HC_CTL F.HC_CTL_RUN (t.fld Reg.HC_CTL F.HC_CTL_RUN ||| 2 ^ a)) s
    s.setFld Reg.HC_CTL F.HC_CTL_STATUS 0

/-! ## Send blocks (18 R470) -/

/-- Is host core `a`'s send block taking a command: the core is present and the block is not busy? -/
def State.hcsFree (s : State) (a : Nat) : Bool := decide (a < s.opts.hostCores) && !s.flag (Reg.HCS_GO a) F.HCS_GO_BUSY

/-- The command of a send block, with its status. -/
def State.hcsStatus (s : State) (a st : Nat) : State := s.setFld (Reg.HCS_GO a) F.HCS_GO_STATUS st

/-- The command word in a send block. -/
def State.hcsWord (s : State) (a : Nat) : Cmd := s.rd (Reg.HCS_HI a) ++ s.rd (Reg.HCS_LO a)

/-- The command of a send block waits, BUSY: for its reservation (09 R248), a sluice (16 R422), or blocks of External Memory. -/
def State.hcsWait (s : State) (a op : Nat) : State :=
  { (s.hcsStatus a 0).setFld (Reg.HCS_GO a) F.HCS_GO_BUSY 1 with hostWaits := tput s.hostWaits a op }

/-- It waits no longer. -/
def State.hcsGone (s : State) (a : Nat) : State := { s with hostWaits := serase a s.hostWaits }

/-- The MSG.SEND or MSG.REPLY of a send block goes, or waits. A reply needs nothing that a sluice holds (16 R422). -/
def State.sendNow (s : State) (a : Nat) : State :=
  let d := Sender.host a
  let w := s.hcsWord a
  if opcode w == 0xA0 && (s.stalled (hartPolder a) || (cb w 107 && !s.canReserve (d.replyHome (cf w 106 103)))) then s.hcsWait a 1
  else
    let pay := (List.range (msgPw w)).map (fun i => s.rd (Reg.HCS_PAY0 a + 8 * i))
    (((s.hcsGone a).hcsStatus a 0).setFld (Reg.HCS_GO a) F.HCS_GO_BUSY 1).msgSend d w pay |>.hostFree d

/-- HCS_GO.SEND: a MSG.SEND or MSG.REPLY by R240 to R248; where its buffer or reservation is not to be had it waits. -/
def State.hostSendGo (s : State) (a : Nat) : State :=
  if !s.hcsFree a then s
  else
    let d := Sender.host a
    let w := s.hcsWord a
    if opcode w ≠ 0xA0 ∧ opcode w ≠ 0xA1 then s.hcsStatus a 0x80
    else
      match s.msgCheck d w with
      | some st => s.hcsStatus a st
      | none => s.sendNow a

/-- The PUT of a send block reads its bytes and sends them, or waits. -/
def State.putNow (s : State) (a : Nat) : State :=
  let hi := (s.rd (Reg.HCS_HI a)).toNat
  let len := bits (s.rd (Reg.HCS_LO a)).toNat 0 17
  let dst := bits hi 0 32
  let core := bits hi 48 6
  let src := (s.rd (Reg.HCS_SRC a)).toNat
  if s.behind (.core core) then ((s.hcsGone a).hcsStatus a 0x0E).setFld (Reg.HCS_GO a) F.HCS_GO_BUSY 0
  else if s.stalled (hartPolder a) then s.hcsWait a 2
  else
    let t := s.overEm fun s =>
      let r := s.emLoadBy (.host a) (clsPrio 0) src len
      if r.1 ≠ 0 then ((r.2.2.hcsGone a).hcsStatus a r.1).setFld (Reg.HCS_GO a) F.HCS_GO_BUSY 0
      else
        (((r.2.2.hcsGone a).hcsStatus a 0).setFld (Reg.HCS_GO a) F.HCS_GO_BUSY 1).send .data (.host a) (.core core)
          (.deliver 0 dst r.2.1 (if bit hi 44 then some (bits hi 40 4) else none))
    if s.asks.isEmpty && (s.emLoadBy (.host a) (clsPrio 0) src len).2.2.asks.isEmpty then t else t.hcsWait a 2

/-- HCS_GO.PUT: bytes of External Memory to a core's Tile Store and its tally. -/
def State.hostPut (s : State) (a : Nat) : State :=
  if !s.hcsFree a then s
  else
    let hi := (s.rd (Reg.HCS_HI a)).toNat
    let len := bits (s.rd (Reg.HCS_LO a)).toNat 0 17
    let dst := bits hi 0 32
    let core := bits hi 48 6
    if len < 1 ∨ 65536 < len then s.hcsStatus a 0x82
    else if tsSize < dst + len ∨ (s.slotOf core).isNone then s.hcsStatus a 0x04
    else if s.behind (.core core) then s.hcsStatus a 0x0E
    else s.putNow a

/-- A waiting send block tries again. -/
def State.hcsRetry (s : State) (a op : Nat) : State := if op = 1 then s.sendNow a else s.putNow a

/-! ## PMBus (18 R481) -/

/-- The last words read from PMBus device `n`. -/
def State.pmbTake (s : State) (n vout iout status : Nat) : State :=
  ((s.setFld (Reg.PMB_DEV n) F.PMB_DEV_VOUT vout).setFld (Reg.PMB_DEV n) F.PMB_DEV_IOUT iout).setFld (Reg.PMB_DEV n)
    F.PMB_DEV_STATUS status

/-- One poll of the enabled devices; `answers` gives what device `n` answers, nothing where it does not. -/
def State.pmbPoll (s : State) (answers : List (Nat × Nat × Nat × Nat)) : State :=
  (List.range 8).foldl (fun (t : State) n =>
    if t.flag (Reg.PMB_DEV n) F.PMB_DEV_EN then
      match answers.find? (fun (x : Nat × Nat × Nat × Nat) => x.1 == n) with
      | some x => t.pmbTake n x.2.1 x.2.2.1 x.2.2.2
      | none => t
    else t) s

/-- PMB_ALERT_N low: the device at `addr` answers the alert response address; its STATUS_WORD is read and POWER set. -/
def State.pmbAlert (s : State) (addr status : Nat) : State :=
  ((List.range 8).foldl (fun (t : State) n =>
    if t.flag (Reg.PMB_DEV n) F.PMB_DEV_EN && t.fld (Reg.PMB_DEV n) F.PMB_DEV_ADDR == addr then
      t.setFld (Reg.PMB_DEV n) F.PMB_DEV_STATUS status
    else t) s).alert 8

/-! ## Reference clocks (19 R489, R492) -/

/-- TB_REFCLK lost. -/
def State.tbLost (s : State) : State :=
  ((s.setFld Reg.IO_STAT F.IO_STAT_TB_LOST 1).setFld Reg.IO_STAT F.IO_STAT_TB_INT 1).riskAll 0

/-- TB_REFCLK returns: the timebase follows it from its current value. -/
def State.tbReturn (s : State) : State := s.setFld Reg.IO_STAT F.IO_STAT_TB_INT 0

/-- Ports train again, as when every lane has lost lock (11 R294, 13 R349); a LOST or DOWN port stays so. -/
def State.trainAll (s : State) : State :=
  let s := (List.range s.opts.memPorts).foldl (fun (t : State) p =>
    if 1 ≤ t.mpState p ∧ t.mpState p ≤ 3 then t.trainMp p false else t) s
  (List.range s.opts.linkPorts).foldl (fun (t : State) l =>
    if 1 ≤ t.flState l ∧ t.flState l ≤ 3 then t.trainFl l else t) s

/-- PHY_REFCLK lost. -/
def State.phyLost (s : State) : State := { (s.setFld Reg.IO_STAT F.IO_STAT_PHY_LOST 1).trainAll with phyOff := true }

/-- PHY_REFCLK returns: the trainings of the ports go on. -/
def State.phyReturn (s : State) : State := { s with phyOff := false }

/-- HA_CLK starts after cold step 3: HA_RDY rises. -/
def State.haClkStart (s : State) : State :=
  let s := s.setFld Reg.IO_STAT F.IO_STAT_HA_CLK_RUN 1
  if s.fld Reg.HA_STAT F.HA_STAT_STATE = 0 ∧ s.fld Reg.RST_STAT F.RST_STAT_PHASE ≠ 0 then (s.setFld Reg.HA_STAT F.HA_STAT_STATE 1).haPump else s

/-! ## Test port (18 R483) -/

/-- IDCODE: MAJOR, part, JEP106 code, 1. -/
def State.idcode (s : State) : Word :=
  BitVec.ofNat 64 (s.fld Reg.ID0 F.ID0_MAJOR % 16 * 2 ^ 28 + 0x0264 * 2 ^ 12 + s.fld Reg.OTP_STAT F.OTP_STAT_MFR % 2 ^ 11 * 2 + 1)

/-- The test logic after TRST_N: IDCODE is the instruction. -/
def Jtag.reset : Jtag := ⟨.idcode, 0, 0⟩

def State.jtagReset (s : State) : State := { s with jtag := Jtag.reset }
/-- BYPASS: one bit, captured as 0. -/
def State.jtagBypass (s : State) : State := { s with jtag := { s.jtag with
  ir := .bypass
  dr := 0 } }
def State.jtagIdcode (s : State) : State := { s with jtag := { s.jtag with
  ir := .idcode
  dr := s.idcode } }
/-- SAMPLE/PRELOAD: the pins are captured, and `cells` shifted into the boundary cells. -/
def State.jtagSample (s : State) (pins cells : Word) : State := { s with
  pins := pins
  jtag := ⟨.sample, pins, cells⟩ }
/-- EXTEST: the cells drive the sideband outputs; the pins are captured, and `cells` shifted in. -/
def State.jtagExtest (s : State) (pins cells : Word) : State := { s with
  pins := pins
  jtag := ⟨.extest, pins, cells⟩ }

/-! ## I3C addresses (18 R480) -/

/-- ENTDAA: a target without a dynamic address takes the one assigned. -/
def State.entdaa (s : State) (addr : Nat) : State := if s.i3cAddr.isSome then s else { s with i3cAddr := some addr }
/-- SETDASA names the static address 0x2E. -/
def State.setdasa (s : State) (static addr : Nat) : State :=
  if static = 0x2E ∧ s.i3cAddr.isNone then { s with i3cAddr := some addr } else s

end Sys2Proof.Machine
end

