-- ==== Sys2Proof/Machine/Views.lean ====
section
/-!
DEFINITION. Machine/Views.lean: what each register of the DRS reads (00 R8, R10; 01 R26, R27). A field that reports a queue,
a buffer, a table or a state machine is computed from it; every other field stands in `drs`.
-/

namespace Sys2Proof.Machine

/-! ## Where an offset leads (01 R26, R27) -/

/-- The offset of the register that a DRS offset reaches: a logical-core window is that of its slot, for its first half. -/
def State.physOf (s : State) (off : Nat) : Option Nat :=
  if off < 0x2000000 then some off
  else if off < 0x3000000 then
    let w := (off - 0x2000000) % 0x40000
    if w < 0x20000 then (s.slotOf ((off - 0x2000000) / 0x40000)).map (fun k => slotBase k + w) else none
  else none

/-- The slot whose window holds an offset, and the offset in the window. -/
def slotAt (off : Nat) : Option (Nat × Nat) :=
  let w := (off - 0x1000000) % 0x200000
  if off < 0x1000000 ∨ 0x2000000 ≤ off ∨ w < 0x20000 ∨ 0x140000 ≤ w then none
  else some (9 * ((off - 0x1000000) / 0x200000) + (w - 0x20000) / 0x20000, (w - 0x20000) % 0x20000)

/-- The polder that answers for an offset; none where the keep polder, the host complex or the attach port does. -/
def unitPolder (off : Nat) : Option Nat :=
  match slotAt off with
  | some (k, _) => some k
  | none =>
    if 0x1000000 ≤ off then (if off < 0x2000000 then some (72 + (off - 0x1000000) / 0x200000) else none)
    else if 0x200000 ≤ off ∧ off < 0x2A0000 then some (84 + (off - 0x200000) / 0x8000 / 2)
    else if 0x300000 ≤ off ∧ off < 0x400000 then some (94 + (off - 0x300000) / 0x20000 / 2)
    else if 0x110000 ≤ off ∧ off < 0x112000 then some (80 + (off - 0x110000) / 0x100 / 16)
    else none

/-- Does the macro have what the register belongs to (00 R3, R4)? -/
def State.fitted (s : State) (off : Nat) : Bool :=
  let per := fun (base : Nat) => decide (base ≤ off) && decide (off < base + 800) && !s.present ((off - base) / 8)
  if 0x200000 ≤ off ∧ off < 0x2A0000 then decide ((off - 0x200000) / 0x8000 < s.opts.memPorts)
  else if 0x300000 ≤ off ∧ off < 0x400000 then decide ((off - 0x300000) / 0x20000 < s.opts.linkPorts)
  else if 0x400200 ≤ off ∧ off < 0x400280 then decide ((off - 0x400200) / 16 < s.opts.hostCores)
  else if 0x402000 ≤ off ∧ off < 0x402400 then decide ((off - 0x402000) / 0x80 < s.opts.hostCores)
  else !(per 0x3400 || per 0x4800 || per 0x5800 || per 0x7400 || per 0x7800)

/-- How an access to a register fares at its unit: a closed dike refuses it, and it waits at a sluice or a relief freeze. -/
def State.reachUnit (s : State) (off : Nat) : Reach :=
  match unitPolder off with
  | none => .ok
  | some p => if s.closed p then .closed else if (polderWay p).any s.sluiced || s.frozenSlot p then .wait else .ok

/-- An endpoint of polder `p`, as packets for its registers find it. -/
def polderEnd (p : Nat) : Endpoint :=
  if p < 72 then .sector (p / 9) else if p < 80 then .sector (p - 72) else if p < 82 then .cn (16 * (p - 80))
  else if p < 84 then .host (4 * (p - 82)) else if p < 94 then .nmu (2 * (p - 84)) else if p < 98 then .link (2 * (p - 94)) else .attach

/-- The agent of an access of the DRS: host core 0 to 7, 8 the host attach port; others reach units over no plane. -/
def drsAgent (who : Nat) : Option Endpoint := if who < 8 then some (.host who) else if who = 8 then some .attach else none

/-- The agent of a command that accesses the DRS. -/
def cmdAgent : Instr → Option Endpoint
  | .registerWrite who _ _ _ => drsAgent who
  | .drsRd _ _ _ _ _ => some .attach
  | .drsWr _ _ _ _ _ => some .attach
  | .hostCoreAccess a _ _ _ _ => some (.host a)
  | _ => none

/-- How an access of an agent fares from the agent on (01 R17). -/
def State.reachFrom (s : State) (a : Option Endpoint) (off : Nat) : Reach :=
  match a, unitPolder off with
  | some e, some p => (match s.path e (polderEnd p) with | .ok => s.reachUnit off | r => r)
  | _, _ => s.reachUnit off

/-- May a held access go on? -/
def State.freed (s : State) (x : Nat × Instr) : Bool :=
  match s.physOf (x.1 / 8 * 8) with | some o => s.reachFrom (cmdAgent x.2) o != .wait | none => true

/-- How a new access fares: behind one that was held and is about to go on to the same unit, it waits. -/
def State.reachBy (s : State) (a : Option Endpoint) (off : Nat) : Reach :=
  match s.reachFrom a off with
  | .ok =>
    if (unitPolder off).isSome &&
        s.drsHeld.any (fun x => s.freed x && (s.physOf (x.1 / 8 * 8)).bind unitPolder == unitPolder off) then .wait
    else .ok
  | r => r

/-- How an access to a register fares whose agent is not given. -/
def State.reach (s : State) (off : Nat) : Reach := s.reachBy none off

/-- An access that waits is held (16 R422, 17 R446). -/
def State.holdDrs (s : State) (off : Nat) (c : Instr) : State := { s with drsHeld := s.drsHeld ++ [(off, c)] }

/-! ## Core slots -/

/-- VE_STAT (06 R166). -/
def State.veStat (s : State) (k : Nat) : Word :=
  let w := putF (s.rd (Reg.VE_STAT k)) F.VE_STAT_REGMODE (b01 (s.isLead k))
  let w := putF w F.VE_STAT_LANES64 (b01 s.opts.lanes64)
  let w := putF w F.VE_STAT_VR_BUSY (b01 !(s.openCmds k isVr).isEmpty)
  putF w F.VE_STAT_VS_BUSY (b01 !(s.openCmds k isVs).isEmpty)

/-- CC_STAT (07 R195). -/
def State.ccStat (s : State) (k : Nat) : Word :=
  let c := s.slot k
  let pend := (List.range 16).foldl (fun a i => if (tfind c.hpend i).isSome then a + 2 ^ i else a) 0
  BitVec.ofNat 64 (pend * 2 ^ 16 + 8 * b01 c.hrun + 4 * b01 c.wfi + 2 * b01 c.waitq + b01 c.istall)

/-- XQ_STAT and FQ_STAT (07 R195). -/
def State.queueStat (s : State) (k : Nat) (q : QSel) : Word :=
  let u := s.queueNow k q
  let w := putF (s.rd (q.reg k)) F.XQ_STAT_SPILLED u.ringLen
  putF (putF w F.XQ_STAT_HEAD_VALID (b01 !u.onchip.isEmpty)) F.XQ_STAT_ONCHIP u.onchip.length

/-- The oldest entry of a queue not yet accepted. -/
def State.queueHead (s : State) (k : Nat) (q : QSel) : Nat :=
  match (s.queueNow k q).onchip with | [] => 0 | e :: _ => e.word.toNat

/-- WPT_STAT (07 R195). -/
def State.wptStat (s : State) (k : Nat) : Word :=
  let w := putF (s.rd (Reg.WPT_STAT k)) F.WPT_STAT_ISSUED (s.slot k).wptIssued
  match (s.queueNow k .fq).onchip with
  | [] => w
  | e :: _ => if opcode e.word = 0x90 then putF (putF w F.WPT_STAT_FE_WAIT 1) F.WPT_STAT_AWAITED e.wpt else w

/-- FE_STAT (08 R232). -/
def State.feStat (s : State) (k : Nat) : Word :=
  let busy := (s.busySlots k).foldl (fun a i => a + 2 ^ i) 0
  BitVec.ofNat 64 (busy * 2 ^ 32 + s.rateSum k % 128 * 2 ^ 25 + s.rsvSum k % 512 * 2 ^ 16 + s.otUsed k % 1024)

/-- Remaining iterations of a stream's loop level, from 1, or what was written to one that is not open. -/
def Stream.level (st : Stream) (n : Nat) : Nat := st.pos.cnt.getD (n - 1) (st.shut.getD (n - 1) 0)

/-- STRM_CV (08 R232); without the CONVOY attribute its fields are unused (R200). -/
def State.strmCv (s : State) (k i : Nat) : Word :=
  let st := s.strm k i
  let tb := hTileBytes st.header
  let next := if st.state = .idle ∨ tb = 0 then 0
    else match st.upcoming with
      | some e => (e.off + e.len - 1) / tb
      | none => st.issuedBytes / tb
  if !hConvoy st.header then 0
  else BitVec.ofNat 64 (st.freed % 2 ^ 20 * 2 ^ 40 + st.clim % 2 ^ 20 * 2 ^ 20 + next % 2 ^ 20)

/-- A stream slot's registers. -/
def State.strmReg (s : State) (k i r : Nat) : Word :=
  let st := s.strm k i
  match r with
  | 0x00 => s.strmStat k i
  | 0x10 => st.pos.src
  | 0x18 => st.pos.dst
  | 0x20 => BitVec.ofNat 64 (st.level 2 * 2 ^ 32 + st.level 1)
  | 0x28 => BitVec.ofNat 64 (st.level 4 * 2 ^ 32 + st.level 3)
  | 0x30 => BitVec.ofNat 64 (st.level 6 * 2 ^ 32 + st.level 5)
  | 0x38 => s.strmCv k i
  | _ => 0

/-- Bytes of External Memory as the stacks hold them, zeros where no region does. -/
def State.emPeek (s : State) (pa n : Nat) : List Byte :=
  (piecesOf pa n).flatMap (fun p => match s.place p.1 with
    | some pl => s.emBytes pl.stack pl.loc p.2
    | none => List.replicate p.2 0)

/-- Bytes of External Memory as a read shows them: those in the host-complex caches first (18 R468). -/
def State.hostPeek (s : State) (pa n : Nat) : List Byte :=
  let mem := s.emPeek pa n
  (List.range n).map (fun i =>
    match s.hcache.find? (fun l => l.line == (pa + i) / 64) with
    | some l => l.bytes.getD ((pa + i) % 64) 0
    | none => mem.getD i 0)

/-- Word 0 of the entry at RP of a channel; 0 where the ring is empty. -/
def State.ringHeadWord (s : State) (h : Home) : Word :=
  if s.ringUsed h.blk = 0 then 0
  else
    let a := s.ringBase h + s.fld (ringPtr h.blk) F.CH_PTR_RP % s.ringSize h.blk
    match h with
    | .core k _ => BitVec.ofNat 64 (s.tsLE k a 8)
    | .host _ => BitVec.ofNat 64 (leNat (s.hostPeek a 8))

/-- A channel's registers. -/
def State.chanReg (s : State) (h : Home) (off r : Nat) : Word :=
  match r with
  | 0x18 => s.chStat h
  | 0x20 => s.ringHeadWord h
  | _ => s.rd off

/-- A register of core slot `k` by its offset `w` in the window. -/
def State.slotReg (s : State) (k w : Nat) : Word :=
  let off := slotBase k + w
  if 0x2000 ≤ w ∧ w < 0x2800 then s.strmReg k ((w - 0x2000) / 0x40) (w % 0x40)
  else if 0x3100 ≤ w ∧ w < 0x3500 then s.chanReg (.core k ((w - 0x3100) / 0x40)) off ((w - 0x3100) % 0x40)
  else
    match w with
    | 0x1040 => s.arrayStat k
    | 0x1090 => s.tileStat k
    | 0x1098 => (s.slot k).ofUse
    | 0x10C0 => s.veStat k
    | 0x1100 => s.ccStat k
    | 0x1120 => s.queueStat k .xq
    | 0x1128 => s.queueStat k .fq
    | 0x1130 => BitVec.ofNat 64 (s.queueHead k .xq / 2 ^ 64)
    | 0x1138 => BitVec.ofNat 64 (s.queueHead k .xq)
    | 0x1140 => BitVec.ofNat 64 (s.queueHead k .fq / 2 ^ 64)
    | 0x1148 => BitVec.ofNat 64 (s.queueHead k .fq)
    | 0x1150 => s.wptStat k
    | 0x1200 => s.feStat k
    | 0x3000 => s.muStat k
    | 0x3008 => s.sendHead k false
    | 0x3010 => s.sendHead k true
    | _ => s.rd off

/-! ## Nodes, ports, links -/

/-- A combining node's registers (09 R261). -/
def State.cnReg (s : State) (c r : Nat) : Word :=
  match r with
  | 0x20 => s.cnStat c
  | 0x30 =>
    match (s.cn c).queue with
    | [] => 0
    | x :: _ =>
      let w := putF (putF (putF 0 F.CN_HEAD_SKIND x.1) F.CN_HEAD_SID x.2.1) F.CN_HEAD_GEN x.2.2.1
      putF (putF w F.CN_HEAD_OFF x.2.2.2.1) F.CN_HEAD_LEN x.2.2.2.2.length
  | _ => s.rd (0x110000 + 0x100 * c + r)

/-- NMU_STAT (12 R343). -/
def State.nmuStat (s : State) (n : Nat) : Word :=
  let c := s.nmu n
  let w := putF (s.rd (Reg.NMU_STAT n)) F.NMU_STAT_TAGS c.tags.length
  let w := putF (putF w F.NMU_STAT_SCALES c.collects.length) F.NMU_STAT_QOCC c.intake.length
  let w := putF w F.NMU_STAT_WAITING (b01 (match c.run with | some r => s.nmuWaits n r | none => false))
  let w := putF w F.NMU_STAT_RED_BUSY (b01 (c.tags.any (fun (t : Nat × TagSlot) => !t.2.ended)))
  putF (putF w F.NMU_STAT_OP_BUSY (b01 c.run.isSome)) F.NMU_STAT_PREFETCH (b01 (!c.preAsked.isEmpty))

/-- A register in the window of memory port and NMU `p`; the region registers are one for all ports (11 R301). -/
def State.portReg (s : State) (p w : Nat) : Word :=
  match w with
  | 0x0000 => s.mpStat p
  | 0x4000 => s.nmuStat p
  | 0x4038 => match (s.nmu p).intake with | [] => 0 | m :: _ => BitVec.ofNat 64 m.word0
  | 0x4040 => match (s.nmu p).intake with | [] => 0 | m :: _ => m.pay.getD 0 0
  | _ => if 0x100 ≤ w ∧ w < 0x180 then s.rd (0x200000 + w) else s.rd (portBase p + w)

/-! ## Keep polder -/

/-- CP_Pn: floor and standing grant are the image's, and read 0 until one is applied (00 R7). -/
def State.cpP (s : State) (n : Nat) : Word :=
  let w := s.rd (Reg.CP_P n)
  let w := if s.bootNeeds then putF (putF w F.CP_P_FLOOR 0) F.CP_P_STANDING 0 else w
  match s.grantQ.find? (fun r => r.polder == n) with
  | some r => putF (putF w F.CP_P_WAITING 1) F.CP_P_REQ r.quanta
  | none => w

/-- ZN_PROG (16 R432). -/
def State.znProg (s : State) : Word :=
  match s.zen.plan with
  | [] => 0
  | p :: ps =>
    let next := match ((p :: ps).flatMap s.stepClose).filter (fun n => !s.zen.closing.contains n) with | [] => 0 | n :: _ => n
    let left := ((p :: ps).flatMap s.stepClose).dedup.length
    putF (putF (putF 0 F.ZN_PROG_PHASE p.phase) F.ZN_PROG_NEXT next) F.ZN_PROG_PENDING left

/-- RP_STAT (17 R459). -/
def State.rpStat (s : State) : Word :=
  let w := putF (s.rd Reg.RP_STAT) F.RP_STAT_BUSY (b01 s.rpBusy)
  match s.repair.relief, s.repair.soundings with
  | some r, _ =>
    let ph := if !r.pause then 1 else if (s.slot r.x).halt == .halted then 3 else 2
    putF (putF (putF w F.RP_STAT_PHASE ph) F.RP_STAT_TARGET r.x) F.RP_STAT_DIRTY r.dirty.length
  | none, b :: _ => putF (putF w F.RP_STAT_PHASE 4) F.RP_STAT_TARGET b.polder
  | none, [] => w

/-- The record that LB_SEL selects, where the ring holds it. -/
def State.lbSelected (s : State) : Option LogRec := s.log.find? (fun r => BitVec.ofNat 64 r.seq == s.rd Reg.LB_SEL)

/-- LB_STAT (17 R459). -/
def State.lbStat (s : State) : Word :=
  putF (putF 0 F.LB_STAT_VALID (b01 s.lbSelected.isSome)) F.LB_STAT_PENDING s.unkept.length

/-- ID1 (18 R485): the macro's options. -/
def State.id1 (s : State) : Word :=
  let w := putF (putF 0 F.ID1_VE64 (b01 s.opts.lanes64)) F.ID1_HC8 (b01 (s.opts.hostCores == 8))
  putF (putF w F.ID1_LINK8 (b01 (s.opts.linkPorts == 8))) F.ID1_MPORTS (if s.opts.memPorts = 20 then 2 else if s.opts.memPorts = 16 then 1 else 0)

/-- HA_STAT (18 R485). -/
def State.haStat (s : State) : Word :=
  let w := putF (s.rd Reg.HA_STAT) F.HA_STAT_HM_OUT (s.hm.filter (fun r => r.sent)).length
  putF w F.HA_STAT_NPR_IN s.nprIn.length

/-- A register outside the windows of slots, ports and links. -/
def State.devReg (s : State) (off : Nat) : Word :=
  if 0x110000 ≤ off ∧ off < 0x112000 then s.cnReg ((off - 0x110000) / 0x100) ((off - 0x110000) % 0x100)
  else if 0x130000 ≤ off ∧ off < 0x130800 ∧ off % 0x20 = 0x18 then
    putF (s.rd off) F.RD_STAT_WAITERS (tget [] s.rdWait ((off - 0x130000) / 0x20)).length
  else if 0x4100 ≤ off ∧ off < 0x4180 then putF (s.rd off) F.CP_FLEET_USED (s.shareUsed ((off - 0x4100) / 8))
  else if 0x4800 ≤ off ∧ off < 0x4B20 then s.cpP ((off - 0x4800) / 8)
  else if 0x5800 ≤ off ∧ off < 0x5B20 then s.paceReg ((off - 0x5800) / 8)
  else if 0x7400 ≤ off ∧ off < 0x7720 then s.dkP ((off - 0x7400) / 8)
  else if 0x7800 ≤ off ∧ off < 0x7B20 then putF (s.rd off) F.RAS_P_ROWS (s.queuedRows ((off - 0x7800) / 8)).length
  else if 0xA040 ≤ off ∧ off < 0xA080 then
    match s.lbSelected with
    | some r => BitVec.ofNat 64 (im r.bytes (off - 0xA040) 8)
    | none => 0
  else if 0x401000 ≤ off ∧ off < 0x401800 then s.chanReg (.host ((off - 0x401000) / 0x40)) off ((off - 0x401000) % 0x40)
  else
    match off with
    | 0x0008 => s.id1
    | 0x3028 => s.znProg
    | 0x4008 => s.cpStat
    | 0x5010 => putF (s.rd off) F.RK_RESULT_BUSY (b01 (decide (s.time < s.rkDue)))
    | 0x5018 => putF (s.rd off) F.RK_STAT_HELD s.passages.length
    | 0x7008 => s.rpStat
    | 0xA010 => s.lbStat
    | 0xA108 => BitVec.ofNat 64 (s.nvLE (s.rd Reg.NV_OFF).toNat 8)
    | 0x400000 => s.haStat
    | _ => s.rd off

/-- What agents see of a register: WO fields read 0 (00 R8). -/
def hideWo (r : RegDef) (v : Word) : Word := r.fields.foldl (fun w f => if f.acc = .wo then putF w ⟨f.lo, f.len⟩ 0 else w) v

/-- What the register at a physical offset, a multiple of 8, holds. -/
def State.regValue (s : State) (off : Nat) : Word :=
    match slotAt off with
    | some (k, w) => s.slotReg k w
    | none =>
      if 0x200000 ≤ off ∧ off < 0x2A0000 then s.portReg ((off - 0x200000) / 0x8000) ((off - 0x200000) % 0x8000)
      else s.devReg off

/-- What the register at a physical offset, a multiple of 8, reads; 0 where no map defines it or the macro lacks it. -/
def State.regShown (s : State) (off : Nat) : Word :=
  match regAt off with
  | none => 0
  | some r => if s.fitted off then hideWo r (s.regValue off) else 0

/-! ## Pins (18 R460, R471, R479, R487) -/

/-- Output pins: ALERT_N, THERM_TRIP_N and XSPI_RST_N, false where low or driven; HA_RDY, and the inbound credits that HA_I_CR has
returned and the wrapper holds; TDO, tri-stated outside the Shift states. -/
structure Outputs where
  alertN : Bool
  thermTripN : Bool
  xspiRstN : Bool
  haRdy : Bool
  haICr : Nat × Nat
  tdo : Option Bool
  deriving DecidableEq, Repr

/-- What the pins show between commands. While RESET_N is low, ALERT_N is released, HA_RDY is low and XSPI_RST_N is low; THERM_TRIP_N is
held through it. -/
def State.outputs (s : State) : Outputs where
  alertN := s.inReset || (s.rd Reg.AL_STAT &&& BitVec.ofNat 64 (getF (s.rd Reg.AL_ROUTE) F.AL_ROUTE_PIN)) == 0
  thermTripN := !s.flag Reg.CP_STAT F.CP_STAT_TRIP
  xspiRstN := !s.inReset
  haRdy := s.haReady
  haICr := s.inboundCredits
  tdo := none

/-- Is the machine external interrupt of host core `a` pending (18 R471)? -/
def State.hostMeip (s : State) (a : Nat) : Bool := (s.rd (Reg.HC_IP a) &&& s.rd (Reg.HC_IE a)) != 0

end Sys2Proof.Machine
end

