-- ==== Sys2Proof/Machine/Device.lean ====
section
/-!
DEFINITION. Machine/Device.lean: accesses to the Device Register Space (00 R5 to R10; 01 R26 to R28): what a write does to each
register, reads with their effects, and the paths of the host attach port, the host cores and I3C (18 R462, R466, R467, R480).
-/

namespace Sys2Proof.Machine

/-! ## Writes -/

/-- A register after a write of `v` to the bytes of mask `m`, by the access codes of its fields (00 R8). -/
def writeMasked (r : RegDef) (old m v : Word) : Word :=
  r.fields.foldl (fun w f => writeField w (if f.acc = .rw ∨ f.acc = .wo then (old &&& ~~~m) ||| (v &&& m) else v &&& m) f) old

/-- A write without an effect of its own. -/
def State.plainWrite (s : State) (off : Nat) (m v : Word) : State :=
  match regAt off with
  | none => s
  | some r => s.wr off (writeMasked r (s.rd off) m v)

/-- The value a write leaves in RW fields. -/
def State.merged (s : State) (off : Nat) (m v : Word) : Word := (s.rd off &&& ~~~m) ||| (v &&& m)

/-- Is a one-bit field set in a word? -/
def has (w : Word) (f : Fld) : Bool := getF w f == 1

/-- TILE_CTL (05 R129, R135): a save or restore is checked against the state the write finds; then HALT takes effect. -/
def State.tileCtlWrite (s : State) (k : Nat) (m v : Word) : State :=
  let w := s.merged (Reg.TILE_CTL k) m v
  let s := s.setFld (Reg.TILE_CTL k) F.TILE_CTL_FULL_SAVE (getF w F.TILE_CTL_FULL_SAVE)
  let sv := has (v &&& m) F.TILE_CTL_SAVE
  let rs := has (v &&& m) F.TILE_CTL_RESTORE
  let s := if sv then s.startSave k rs else if rs then s.startRestore k false else s
  if m.toNat % 2 = 1 then s.tileHalt k (has w F.TILE_CTL_HALT) else s

/-- VR_SAVE (06 R166). -/
def State.vrSaveWrite (s : State) (k : Nat) (m v : Word) : State :=
  let s := s.plainWrite (Reg.VR_SAVE k) m v
  let sv := has (v &&& m) F.VR_SAVE_SAVE
  let rs := has (v &&& m) F.VR_SAVE_RESTORE
  if sv || rs then s.startVrSave k sv rs else s

/-- KL_CTL.GO of slot `k` (07 R191): a slot bound to no logical core has no fleet. -/
def State.goWrite (s : State) (k : Nat) : State :=
  let id := (s.coreOf k).getD 64
  s.goLaunch k id (s.launchPassage id (bits (s.rd (Reg.KL_REC k 7)).toNat 0 32))

/-- Set remaining iterations of a loop level; of a level that is not open, what its register shows until a LOOP opens it. -/
def Stream.setLevel (st : Stream) (n c : Nat) : Stream :=
  if n < st.pos.cnt.length then { st with pos := { st.pos with cnt := st.pos.cnt.set n c } }
  else { st with shut := (st.shut ++ List.replicate (6 - st.shut.length) 0).set n c }

/-- Set remaining iterations: `c1` of level `n`, `c2` of the next. -/
def Stream.setLevels (st : Stream) (n c1 c2 : Nat) : Stream := (st.setLevel (n - 1) c1).setLevel n c2

/-- Writes of a stream's position count only while it is HALTED or FAULTED (08 R232). -/
def State.strmWrite (s : State) (k i r : Nat) (m v : Word) : State :=
  let st := s.strm k i
  let w := (s.strmReg k i r &&& ~~~m) ||| (v &&& m)
  let open_ := st.state == .halted || st.state == .faulted
  match r with
  | 0x00 => s.plainWrite (Reg.STRM_STAT k i) m v
  | 0x08 =>
    if has (v &&& m) F.STRM_CTL_CANCEL then s.cancelStrm k i
    else if has (v &&& m) F.STRM_CTL_RESUME then s.resumeStrm k i true else s
  | 0x10 => if open_ then s.setStrm k i { st with pos := { st.pos with src := w } } else s
  | 0x18 => if open_ then s.setStrm k i { st with pos := { st.pos with dst := w } } else s
  | 0x20 => if open_ then s.setStrm k i (st.setLevels 1 (w.toNat % 2 ^ 32) (w.toNat / 2 ^ 32)) else s
  | 0x28 => if open_ then s.setStrm k i (st.setLevels 3 (w.toNat % 2 ^ 32) (w.toNat / 2 ^ 32)) else s
  | 0x30 => if open_ then s.setStrm k i (st.setLevels 5 (w.toNat % 2 ^ 32) (w.toNat / 2 ^ 32)) else s
  | _ => s

/-- A channel's registers (09 R233, R235, R261; 18 R469). -/
def State.chanWrite (s : State) (h : Home) (off r : Nat) (m v : Word) : State :=
  match r with
  | 0x00 => s.chCfgWrite h (s.merged off m v)
  | 0x08 => if (s.merged off m v).toNat % 8 = 0 then s.plainWrite off m v else s
  | _ => s.plainWrite off m v

/-- A write to core slot `k`. -/
def State.slotWrite (s : State) (k w : Nat) (m v : Word) : State :=
  let off := slotBase k + w
  if 0x2000 ≤ w ∧ w < 0x2800 then s.strmWrite k ((w - 0x2000) / 0x40) (w % 0x40) m v
  else if 0x3100 ≤ w ∧ w < 0x3500 then s.chanWrite (.core k ((w - 0x3100) / 0x40)) off ((w - 0x3100) % 0x40) m v
  else if 0x3800 ≤ w ∧ w < 0x3880 then
    s.tallySet k ((w - 0x3800) / 8) ((s.plainWrite off m v).rd off) none
  else
    match w with
    | 0x1000 => s.wr off (numStatClear (s.rd off) (v &&& m))
    | 0x1008 => if m.toNat % 2 = 1 then s.scoutSet k false (getF v F.SCOUT0_MAX) else s
    | 0x1010 => if m.toNat % 2 = 1 then s.scoutSet k true (getF v F.SCOUT0_MAX) else s
    | 0x1080 => s.tileCtlWrite k m v
    | 0x10D0 => s.vrSaveWrite k m v
    | 0x11C0 =>
      if has (v &&& m) F.KL_CTL_ABORT then s.abort k
      else if has (v &&& m) F.KL_CTL_GO then s.goWrite k else s
    | 0x3880 =>
      let on := s.flag off F.SCK_CTL_EN
      let s := s.plainWrite off m v
      if !on && s.flag off F.SCK_CTL_EN then s.modSlot k (fun c => { c with
        sckTally := []
        sckWord := [] }) else s
    | _ => s.plainWrite off m v

/-- A write to a combining node (09 R256, R259, R261). -/
def State.cnWrite (s : State) (c r : Nat) (m v : Word) : State :=
  let off := 0x110000 + 0x100 * c + r
  match r with
  | 0x08 => if s.cnState c = 0 then s.plainWrite off m v else s
  | 0x10 =>
    if s.cnState c ≠ 0 then s
    else
      let was := s.fld off F.CN_DEST_DKIND
      let s := s.plainWrite off m v
      if s.fld off F.CN_DEST_DKIND = 3 then s.setFld off F.CN_DEST_DKIND was else s
  | 0x18 =>
    if has (v &&& m) F.CN_CTL_CANCEL then s.cnCancel c 0x02
    else if has (v &&& m) F.CN_CTL_ARM then s.cnArm c else s
  | _ => s.plainWrite off m v

/-- A write in the window of memory port and NMU `p` (11 R314, 12 R343). -/
def State.portWrite (s : State) (p w : Nat) (m v : Word) : State :=
  let s := s.plainWrite (portBase p + w) m v
  let a := v &&& m
  match w with
  | 0x0008 => if has a F.MP_CTL_LOSE then s.loseMp p else if has a F.MP_CTL_RETRAIN then s.retrainMp p else s
  | 0x4008 =>
    let s := if has a F.NMU_CTL_ABORT_FLEET then s.abortFleet p (s.fld (Reg.NMU_CTL p) F.NMU_CTL_FLEET) else s
    if has a F.NMU_CTL_ABORT_TAG then s.abortTag p (s.fld (Reg.NMU_CTL p) F.NMU_CTL_TAG) else s
  | _ => s

/-- A write in the window of Filic link port `l` (13 R369). -/
def State.linkWrite (s : State) (l w : Nat) (m v : Word) : State :=
  let s := s.plainWrite (linkBase l + w) m v
  if w = 8 then
    if has (v &&& m) F.FL_CTL_LOSE then s.loseFl l else if has (v &&& m) F.FL_CTL_RETRAIN then s.retrainFl l else s
  else s

/-- ZN_CMD (16 R432). -/
def State.znCmdWrite (s : State) (v : Word) : State :=
  match getF v F.ZN_CMD_OP with
  | 1 => s.znLoad
  | 2 => s.znApply
  | 3 => s.znStage
  | 4 => s.znAbort
  | 5 => s.znDiscard
  | _ => s

/-- RP_CTL (17 R459): an OP written, with the polder or core that the register names. -/
def State.rpCtlWrite (s : State) (op : Nat) (v : Word) : State :=
  match op with
  | 1 => s.relieve (getF v F.RP_CTL_LID)
  | 2 => s.sound (getF v F.RP_CTL_POLDER)
  | 3 => s.quarantineCmd (getF v F.RP_CTL_POLDER)
  | 4 => s.unquarantine (getF v F.RP_CTL_POLDER)
  | _ => s

/-- RST_CTL.WARM acts only with its key, which the same write or one before it has set (00 R8). -/
def State.rstCtlWrite (s : State) (warm : Bool) (v : Word) (b : BootIn) : State :=
  if getF v F.RST_CTL_KEY = 0x5752 ∧ warm then s.warmReset 2 b else s

/-- HCS_GO: SEND, or PUT where SEND is not set. -/
def State.hcsGoWrite (s : State) (a : Nat) (v : Word) : State :=
  if has v F.HCS_GO_SEND then s.hostSendGo a else if has v F.HCS_GO_PUT then s.hostPut a else s

/-- A write outside the windows of slots, ports and links, by agent `who`: host core 0 to 7, 8 the host attach port; others are another agent. -/
def State.devWrite (s : State) (who off : Nat) (m v : Word) (b : BootIn) : State :=
  let a := v &&& m
  if 0x110000 ≤ off ∧ off < 0x112000 then s.cnWrite ((off - 0x110000) / 0x100) ((off - 0x110000) % 0x100) m v
  else if 0x130000 ≤ off ∧ off < 0x130800 ∧ off % 0x20 = 0x18 then
    let s := s.plainWrite off m v
    if has a F.RD_STAT_WAKE then s.rdWake ((off - 0x130000) / 0x20) else s
  else if 0x5800 ≤ off ∧ off < 0x5B20 then s.paceWrite ((off - 0x5800) / 8) a
  else if 0x9800 ≤ off ∧ off < 0x9890 ∧ off % 16 = 0 then
    if who = (off - 0x9800) / 16 then
      let t := s.plainWrite off m v
      t.semWrite who (putF (t.rd off) F.SEM_CMD_OP (getF a F.SEM_CMD_OP))
    else s
  else if 0x401000 ≤ off ∧ off < 0x401800 then
    s.chanWrite (.host ((off - 0x401000) / 0x40)) off ((off - 0x401000) % 0x40) m v
  else if 0x402000 ≤ off ∧ off < 0x402400 ∧ off % 0x80 = 0x38 then s.hcsGoWrite ((off - 0x402000) / 0x80) a
  else
    match off with
    | 0x0100 =>
      let t := s.plainWrite off m v
      t.rstCtlWrite (has a F.RST_CTL_WARM) (t.rd off) b
    | 0x0118 => if has a F.BT_CTL_GO then s.bootGo b else s
    | 0x2248 =>
      if s.flag Reg.OTP_STAT F.OTP_STAT_BUSY then s
      else
        let t := s.plainWrite off m v
        t.otpCmd (putF (t.rd off) F.OTP_CMD_OP (getF a F.OTP_CMD_OP))
    | 0x3000 => if getF (s.merged off m v) F.ZN_SRC_KIND = 3 then s else s.plainWrite off m v
    | 0x3010 => s.znCmdWrite a
    | 0x5000 => if m.toNat % 2 = 1 then s.rtWrite (has a F.RK_CTL_RT) else s
    | 0x5008 =>
      if s.time < s.rkDue then s.setFld Reg.RK_STAT F.RK_STAT_CMD_LOST 1
      else
        let t := s.plainWrite off m v
        match getF a F.RK_CMD_OP with
        | 1 => t.rkCommand State.admitPassage
        | 2 => t.rkCommand (fun s => s.release (getF (t.rd off) F.RK_CMD_PID))
        | _ => t
    | 0x6080 => s.xlInvWrite (s.merged off m v)
    | 0x6088 => s.xfRingWrite (s.merged off m v)
    | 0x6090 => if m.toNat % 2 = 1 then s.xfRpWrite (getF a F.XF_PTR_RP) else s
    | 0x7000 =>
      if s.rpBusy then s.setFld Reg.RP_STAT F.RP_STAT_CMD_LOST 1
      else
        let t := s.plainWrite off m v
        t.rpCtlWrite (getF a F.RP_CTL_OP) (t.rd off)
    | 0xA100 => if getF (s.merged off m v) F.NV_OFF_OFF % 8 = 0 then s.plainWrite off m v else s
    | 0x400100 => if getF a F.HC_CTL_RESTART ≠ 0 then s.fwRestart (getF a F.HC_CTL_RESTART) else s
    | 0x400118 => if has a F.HC_FWCMD_VERIFY then s.fwVerify else s
    | _ => s.plainWrite off m v

/-- A write of the register at a physical offset, a multiple of 8; ignored where no map defines it or the macro lacks it. -/
def State.regWrite (s : State) (who off : Nat) (m v : Word) (b : BootIn) : State :=
  if (regAt off).isNone || !s.fitted off then s
  else
    match slotAt off with
    | some (k, w) => s.slotWrite k w m v
    | none =>
      if 0x200000 ≤ off ∧ off < 0x2A0000 then s.portWrite ((off - 0x200000) / 0x8000) ((off - 0x200000) % 0x8000) m v
      else if 0x300000 ≤ off ∧ off < 0x400000 then s.linkWrite ((off - 0x300000) / 0x20000) ((off - 0x300000) % 0x20000) m v
      else s.devWrite who off m v b

/-! ## Reads -/

/-- RC fields whose bytes are read are cleared (00 R8). -/
def clearRead (r : RegDef) (m old : Word) : Word :=
  r.fields.foldl (fun w f => if f.acc = .rc ∧ bits m.toNat f.lo f.len = 2 ^ f.len - 1 then putF w ⟨f.lo, f.len⟩ 0 else w) old

/-- Read the register at a physical offset, the bytes of mask `m`. -/
def State.regRead (s : State) (off : Nat) (m : Word) : Word × State :=
  match regAt off with
  | none => (0, s)
  | some r => (s.regShown off, if s.fitted off then s.wr off (clearRead r m (s.rd off)) else s)

/-! ## Accesses of several bytes -/

/-- The mask of bytes `lo` to `hi - 1` of a register. -/
def byteMask (lo hi : Nat) : Word := BitVec.ofNat 64 (2 ^ (8 * hi) - 2 ^ (8 * lo))

/-- The registers an access covers: offset, first byte and end byte in it. -/
def regParts (off n : Nat) : List (Nat × Nat × Nat) :=
  (List.range ((off % 8 + n + 7) / 8)).map (fun i =>
    (off / 8 * 8 + 8 * i, (if i = 0 then off % 8 else 0), min 8 (off % 8 + n - 8 * i)))

/-- Read `n` bytes of the DRS from `off` on, in rising order. -/
def State.drsRead (s : State) (off n : Nat) : List Byte × State :=
  (regParts off n).foldl (fun (acc : List Byte × State) p =>
    match acc.2.physOf p.1 with
    | none => (acc.1 ++ List.replicate (p.2.2 - p.2.1) 0, acc.2)
    | some o =>
      let r := acc.2.regRead o (byteMask p.2.1 p.2.2)
      (acc.1 ++ ((natLE 8 r.1.toNat).drop p.2.1).take (p.2.2 - p.2.1), r.2)) ([], s)

/-- Write bytes of the DRS from `off` on, in rising order. -/
def State.drsWrite (s : State) (who off : Nat) (bs : List Byte) (b : BootIn) : State :=
  ((regParts off bs.length).foldl (fun (acc : State × List Byte) p =>
    let n := p.2.2 - p.2.1
    let v := BitVec.ofNat 64 (leNat (acc.2.take n) * 2 ^ (8 * p.2.1))
    match acc.1.physOf p.1 with
    | none => (acc.1, acc.2.drop n)
    | some o => (acc.1.regWrite who o (byteMask p.2.1 p.2.2) v b, acc.2.drop n)) (s, bs)).1

/-- How an access of the DRS by an agent fares; one access reaches one unit. -/
def State.drsReach (s : State) (a : Option Endpoint) (off : Nat) : Reach :=
  match s.physOf (off / 8 * 8) with | none => .ok | some o => s.reachBy a o

/-! ## Host attach port (18 R462, R466) -/

/-- Is the shape of a DRS access right: 4 bytes, or 8 to 64 in multiples of 8, aligned, not crossing 64 bytes? -/
def drsShape (off n : Nat) : Bool :=
  decide (off < 0x4000000) &&
  ((n == 4 && off % 4 == 0) || (n % 8 == 0 && decide (8 ≤ n) && decide (n ≤ 64) && off % 8 == 0)) && decide (off % 64 + n ≤ 64)

/-- May an agent that is not OWNER, of fleet `f`, reach an offset? `read`: ID0 and ID1 are for all. -/
def State.drsRight (s : State) (f off : Nat) (read : Bool) (n : Nat) : Bool :=
  (read && decide (off + n ≤ 16)) ||
  (decide (0x2000000 ≤ off) && decide (off < 0x3000000) && s.haRight f F.HA_RIGHTS_CORES &&
    s.fleetOf ((off - 0x2000000) / 0x40000) == some f)

/-- DRS_RD. -/
def State.drsRdCmd (s : State) (owner : Bool) (f tag off n : Nat) : State :=
  if !s.haReady then s
  else if !drsShape off n then s.cpl tag 0x82 []
  else if !owner && !s.drsRight f off true n then s.cpl tag 0x04 []
  else
    match s.drsReach (some .attach) off with
    | .wait => s.holdDrs off (.drsRd owner f tag off n)
    | .closed => s.cpl tag 0x0E []
    | .ok =>
      let r := s.drsRead off n
      r.2.cpl tag 0 r.1

/-- DRS_WR. -/
def State.drsWrCmd (s : State) (owner : Bool) (f off : Nat) (bs : List Byte) (b : BootIn) : State :=
  if !s.haReady then s
  else if !drsShape off bs.length then s.haDenied
  else if !owner && !s.drsRight f off false bs.length then s.haDenied
  else
    match s.drsReach (some .attach) off with
    | .wait => s.holdDrs off (.drsWr owner f off bs b)
    | .closed => s.haDenied
    | .ok => s.drsWrite 8 off bs b

/-! ## I3C (18 R480) -/

/-- A private write of an offset, then a private read of 8 bytes; offsets outside the range read 0. -/
def State.i3cRead (s : State) (off : Nat) : State :=
  if s.i3cAddr.isNone then s
  else if 0x100000 ≤ off + 7 then { s with i3cData := 0 }
  else
    let r := s.drsRead off 8
    { r.2 with i3cData := BitVec.ofNat 64 (leNat r.1) }

/-- The registers that I3C writes reach. -/
def i3cWritable (off : Nat) : Bool :=
  [Reg.RST_CTL, Reg.AL_STAT, Reg.AL_ROUTE, Reg.LB_SEL, Reg.NV_OFF, Reg.OTP_CMD].contains off ||
  (List.range 6).any (fun j => Reg.OTP_STAGE j == off)

/-- A private write of an offset and 8 data bytes. -/
def State.i3cWrite (s : State) (off : Nat) (v : Word) (b : BootIn) : State :=
  if s.i3cAddr.isSome && i3cWritable off then s.drsWrite 9 off (natLE 8 v.toNat) b else s

/-! ## Host cores (18 R467, R468) -/

/-- An access fault of host core `a`. -/
def State.hostFault (s : State) (a : Nat) : State := s.hostResult a true 0

/-- A load, store or fetch of host core `a` in the DRS: loads and stores of 4 or 8 aligned bytes. -/
def State.hostDrs (s : State) (a : Fin 8) (off : Nat) (op : HostOp) (b : BootIn) : State :=
  let ok := fun (n : Nat) => (n == 4 || n == 8) && off % n == 0
  match op with
  | .load n =>
    if !ok n then s.hostFault a
    else
      match s.drsReach (some (.host a)) off with
      | .wait => s.holdDrs off (.hostCoreAccess a off op [] b)
      | .closed => s.hostFault a
      | .ok =>
        let r := s.drsRead off n
        r.2.hostResult a false (BitVec.ofNat 64 (leNat r.1))
  | .store bs =>
    if !ok bs.length then s.hostFault a
    else
      match s.drsReach (some (.host a)) off with
      | .wait => s.holdDrs off (.hostCoreAccess a off op [] b)
      | .closed => s.hostFault a
      | .ok => (s.drsWrite a off bs b).hostResult a false 0
  | .fetch _ => s.hostFault a
  | _ => s.hostResult a false 0

/-- A line of the host-complex caches, brought in where it is absent; whether it could be. -/
def State.hostLine (s : State) (a line : Nat) : Bool × State :=
  match s.hcache.find? (fun l => l.line == line) with
  | some _ => (true, s)
  | none =>
    let r := s.emLoadBy (.host a) (clsPrio 0) (64 * line) 64
    if r.1 = 0 then (true, { r.2.2 with hcache := r.2.2.hcache ++ [(⟨line, r.2.1, false, a⟩ : HLine)] })
    else (false, r.2.2)

/-- The lines that `n` bytes from `pa` on lie in. -/
def memLines (pa n : Nat) : List Nat := List.range' (pa / 64) ((pa + n - 1) / 64 + 1 - pa / 64)

/-- Bring lines in, the first that cannot be read ending it. -/
def State.hostLines (s : State) (a : Nat) : List Nat → Bool × State
  | [] => (true, s)
  | l :: ls => match s.hostLine a l with | (true, t) => t.hostLines a ls | r => r

/-- Host-complex channels take a read pointer that a host core stores, at once. -/
def State.hostCoreWatch (s : State) (pa n : Nat) : State :=
  (List.range 32).foldl (fun (t : State) c =>
    let b := Reg.HCH_CFG c
    let rpa := t.fld (Reg.HCH_RPA c) F.HCH_RPA_RPADDR
    if overlaps pa n rpa 8 then
      t.rpTake b (.host (t.fld b F.HCH_CFG_HART)) c (tget [] t.hostWait c) (leNat (t.hostPeek rpa 4))
    else t) s

/-- A cached line leaves the caches; dirty bytes are written back where `keep` says so. -/
def State.dropLine (s : State) (line : Nat) (keep : Bool) : State :=
  match s.hcache.find? (fun l => l.line == line) with
  | none => s
  | some l =>
    let s := if keep then (s.cleanLine l).2 else s
    { s with hcache := s.hcache.filter (fun (x : HLine) => x.line != line) }

/-- An access of host core `a` to External Memory, through the caches; it waits for the blocks it reads. -/
def State.hostEm (s : State) (a pa : Nat) (op : HostOp) : State := s.overEm fun s =>
  let line := pa / 64
  let load := fun (n : Nat) =>
    match s.hostLines a (memLines pa n) with
    | (false, t) => t.hostFault a
    | (true, t) => t.hostResult a false (BitVec.ofNat 64 (leNat (t.hostPeek pa n)))
  match op with
  | .load n => load n
  | .fetch n => load n
  | .store bs =>
    match s.hostLines a (memLines pa bs.length) with
    | (false, t) => t.hostFault a
    | (true, t) =>
      let mine := memLines pa bs.length
      let c := t.cacheLand pa bs
      let t := ({ c with hcache := c.hcache.map (fun (l : HLine) =>
        if mine.contains l.line then { l with
          dirty := true
          hart := a } else l) } : State)
      (t.hostCoreWatch pa bs.length).hostResult a false 0
  | .clean =>
    match s.hcache.find? (fun l => l.line == line) with
    | some l => (s.cleanLine l).2.hostResult a false 0
    | none => s.hostResult a false 0
  | .flush => (s.dropLine line true).hostResult a false 0
  | .inval => (s.dropLine line false).hostResult a false 0

/-- Is the size of an access one of 1, 2, 4 or 8 bytes? -/
def hostOpSized : HostOp → Bool
  | .load n => n == 1 || n == 2 || n == 4 || n == 8
  | .fetch n => n == 2 || n == 4
  | .store bs => bs.length == 1 || bs.length == 2 || bs.length == 4 || bs.length == 8
  | _ => true

/-- An access of host core `a` to host memory, uncached: what it comes to arrives with its completion. Behind a closed dike it ends
QUARANTINED (18 R473); at a sluice it waits, as `c`. -/
def State.hostHm (s : State) (a addr : Nat) (op : HostOp) (c : Instr) : State :=
  let go := fun (f : State → State) =>
    match (if s.closed 98 then .closed else s.path (.host a) .attach) with
    | .closed => s.hostFault a
    | .wait => s.holdDrs 0x4000000 c
    | .ok => f s
  match op with
  | .load n => go (fun s => s.askHost false addr n [] (64 + a) 0 none .none)
  | .fetch n => go (fun s => s.askHost false addr n [] (64 + a) 0 none .none)
  | .store bs => go (fun s => s.askHost true addr bs.length bs (64 + a) 0 none .none)
  | _ => s.hostResult a false 0

/-- An access of host core `a` in its 56-bit physical address space; `evict` names lines that leave the caches before it. -/
def State.hostAccess (s : State) (a : Fin 8) (addr : Nat) (op : HostOp) (evict : List Nat) (b : BootIn) : State :=
  if !bit (s.fld Reg.HC_CTL F.HC_CTL_RUN) a || decide (s.opts.hostCores ≤ a) || s.closed (hartPolder a) || !hostOpSized op then s
  else
    let s := evict.foldl (fun (t : State) l => t.overEm (fun (t : State) => t.dropLine l true)) s
    if addr < 0x4000000 then s.hostDrs a addr op b
    else if 2 ^ 48 ≤ addr ∧ addr < 2 ^ 49 then s.hostEm a (addr - 2 ^ 48) op
    else if 2 ^ 55 ≤ addr ∧ addr < 2 ^ 56 then s.hostHm a (addr - 2 ^ 55) op (.hostCoreAccess a addr op [] b)
    else s.hostFault a

end Sys2Proof.Machine
end

