-- ==== Sys2Proof/Machine/Event.lean ====
section
/-!
DEFINITION. Machine/Event.lean: what the commands share: a stopped block takes no event, a write of a unit's register reaches it
or not, and small events without a home of their own.
-/

namespace Sys2Proof.Machine

/-- What a command leaves as it is whatever else it does: the queue of waiting commands, and the macro's options, which are fixed
when it is built (00 R3). -/
def State.framed (s t : State) : State := { t with
  pending := s.pending
  opts := s.opts }

/-- The state that a command leaves, given what its event makes of the block `s`. A berm save is ended by its own writes or by
VKEEP_LOW, and by no command that acts here (15 R404, R407). -/
def State.leaves (s t : State) : State := { s.framed t with bermed := false }

/-- A command acts on the block, which takes none once a berm save has started, until a cold reset (15 R405). -/
def State.act (s : State) (f : State → State) : Host.Outcome State Fault Refusal :=
  .next (if s.stopped then s else s.leaves (f s))

/-- The block that a cold reset leaves: no save runs in it or has ended. -/
def State.fresh (s : State) : State := { s with
  berm := none
  bermed := false }

/-- Register accesses that no longer wait go on, in order; so do messages that came back and send blocks (16 R422, 18 R470). -/
def State.goOn (s : State) : State :=
  let free := s.drsHeld.filter s.freed
  let s : State := { s with
    pending := s.pending ++ free.map (fun (x : Nat × Instr) => x.2)
    drsHeld := s.drsHeld.filter (fun (x : Nat × Instr) => !s.freed x) }
  let s := s.slots.foldl (fun (t : State) (x : Nat × Slot) => t.wakeAll (.core x.1 false)) s
  let s := s.hostSend.foldl (fun (t : State) (x : Nat × List SendEntry) => t.wakeAll (.host x.1)) s
  s.hostWaits.foldl (fun (t : State) (x : Nat × Nat) => t.hcsRetry x.1 x.2) s

/-- An empty queue: 1 ns passes, a berm save makes its next write, and what no longer waits goes on; a block that the save or RESET_N has
stopped stays as it is. -/
def State.idle (s : State) : State :=
  if s.bermed || s.inReset then s
  else
    let t := ({ s with time := s.time + 1 } : State).bermStep
    if t.stopped then t else t.goOn

/-- The queue that a command names. -/
def qOf (fq : Bool) : QSel := if fq then .fq else .xq

/-- A number that is no NMU, for upsets of a slot's commands. -/
def noNmu : Nat := 1000

/-- A write of a register by command `c` reaches its unit where the macro has it; a closed dike stops it, and before a sluice or a freeze
it is held. -/
def State.onReg (s : State) (off : Nat) (c : Instr) (f : State → State) : State :=
  if !s.fitted off then s
  else
    match s.reach off with
    | .ok => f s
    | .closed => s
    | .wait => s.holdDrs off c

/-- The agent of REGISTER_WRITE that is the OWNER DRS access instrument of the IEEE 1687 network (18 R483). -/
def instrument : Nat := 10

/-- REGISTER_WRITE. The instrument reaches the DRS only while OTP holds DEBUG_OPEN (18 R483). -/
def State.registerWrite (s : State) (who off : Nat) (bytes : List Byte) (b : BootIn) : State :=
  if !drsShape off bytes.length || (who == instrument && !s.flag Reg.OTP_STAT F.OTP_STAT_DEBUG_OPEN) then s
  else
    match s.drsReach (drsAgent who) off with
    | .ok => s.drsWrite who off bytes b
    | .closed => s
    | .wait => s.holdDrs off (.registerWrite who off bytes b)

/-- Packet `i` arrives, as `f` says. One that finds no half of the spine left to cross ends its operation instead (01 R17, 17 R450). -/
def State.crossing (s : State) (i : Nat) (f : State → State) : State :=
  match s.lostCrossing i with
  | none => f s
  | some p =>
    match s.cutForm p with
    | some q => f { s with net := s.net.set i q }
    | none => (s.takePacket i).bounce p

/-- SCOUT_WRITE: MAX, 31 bits (02 R64). -/
def State.scoutWrite (s : State) (r : ScoutRef) (v : Nat) : State :=
  match r with
  | .scout0 k => s.onReg (Reg.SCOUT0 k) (.scoutWrite r v) (fun (t : State) => t.scoutSet k false v)
  | .scout1 k => s.onReg (Reg.SCOUT1 k) (.scoutWrite r v) (fun (t : State) => t.scoutSet k true v)
  | .nmu n => s.onReg (Reg.NMU_SCOUT n) (.scoutWrite r v) (fun (t : State) => t.setFld (Reg.NMU_SCOUT n) F.SCOUT0_MAX v)

/-- The timebase reaches CC_TIMECMP of slot `k` (07 R176). -/
def State.timerReach (s : State) (k : Nat) : State := { s with time := max s.time (s.rd (Reg.CC_TIMECMP k)).toNat }

/-- An effect for the opcodes that `p` picks; any other fails with FORMAT. -/
def orFormat (p : Nat → Bool) (eff : Cmd → State → Except Nat (State × Nat)) (w : Cmd) (s : State) : Except Nat (State × Nat) :=
  if p (opcode w) then eff w s else .error 0x80

/-- LDL's opcode, and those of 0x10 to 0x3F that name no command. -/
def isLdl (op : Nat) : Bool := decide (0x10 ≤ op) && decide (op < 0x40) && !([0x20, 0x21, 0x24, 0x25, 0x26, 0x27].contains op)
/-- VS.ADD's opcode, and those of 0x40 to 0x5F that name no command. -/
def isVsAdd (op : Nat) : Bool := op == 0x40 || op == 0x56 || op == 0x57 || (decide (0x5B ≤ op) && decide (op < 0x60))
/-- VR.ADD's opcode, and those of 0x60 to 0x7F that name no command. -/
def isVrAdd (op : Nat) : Bool := op == 0x60 || [0x76, 0x77, 0x7A, 0x7B, 0x7E, 0x7F].contains op
/-- CH.ARM's opcode, and those of 0x85 to 0x8F. -/
def isChArm (op : Nat) : Bool := op == 0x80 || (decide (0x85 ≤ op) && decide (op < 0x90))

/-- The stream command at the head of the fetch queue. -/
def State.runChart (s : State) (k : Nat) (ops : Nat → Bool) (f : State → Entry → Queue → State) : State :=
  match s.takeHead k .fq ops with
  | none => s
  | some (e, r) => f s e r

/-- CH.HALT: every named slot halts; the command completes at acceptance (08 R207). -/
def State.chHalt (s : State) (k : Nat) (e : Entry) (r : Queue) : State :=
  ((namedSlots e.word).foldl (fun (t : State) i => t.haltStrm k i) s).finishCmd k .fq e r

/-- CH.RESUME: every named slot that is HALTING or HALTED runs (08 R207, R209). -/
def State.chResume (s : State) (k : Nat) (e : Entry) (r : Queue) : State :=
  ((namedSlots e.word).foldl (fun (t : State) i => t.resumeStrm k i false) s).finishCmd k .fq e r

/-- A convoy credit arrives (08 R227). -/
def State.creditArrival (s : State) (i : Nat) : State :=
  match s.arrival i with
  | some ⟨_, _, .core id, .credit slot n⟩ =>
    match s.slotOf id with
    | some k => (s.takePacket i).credit k slot n
    | none => s.takePacket i
  | _ => s

/-- The channel a command names. -/
def chanHome : ChanRef → Home
  | .core k c => .core k c
  | .host c => .host c

/-- A write of CH_CFG that sets EN where it is 0. -/
def State.chanEnable (s : State) (r : ChanRef) (v : Word) : State :=
  let h := chanHome r
  s.onReg h.blk (.channelEnable r v) (fun (t : State) =>
    if t.flag h.blk F.CH_CFG_EN then t else t.chCfgWrite h (putF (putF v F.CH_CFG_EN 1) F.CH_CFG_RESET 0))

/-- A write of CH_CFG.RESET that leaves the other fields. -/
def State.chanReset (s : State) (r : ChanRef) : State :=
  let h := chanHome r
  s.onReg h.blk (.channelReset r) (fun (t : State) => t.resetRing h)

/-- LANE_SWAP of a memory or a Filic port. -/
def State.anyLaneSwap (s : State) (r : PortRef) (tx : Bool) (lane : Nat) : State :=
  match r with
  | .mem p => s.laneSwap p tx lane
  | .link l => s.flLaneSwap l lane

/-- What an NMU's command meets in SRAM. -/
def State.nmuUpset (s : State) (n : Nat) (u : Upset) : State := match u with | .flag => s | _ => s.upset 0 n u

/-- A word for OTP_CMD. -/
def otpWord (op slot v : Nat) : Word := putF (putF (putF 0 F.OTP_CMD_OP op) F.OTP_CMD_SLOT slot) F.OTP_CMD_VALUE v

end Sys2Proof.Machine
end

