-- ==== Sys2Proof/Machine/EventsArray.lean ====
section
/-!
DEFINITION. Machine/EventsArray.lean: the meaning of each command of the outer-product array and the operand file (03, 05). Each is one event: the command makes its
effect, whole, once it waits for no earlier one.
-/

namespace Sys2Proof.Machine

/-- LDL (05 R114); an opcode of 0x10 to 0x3F that names no command fails with FORMAT here. -/
def execLdl (k : Fin 72) (u : Upset) (s : State) : Host.Outcome State Fault Refusal :=
  s.act (fun (t : State) => (t.upset k noNmu u).runCmd k isLdl (orFormat (· == 0x10) (ldlEffect k)))

/-- MOPZ (03 R83). -/
def execMopz (k : Fin 72) (u : Upset) (s : State) : Host.Outcome State Fault Refusal :=
  s.act (fun (t : State) => (t.upset k noNmu u).runCmd k (· == 0x20) (mopEffect k true))

/-- MOP (03 R83). -/
def execMop (k : Fin 72) (u : Upset) (s : State) : Host.Outcome State Fault Refusal :=
  s.act (fun (t : State) => (t.upset k noNmu u).runCmd k (· == 0x21) (mopEffect k false))

/-- ASW (03 R84). -/
def execAsw (k : Fin 72) (s : State) : Host.Outcome State Fault Refusal :=
  s.act (fun (t : State) => t.runCmd k (· == 0x24) (aswEffect k))

/-- DRN (03 R86). -/
def execDrn (k : Fin 72) (u : Upset) (s : State) : Host.Outcome State Fault Refusal :=
  s.act (fun (t : State) => (t.upset k noNmu u).runCmd k (· == 0x25) (drnEffect k))

/-- ALAY (03 R74). -/
def execAlay (k : Fin 72) (s : State) : Host.Outcome State Fault Refusal :=
  s.act (fun (t : State) => t.runCmd k (· == 0x26) (alayEffect k))

/-- LFREE (05 R123). -/
def execLfree (k : Fin 72) (s : State) : Host.Outcome State Fault Refusal :=
  s.act (fun (t : State) => t.runCmd k (· == 0x27) (lfreeEffect k))

end Sys2Proof.Machine
end

