-- ==== Sys2Proof/Machine/EventsCore.lean ====
section
/-!
DEFINITION. Machine/EventsCore.lean: the meaning of each command of the control core, launches, halts and saves (02, 05, 06, 07). Each is one event, made whole.
-/

namespace Sys2Proof.Machine

/-- Sticky bits of NUM_STAT are cleared (02 R59). -/
def execNumStatClear (k : Fin 72) (v : Word) (s : State) : Host.Outcome State Fault Refusal :=
  s.act (fun (t : State) => t.onReg (Reg.NUM_STAT k) (.numStatClear k v) (fun t => t.slotWrite k 0x1000 (-1) v))

/-- A DRS write of a scout (02 R64). -/
def execScoutWrite (r : ScoutRef) (v : Nat) (s : State) : Host.Outcome State Fault Refusal :=
  s.act (fun (t : State) => t.scoutWrite r v)

/-- One instruction of a context; an interrupt is taken first where one is pending (07 R167, R176). -/
def execInstruction (k : Fin 72) (h : Bool) (u : Upset) (s : State) : Host.Outcome State Fault Refusal :=
  s.act (fun (t : State) => (t.upset k noNmu u).instruction k h)

/-- CC_CTL.SWI is written (07 R170). -/
def execSwi (k : Fin 72) (on : Bool) (s : State) : Host.Outcome State Fault Refusal :=
  s.act (fun (t : State) => t.onReg (Reg.CC_CTL k) (.swi k on) (fun t => t.setFld (Reg.CC_CTL k) F.CC_CTL_SWI (b01 on)))

/-- The timebase reaches CC_TIMECMP (07 R176). -/
def execTimerInterrupt (k : Fin 72) (s : State) : Host.Outcome State Fault Refusal :=
  s.act (fun (t : State) => t.timerReach k)

/-- NCX.ISSUE (07 R179). -/
def execNcxIssue (k : Fin 72) (h : Bool) (s : State) : Host.Outcome State Fault Refusal :=
  s.act (fun (t : State) => t.ncxIssue k h (fun _ => true))

/-- NCX.XDONE (07 R178). -/
def execNcxXdone (k : Fin 72) (h : Bool) (s : State) : Host.Outcome State Fault Refusal :=
  s.act (fun (t : State) => t.ncxDone k h .xq)

/-- NCX.FDONE (07 R178). -/
def execNcxFdone (k : Fin 72) (h : Bool) (s : State) : Host.Outcome State Fault Refusal :=
  s.act (fun (t : State) => t.ncxDone k h .fq)

/-- NCX.WAITQ (07 R184). -/
def execNcxWaitq (k : Fin 72) (h : Bool) (s : State) : Host.Outcome State Fault Refusal :=
  s.act (fun (t : State) => t.ncxWaitq k h)

/-- NCX.THALT (07 R178). -/
def execNcxThalt (k : Fin 72) (h : Bool) (s : State) : Host.Outcome State Fault Refusal :=
  s.act (fun (t : State) => t.ncxThalt k h)

/-- NCX.XRES (07 R185). -/
def execNcxXres (k : Fin 72) (h : Bool) (s : State) : Host.Outcome State Fault Refusal :=
  s.act (fun (t : State) => t.ncxXres k h)

/-- NCX.HRET (07 R171). -/
def execNcxHret (k : Fin 72) (h : Bool) (s : State) : Host.Outcome State Fault Refusal :=
  s.act (fun (t : State) => t.ncxHret k h)

/-- NCX.KEND (07 R194). -/
def execNcxKend (k : Fin 72) (h : Bool) (s : State) : Host.Outcome State Fault Refusal :=
  s.act (fun (t : State) => t.ncxKend k h)

/-- The handler is dispatched (07 R173). -/
def execHandlerDispatch (k : Fin 72) (s : State) : Host.Outcome State Fault Refusal :=
  s.act (fun (t : State) => t.dispatch k)

/-- A queue refills from its spill ring (07 R181). -/
def execSpillRefill (k : Fin 72) (fq : Bool) (s : State) : Host.Outcome State Fault Refusal :=
  s.act (fun (t : State) => t.refill k (qOf fq))

/-- The command with a ticket completes (07 R184). -/
def execCommandComplete (k : Fin 72) (fq : Bool) (ticket : Nat) (s : State) : Host.Outcome State Fault Refusal :=
  s.act (fun (t : State) => t.complete k (qOf fq) ticket)

/-- KL_CTL.GO (07 R191). -/
def execGo (k : Fin 72) (s : State) : Host.Outcome State Fault Refusal :=
  s.act (fun (t : State) => t.onReg (Reg.KL_CTL k) (.go k) (fun t => t.goWrite k))

/-- The kernel starts (07 R192). -/
def execKernelStart (k : Fin 72) (s : State) : Host.Outcome State Fault Refusal := s.act (fun (t : State) => t.kernelStart k)

/-- The ending kernel commits (07 R194). -/
def execKernelCommit (k : Fin 72) (s : State) : Host.Outcome State Fault Refusal := s.act (fun (t : State) => t.commit k)

/-- KL_CTL.ABORT (07 R195). -/
def execAbort (k : Fin 72) (s : State) : Host.Outcome State Fault Refusal :=
  s.act (fun (t : State) => t.onReg (Reg.KL_CTL k) (.abort k) (fun t => t.abort k))

/-- TILE_CTL.HALT (05 R125, R129). -/
def execHalt (k : Fin 72) (on : Bool) (s : State) : Host.Outcome State Fault Refusal :=
  s.act (fun (t : State) => t.onReg (Reg.TILE_CTL k) (.halt k on) (fun t => t.tileHalt k on))

/-- The halt is complete; `ps` says what the abandoned commands had done (05 R127, R128). -/
def execHaltComplete (k : Fin 72) (ps : List Partial) (s : State) : Host.Outcome State Fault Refusal :=
  s.act (fun (t : State) => t.haltDone k ps)

/-- TILE_CTL.SAVE (05 R132). -/
def execSave (k : Fin 72) (u : Upset) (s : State) : Host.Outcome State Fault Refusal :=
  s.act (fun (t : State) => t.onReg (Reg.TILE_CTL k) (.save k u) (fun t => (t.upset k noNmu u).startSave k false))

/-- TILE_CTL.RESTORE (05 R133). -/
def execRestore (k : Fin 72) (s : State) : Host.Outcome State Fault Refusal :=
  s.act (fun (t : State) => t.onReg (Reg.TILE_CTL k) (.restore k) (fun t => t.startRestore k false))

/-- A save or restore completes (05 R134). -/
def execSaveRestoreDone (k : Fin 72) (s : State) : Host.Outcome State Fault Refusal := s.act (fun (t : State) => t.srDone k)

/-- VR_SAVE.SAVE (06 R166). -/
def execVrRegSave (k : Fin 72) (u : Upset) (s : State) : Host.Outcome State Fault Refusal :=
  s.act (fun (t : State) => t.onReg (Reg.VR_SAVE k) (.vrRegSave k u) (fun t => (t.upset k noNmu u).startVrSave k true false))

/-- VR_SAVE.RESTORE (06 R166). -/
def execVrRegRestore (k : Fin 72) (s : State) : Host.Outcome State Fault Refusal :=
  s.act (fun (t : State) => t.onReg (Reg.VR_SAVE k) (.vrRegRestore k) (fun t => t.startVrSave k false true))

/-- A register-file save or restore completes (06 R166). -/
def execVrSaveDone (k : Fin 72) (s : State) : Host.Outcome State Fault Refusal := s.act (fun (t : State) => t.vrSaveDone k)

end Sys2Proof.Machine
end

