-- ==== Sys2Proof/Machine/EventsHost.lean ====
section
/-!
DEFINITION. Machine/EventsHost.lean: the meaning of each command of the host attach port and the host complex (18). Each is one event, made whole.
-/

namespace Sys2Proof.Machine

/-- DRS_RD (18 R462). -/
def execDrsRd (owner : Bool) (fleet : Nat) (tag : Nat) (off : Nat) (n : Nat) (s : State) : Host.Outcome State Fault Refusal :=
  s.act (fun (t : State) => t.drsRdCmd owner fleet tag off n)

/-- DRS_WR (18 R462). -/
def execDrsWr (owner : Bool) (fleet : Nat) (off : Nat) (bytes : List Byte) (b : BootIn) (s : State) : Host.Outcome State Fault Refusal :=
  s.act (fun (t : State) => t.drsWrCmd owner fleet off bytes b)

/-- EM_RD (18 R462). -/
def execEmRd (owner : Bool) (fleet : Nat) (tag : Nat) (addr : Nat) (n : Nat) (s : State) : Host.Outcome State Fault Refusal :=
  s.act (fun (t : State) => t.emRd owner fleet tag addr n)

/-- EM_WR (18 R462). -/
def execEmWr (owner : Bool) (fleet : Nat) (addr : Nat) (bytes : List Byte) (s : State) : Host.Outcome State Fault Refusal :=
  s.act (fun (t : State) => t.emWr owner fleet addr bytes)

/-- HPUT (18 R462). -/
def execHput (owner : Bool) (fleet : Nat) (core : Nat) (addr : Nat) (tally : Option Nat) (bytes : List Byte) (s : State) : Host.Outcome State Fault Refusal :=
  s.act (fun (t : State) => t.hput owner fleet core addr tally bytes)

/-- FLUSH (18 R462). -/
def execFlush (tag : Nat) (s : State) : Host.Outcome State Fault Refusal := s.act (fun (t : State) => t.flush tag)

/-- An inbound completion (18 R462). -/
def execCpl (tag : Nat) (status : Nat) (bytes : List Byte) (s : State) : Host.Outcome State Fault Refusal :=
  s.act (fun (t : State) => t.cplIn tag status bytes)

/-- An outbound access times out (18 R465). -/
def execHostTimeout (tag : Nat) (s : State) : Host.Outcome State Fault Refusal :=
  s.act (fun (t : State) => t.hostTimeout tag)

/-- HCS_GO.SEND (18 R470). -/
def execSend (a : Fin 8) (s : State) : Host.Outcome State Fault Refusal := s.act (fun (t : State) => t.hostSendGo a)

/-- HCS_GO.PUT (18 R470). -/
def execPut (a : Fin 8) (s : State) : Host.Outcome State Fault Refusal := s.act (fun (t : State) => t.hostPut a)

/-- HC_FWCMD.VERIFY (18 R472). -/
def execVerify (s : State) : Host.Outcome State Fault Refusal := s.act (fun (t : State) => t.fwVerify)

/-- HC_CTL.RESTART (18 R472). -/
def execRestart (mask : Nat) (s : State) : Host.Outcome State Fault Refusal := s.act (fun (t : State) => t.fwRestart mask)

/-- OTP_CMD PROG_KEY (18 R484). -/
def execProgKey (slot : Fin 4) (s : State) : Host.Outcome State Fault Refusal :=
  s.act (fun (t : State) => t.otpCmd (otpWord 1 slot 0))

/-- OTP_CMD REVOKE (18 R484). -/
def execRevokeKey (slot : Fin 4) (s : State) : Host.Outcome State Fault Refusal :=
  s.act (fun (t : State) => t.otpCmd (otpWord 2 slot 0))

/-- OTP_CMD SET_DEBUG (18 R484). -/
def execSetDebug (s : State) : Host.Outcome State Fault Refusal := s.act (fun (t : State) => t.otpCmd (otpWord 3 0 0))

/-- OTP_CMD SET_MFR (18 R484). -/
def execSetMfr (v : Nat) (s : State) : Host.Outcome State Fault Refusal :=
  s.act (fun (t : State) => t.otpCmd (otpWord 4 0 v))

/-- An access of a host core (18 R467, R468). -/
def execHostCoreAccess (a : Fin 8) (addr : Nat) (op : HostOp) (evict : List Nat) (b : BootIn) (s : State) : Host.Outcome State Fault Refusal :=
  s.act (fun (t : State) => t.hostAccess a addr op evict b)

/-- The wrapper returns credits (18 R463). -/
def execOutboundCreditReturn (pw : Nat) (npr : Nat) (s : State) : Host.Outcome State Fault Refusal :=
  s.act (fun (t : State) => t.creditReturn pw npr)

/-- An inbound packet that is not taken (18 R462, R465). -/
def execMalformedPacket (ch : Nat) (op : Nat) (tag : Nat) (parity : Bool) (hdr : Bool) (s : State) : Host.Outcome State Fault Refusal :=
  s.act (fun (t : State) => t.malformed ch op tag parity hdr)

end Sys2Proof.Machine
end

