-- ==== Sys2Proof/Machine/EventsKeep.lean ====
section
/-!
DEFINITION. Machine/EventsKeep.lean: the meaning of each command of Reckoner, Compass, configuration, repair, Logbook, semaphores (14 to 17). Each is one event, made whole.
-/

namespace Sys2Proof.Machine

/-- RK_CMD ADMIT (14 R380). -/
def execAdmitPassage (s : State) : Host.Outcome State Fault Refusal := s.act (fun (t : State) => t.rkCommand State.admitPassage)

/-- RK_CMD RELEASE (14 R389). -/
def execRelease (pid : Nat) (s : State) : Host.Outcome State Fault Refusal := s.act (fun (t : State) => t.rkCommand (fun t => t.release pid))

/-- The deadline of passage entry `q` (14 R388). -/
def execRunDeadline (q : Fin 32) (s : State) : Host.Outcome State Fault Refusal := s.act (fun (t : State) => t.runDeadline q)

/-- RK_CTL.RT (14 R390). -/
def execRt (on : Bool) (s : State) : Host.Outcome State Fault Refusal := s.act (fun (t : State) => t.rtWrite on)

/-- A pace window ends (14 R375). -/
def execPaceWindow (n : Fin 100) (meas : Nat) (tj : Nat) (s : State) : Host.Outcome State Fault Refusal :=
  s.act (fun (t : State) => t.paceWindow n meas tj)

/-- PACE_Pn.SAG is written 1 (14 R376). -/
def execSagClear (n : Fin 100) (s : State) : Host.Outcome State Fault Refusal :=
  s.act (fun (t : State) => t.paceWrite n (putF 0 F.PACE_P_SAG 1))

/-- Three pace reports are missing (17 R447). -/
def execPaceLost (n : Fin 100) (s : State) : Host.Outcome State Fault Refusal := s.act (fun (t : State) => t.quarantine n 3)

/-- A governor asks for power (15 R398). -/
def execGrantRequest (n : Fin 100) (classes : Nat) (s : State) : Host.Outcome State Fault Refusal :=
  s.act (fun (t : State) => t.grantRequest n classes)

/-- Compass grants (15 R399). -/
def execGrant (s : State) : Host.Outcome State Fault Refusal := s.act (fun (t : State) => t.grant)

/-- Idle classes release their quanta (15 R399). -/
def execGrantRelease (n : Fin 100) (classes : Nat) (s : State) : Host.Outcome State Fault Refusal :=
  s.act (fun (t : State) => t.grantRelease n classes)

/-- ZN_CMD LOAD (16 R420). -/
def execLoad (s : State) : Host.Outcome State Fault Refusal := s.act (fun (t : State) => t.znLoad)

/-- The image is read and checked; `src`: what the flash or host memory gave (16 R420). -/
def execLoadComplete (src : Option (List Byte)) (s : State) : Host.Outcome State Fault Refusal :=
  s.act (fun (t : State) => t.znLoaded src)

/-- ZN_CMD APPLY (16 R426). -/
def execApply (s : State) : Host.Outcome State Fault Refusal := s.act (fun (t : State) => t.znApply)

/-- ZN_CMD STAGE_WARM (16 R430). -/
def execStageWarm (s : State) : Host.Outcome State Fault Refusal := s.act (fun (t : State) => t.znStage)

/-- ZN_CMD ABORT (16 R427). -/
def execZnAbort (s : State) : Host.Outcome State Fault Refusal := s.act (fun (t : State) => t.znAbort)

/-- ZN_CMD DISCARD (16 R430). -/
def execDiscard (s : State) : Host.Outcome State Fault Refusal := s.act (fun (t : State) => t.znDiscard)

/-- The next polders close at their sluices (16 R422). -/
def execSluiceClosure (s : State) : Host.Outcome State Fault Refusal := s.act (fun (t : State) => t.sluiceClose)

/-- The closed polders have drained (16 R422). -/
def execSluice (s : State) : Host.Outcome State Fault Refusal := s.act (fun (t : State) => t.sluice)

/-- A drain takes longer than 1.0 us (16 R423). -/
def execDrainOverrun (s : State) : Host.Outcome State Fault Refusal := s.act (fun (t : State) => t.drainOverrun)

/-- A deferred change goes on (16 R424). -/
def execDeferredChangeResume (s : State) : Host.Outcome State Fault Refusal := s.act (fun (t : State) => t.zenResume)

/-- RP_CTL RELIEVE (17 R443). -/
def execRelieve (id : Fin 64) (s : State) : Host.Outcome State Fault Refusal := s.act (fun (t : State) => t.relieve id)

/-- A copy pass ends (17 R443). -/
def execCopyPassDone (s : State) : Host.Outcome State Fault Refusal := s.act (fun (t : State) => t.copyPassDone)

/-- The relief commits (17 R444). -/
def execReliefCommit (s : State) : Host.Outcome State Fault Refusal := s.act (fun (t : State) => t.reliefCommit)

/-- RP_CTL SOUND (17 R439). -/
def execSound (n : Fin 100) (s : State) : Host.Outcome State Fault Refusal := s.act (fun (t : State) => t.sound n)

/-- The next sounding or relief of a sector falls due (17 R441). -/
def execSoundingRotation (sec : Fin 8) (polder : Bool) (s : State) : Host.Outcome State Fault Refusal :=
  s.act (fun (t : State) => t.soundingRotation sec polder)

/-- Waiting work `i` is tried again (17 R441). -/
def execSoundingRetry (i : Nat) (s : State) : Host.Outcome State Fault Refusal :=
  s.act (fun (t : State) => t.soundingRetry i)

/-- A sounding ends (17 R439). -/
def execSoundingDone (n : Fin 100) (found : Found) (s : State) : Host.Outcome State Fault Refusal :=
  s.act (fun (t : State) => t.soundingDone n found)

/-- RP_CTL QUARANTINE (17 R448). -/
def execQuarantine (n : Fin 100) (s : State) : Host.Outcome State Fault Refusal :=
  s.act (fun (t : State) => t.quarantineCmd n)

/-- RP_CTL UNQUARANTINE (17 R451). -/
def execUnquarantine (n : Fin 100) (s : State) : Host.Outcome State Fault Refusal :=
  s.act (fun (t : State) => t.unquarantine n)

/-- A dike handshake is unanswered (17 R447). -/
def execDikeTimeout (n : Fin 100) (s : State) : Host.Outcome State Fault Refusal :=
  s.act (fun (t : State) => t.quarantine n 2)

/-- The repair map is written (17 R435). -/
def execRepairMapWrite (s : State) : Host.Outcome State Fault Refusal := s.act (fun (t : State) => t.repairMapWrite)

/-- The wear ledger record is written (15 R408). -/
def execWearLedger (s : State) : Host.Outcome State Fault Refusal := s.act (fun (t : State) => t.wearLedger)

/-- Report `i` enters the Logbook (17 R457). -/
def execLogbookRecord (i : Nat) (s : State) : Host.Outcome State Fault Refusal :=
  s.act (fun (t : State) => t.logbookRecord i)

/-- A batch of records is persisted (15 R406). -/
def execLogbookBatch (s : State) : Host.Outcome State Fault Refusal := s.act (fun (t : State) => t.logbookBatch)

/-- SEM_CMD DOWN of agent `a` (17 R452). -/
def execDown (a : Fin 9) (owner : Nat) (sem : Fin 256) (s : State) : Host.Outcome State Fault Refusal :=
  s.act (fun (t : State) => t.semCommand a .down owner sem)

/-- SEM_CMD UP of agent `a` (17 R452). -/
def execUp (a : Fin 9) (owner : Nat) (sem : Fin 256) (s : State) : Host.Outcome State Fault Refusal :=
  s.act (fun (t : State) => t.semCommand a .up owner sem)

/-- SEM_CMD INIT of agent `a` (17 R452). -/
def execInit (a : Fin 9) (sem : Fin 256) (v : Nat) (s : State) : Host.Outcome State Fault Refusal :=
  s.act (fun (t : State) => t.semCommand a (.init v) 0 sem)

end Sys2Proof.Machine
end

