-- ==== Sys2Proof/Machine/EventsLink.lean ====
section
/-!
DEFINITION. Machine/EventsLink.lean: the meaning of each command of Filic links (13). Each is one event, made whole.
-/

namespace Sys2Proof.Machine

/-- A Filic frame that is in order and good (13 R348). -/
def execFilicFrame (l : Fin 8) (fec frame : List Byte) (s : State) : Host.Outcome State Fault Refusal :=
  s.act (fun (t : State) => t.filicFrame l (frame ++ fec))

/-- A Filic frame that is not (13 R348). -/
def execFrameDiscarded (l : Fin 8) (fec frame : List Byte) (s : State) : Host.Outcome State Fault Refusal :=
  s.act (fun (t : State) => t.frameDiscarded l (frame ++ fec))

/-- A frame of a Filic port (13 R355). -/
def execFlTxFrame (l : Fin 8) (s : State) : Host.Outcome State Fault Refusal := s.act (fun (t : State) => t.flTxFrame l)

/-- RD_STAT.WAKE (13 R364). -/
def execRdWake (e : Fin 64) (s : State) : Host.Outcome State Fault Refusal :=
  s.act (fun (t : State) => t.onReg (Reg.RD_STAT e) (.rdWake e) (fun t => t.rdWake e))

/-- A Filic training ends (13 R349). -/
def execFlTrainingDone (l : Fin 8) (ok : Bool) (node : Nat) (badRx : List Nat) (badTx : List Nat) (s : State) : Host.Outcome State Fault Refusal :=
  s.act (fun (t : State) => t.flTrainingDone l ok node badRx badTx)

/-- FL_CTL.LOSE (13 R351). -/
def execFlLose (l : Fin 8) (s : State) : Host.Outcome State Fault Refusal :=
  s.act (fun (t : State) => t.onReg (Reg.FL_CTL l) (.flLose l) (fun t => t.loseFl l))

/-- FL_CTL.RETRAIN (13 R349). -/
def execFlRetrain (l : Fin 8) (s : State) : Host.Outcome State Fault Refusal :=
  s.act (fun (t : State) => t.onReg (Reg.FL_CTL l) (.flRetrain l) (fun t => t.retrainFl l))

/-- PHY_REFCLK returns (19 R492). -/
def execPhyRefclkReturn (s : State) : Host.Outcome State Fault Refusal := s.act (fun (t : State) => t.phyReturn)

end Sys2Proof.Machine
end

