-- ==== Sys2Proof/Machine/EventsMemory.lean ====
section
/-!
DEFINITION. Machine/EventsMemory.lean: the meaning of each command of memory ports and translation (11). Each is one event, made whole.
-/

namespace Sys2Proof.Machine

/-- A frame from the stack (11 R289). -/
def execUzodalFrame (p : Fin 20) (frame : List Byte) (s : State) : Host.Outcome State Fault Refusal :=
  s.act (fun (t : State) => t.rxFrame p frame)

/-- A frame to the stack (11 R288). -/
def execTxFrame (p : Fin 20) (s : State) : Host.Outcome State Fault Refusal := s.act (fun (t : State) => t.txFrame p)

/-- The request in packet `i` reaches its port (11 R297). -/
def execMemoryRequest (i : Nat) (s : State) : Host.Outcome State Fault Refusal :=
  s.act (fun (t : State) => t.crossing i (fun t => t.memoryRequest i))

/-- The delta in packet `i` reaches the parity port (11 R305). -/
def execParityDelta (i : Nat) (s : State) : Host.Outcome State Fault Refusal := s.act (fun (t : State) => t.crossing i (fun t => t.parityDelta i))

/-- Rebuild `j` of port `p` ends (11 R306). -/
def execRebuildDone (p : Fin 20) (j : Nat) (s : State) : Host.Outcome State Fault Refusal :=
  s.act (fun (t : State) => t.rebuildDone p j)

/-- The scrubber's next block (11 R304). -/
def execScrub (p : Fin 20) (s : State) : Host.Outcome State Fault Refusal := s.act (fun (t : State) => t.scrubStep p)

/-- A memory port's training ends (11 R294). -/
def execTrainingDone (p : Fin 20) (ok : Bool) (badRx : List Nat) (badTx : List Nat) (s : State) : Host.Outcome State Fault Refusal :=
  s.act (fun (t : State) => t.trainingDone p ok badRx badTx)

/-- A lane is replaced by a spare (11 R295, 13 R350). -/
def execLaneSwap (r : PortRef) (tx : Bool) (lane : Nat) (s : State) : Host.Outcome State Fault Refusal :=
  s.act (fun (t : State) => t.anyLaneSwap r tx lane)

/-- MP_CTL.LOSE (11 R306). -/
def execMpLose (p : Fin 20) (s : State) : Host.Outcome State Fault Refusal :=
  s.act (fun (t : State) => t.onReg (Reg.MP_CTL p) (.mpLose p) (fun t => t.loseMp p))

/-- MP_CTL.RETRAIN (11 R294). -/
def execMpRetrain (p : Fin 20) (s : State) : Host.Outcome State Fault Refusal :=
  s.act (fun (t : State) => t.onReg (Reg.MP_CTL p) (.mpRetrain p) (fun t => t.retrainMp p))

/-- The walk for a stream ends (11 R309). -/
def execWalkComplete (k : Fin 72) (i : Fin 32) (s : State) : Host.Outcome State Fault Refusal :=
  s.act (fun (t : State) => t.walkDone k i)

/-- XL_INV.GO, with the register's fields (11 R311). -/
def execXlInv (v : Word) (s : State) : Host.Outcome State Fault Refusal :=
  s.act (fun (t : State) => t.xlInvWrite (putF v F.XL_INV_GO 1))

/-- The invalidation is complete (11 R311). -/
def execInvalidationDone (s : State) : Host.Outcome State Fault Refusal := s.act (fun (t : State) => t.invDone)

/-- A write of XF_RING (11 R315). -/
def execXfRingEnable (v : Word) (s : State) : Host.Outcome State Fault Refusal := s.act (fun (t : State) => t.xfRingWrite v)

/-- A write of XF_PTR.RP (11 R312). -/
def execXfRp (rp : Nat) (s : State) : Host.Outcome State Fault Refusal := s.act (fun (t : State) => t.xfRpWrite rp)

end Sys2Proof.Machine
end

