-- ==== Sys2Proof/Machine/EventsMessage.lean ====
section
/-!
DEFINITION. Machine/EventsMessage.lean: the meaning of each command of messages, multicast and combining nodes (09). Each is one event, made whole.
-/

namespace Sys2Proof.Machine

/-- NCX.ISSUE of a MSG.SEND (09 R241). -/
def execMsgSend (k : Fin 72) (h : Bool) (s : State) : Host.Outcome State Fault Refusal :=
  s.act (fun (t : State) => t.ncxIssue k h (fun c => opcode c == 0xA0))

/-- NCX.ISSUE of a MSG.REPLY (09 R241). -/
def execMsgReply (k : Fin 72) (h : Bool) (s : State) : Host.Outcome State Fault Refusal :=
  s.act (fun (t : State) => t.ncxIssue k h (fun c => opcode c == 0xA1))

/-- NCX.ISSUE of a MSG.MCAST with BULK 0 (09 R254). -/
def execShortMulticast (k : Fin 72) (h : Bool) (s : State) : Host.Outcome State Fault Refusal :=
  s.act (fun (t : State) => t.ncxIssue k h (fun c => opcode c == 0xA2 && !mcBulk c))

/-- NCX.ISSUE of a MSG.MCAST with BULK 1 (09 R255). -/
def execBulkMulticast (k : Fin 72) (h : Bool) (s : State) : Host.Outcome State Fault Refusal :=
  s.act (fun (t : State) => t.ncxIssue k h (fun c => opcode c == 0xA2 && mcBulk c))

/-- The next packet of a bulk multicast goes (09 R255). -/
def execBulkPacket (k : Fin 72) (u : Upset) (s : State) : Host.Outcome State Fault Refusal :=
  s.act (fun (t : State) => (t.upset k noNmu u).bulkPacket k)

/-- The member's acknowledgement in packet `i` arrives (09 R255). -/
def execMemberAck (i : Nat) (s : State) : Host.Outcome State Fault Refusal := s.act (fun (t : State) => t.crossing i (fun t => t.memberAck i))

/-- NCX.ISSUE of a MSG.COMB (09 R257). -/
def execMsgComb (k : Fin 72) (h : Bool) (s : State) : Host.Outcome State Fault Refusal :=
  s.act (fun (t : State) => t.ncxIssue k h (fun c => opcode c == 0xA3))

/-- The request in packet `i` arrives (09 R246). -/
def execRequestArrival (i : Nat) (s : State) : Host.Outcome State Fault Refusal :=
  s.act (fun (t : State) => t.crossing i (fun t => t.requestArrival i))

/-- The reply in packet `i` arrives (09 R248). -/
def execReplyArrival (i : Nat) (s : State) : Host.Outcome State Fault Refusal := s.act (fun (t : State) => t.crossing i (fun t => t.replyArrival i))

/-- The admission acknowledgement in packet `i` arrives (09 R242). -/
def execAdmissionAck (i : Nat) (s : State) : Host.Outcome State Fault Refusal := s.act (fun (t : State) => t.crossing i (fun t => t.admissionAck i))

/-- The refusal in packet `i` arrives (09 R246). -/
def execRefusal (i : Nat) (s : State) : Host.Outcome State Fault Refusal := s.act (fun (t : State) => t.crossing i (fun t => t.refusal i))

/-- The wake in packet `i` arrives (09 R246). -/
def execChannelWake (i : Nat) (s : State) : Host.Outcome State Fault Refusal := s.act (fun (t : State) => t.crossing i (fun t => t.channelWake i))

/-- CH_CFG.EN goes from 0 to 1 (09 R235). -/
def execChannelEnable (r : ChanRef) (v : Word) (s : State) : Host.Outcome State Fault Refusal :=
  s.act (fun (t : State) => t.chanEnable r v)

/-- CH_CFG.RESET (09 R235). -/
def execChannelReset (r : ChanRef) (s : State) : Host.Outcome State Fault Refusal := s.act (fun (t : State) => t.chanReset r)

/-- CN_CTL.ARM (09 R256). -/
def execArm (c : Fin 32) (s : State) : Host.Outcome State Fault Refusal :=
  s.act (fun (t : State) => t.onReg (Reg.CN_CTL c) (.arm c) (fun t => t.cnArm c))

/-- CN_CTL.CANCEL (09 R259). -/
def execCnCancel (c : Fin 32) (s : State) : Host.Outcome State Fault Refusal :=
  s.act (fun (t : State) => t.onReg (Reg.CN_CTL c) (.cnCancel c) (fun t => t.cnCancel c 0x02))

/-- Combining node `c` takes a contribution (09 R257). -/
def execContribution (c : Fin 32) (i : Nat) (s : State) : Host.Outcome State Fault Refusal :=
  s.act (fun (t : State) => t.crossing i (fun t => t.contribution c i))

/-- The result acknowledgement in packet `i` arrives (09 R258). -/
def execResultAck (i : Nat) (s : State) : Host.Outcome State Fault Refusal := s.act (fun (t : State) => t.crossing i (fun t => t.resultAck i))

end Sys2Proof.Machine
end

