-- ==== Sys2Proof/Machine/EventsNmu.lean ====
section
/-!
DEFINITION. Machine/EventsNmu.lean: the meaning of each command of Near-Memory Units and reductions (12, 13). Each is one event, made whole.
-/

namespace Sys2Proof.Machine

/-- STAGE (12 R320), or a reserved NOP: it starts, and runs on by up to `m` units. -/
def execStage (n : Fin 20) (m : Nat) (u : Upset) (s : State) : Host.Outcome State Fault Refusal :=
  s.act (fun (t : State) => (t.nmuUpset n u).nmuRun n 0x01 m)

/-- MV (12 R326): it starts, and runs on by up to `m` units. -/
def execMv (n : Fin 20) (m : Nat) (u : Upset) (s : State) : Host.Outcome State Fault Refusal :=
  s.act (fun (t : State) => (t.nmuUpset n u).nmuRun n 0x10 m)

/-- SGD (12 R329): it starts, and runs on by up to `m` units. -/
def execSgd (n : Fin 20) (m : Nat) (u : Upset) (s : State) : Host.Outcome State Fault Refusal :=
  s.act (fun (t : State) => (t.nmuUpset n u).nmuRun n 0x20 m)

/-- EMB (12 R332): it starts, and runs on by up to `m` units. -/
def execEmb (n : Fin 20) (m : Nat) (u : Upset) (s : State) : Host.Outcome State Fault Refusal :=
  s.act (fun (t : State) => (t.nmuUpset n u).nmuRun n 0x21 m)

/-- SCAN (12 R333): it starts, and runs on by up to `m` units. -/
def execScan (n : Fin 20) (m : Nat) (u : Upset) (s : State) : Host.Outcome State Fault Refusal :=
  s.act (fun (t : State) => (t.nmuUpset n u).nmuRun n 0x22 m)

/-- CVT (12 R335): it starts, and runs on by up to `m` units. -/
def execCvt (n : Fin 20) (m : Nat) (u : Upset) (s : State) : Host.Outcome State Fault Refusal :=
  s.act (fun (t : State) => (t.nmuUpset n u).nmuRun n 0x30 m)

/-- IRED (12 R336): it starts, and runs on by up to `m` units. -/
def execIred (n : Fin 20) (m : Nat) (u : Upset) (s : State) : Host.Outcome State Fault Refusal :=
  s.act (fun (t : State) => (t.nmuUpset n u).nmuRun n 0x31 m)

/-- GATHER (12 R334): it starts, and runs on by up to `m` units. -/
def execGather (n : Fin 20) (m : Nat) (u : Upset) (s : State) : Host.Outcome State Fault Refusal :=
  s.act (fun (t : State) => (t.nmuUpset n u).nmuRun n 0x40 m)

/-- SCATTER (12 R334): it starts, and runs on by up to `m` units. -/
def execScatter (n : Fin 20) (m : Nat) (u : Upset) (s : State) : Host.Outcome State Fault Refusal :=
  s.act (fun (t : State) => (t.nmuUpset n u).nmuRun n 0x41 m)

/-- TAGRES (13 R362). -/
def execTagres (n : Fin 20) (s : State) : Host.Outcome State Fault Refusal := s.act (fun (t : State) => t.tagres n)

/-- TAGRET (12 R341). -/
def execTagret (n : Fin 20) (s : State) : Host.Outcome State Fault Refusal := s.act (fun (t : State) => t.tagret n)

/-- The running command, or the tag in a slot, completes (12 R324). -/
def execNmuComplete (n : Fin 20) (tag : Option Nat) (s : State) : Host.Outcome State Fault Refusal :=
  s.act (fun (t : State) => t.nmuComplete n tag)

/-- The scout report in packet `i` arrives (12 R331). -/
def execScoutReport (i : Nat) (s : State) : Host.Outcome State Fault Refusal := s.act (fun (t : State) => t.crossing i (fun t => t.scoutReport i))

/-- NMU_CTL: FLEET is written with ABORT_FLEET (12 R325). -/
def execAbortFleet (n : Fin 20) (fleet : Fin 16) (s : State) : Host.Outcome State Fault Refusal :=
  s.act (fun (t : State) => t.onReg (Reg.NMU_CTL n) (.abortFleet n fleet) (fun t => (t.setFld (Reg.NMU_CTL n) F.NMU_CTL_FLEET fleet).abortFleet n fleet))

/-- NMU_CTL: TAG is written with ABORT_TAG (12 R325). -/
def execAbortTag (n : Fin 20) (tag : Nat) (s : State) : Host.Outcome State Fault Refusal :=
  s.act (fun (t : State) => t.onReg (Reg.NMU_CTL n) (.abortTag n tag) (fun t => (t.setFld (Reg.NMU_CTL n) F.NMU_CTL_TAG tag).abortTag n tag))

/-- Tag slot `e` sends its next block (13 R362). -/
def execContribSend (n : Fin 20) (e : Nat) (s : State) : Host.Outcome State Fault Refusal :=
  s.act (fun (t : State) => t.contribSend n e)

/-- The contribution in packet `i` arrives (12 R338). -/
def execContrib (i : Nat) (s : State) : Host.Outcome State Fault Refusal := s.act (fun (t : State) => t.crossing i (fun t => t.redContrib i))

/-- The result in packet `i` arrives (13 R363). -/
def execResult (i : Nat) (s : State) : Host.Outcome State Fault Refusal := s.act (fun (t : State) => t.crossing i (fun t => t.redResult i))

end Sys2Proof.Machine
end

