-- ==== Sys2Proof/Machine/EventsReset.lean ====
section
/-!
DEFINITION. Machine/EventsReset.lean: the meaning of each command of resets, supplies, clocks and management ports (15, 18, 19). Each is one event, made whole.
-/

namespace Sys2Proof.Machine

/-- RESET_N is released (18 R475), or goes low and is held (19 R487); it overrides everything, a stopped block included (15 R405). -/
def execResetN (b : BootIn) (s : State) : Host.Outcome State Fault Refusal := .next (s.framed (s.coldReset b)).fresh

/-- WARM_N low for 1 us (18 R476). -/
def execWarmN (b : BootIn) (s : State) : Host.Outcome State Fault Refusal := s.act (fun (t : State) => t.warmPin b)

/-- RST_CTL.WARM with its key (18 R476). -/
def execWarm (b : BootIn) (s : State) : Host.Outcome State Fault Refusal := s.act (fun (t : State) => t.warmReset 2 b)

/-- BT_CTL.GO (18 R474). -/
def execBootGo (b : BootIn) (s : State) : Host.Outcome State Fault Refusal := s.act (fun (t : State) => t.bootGo b)

/-- PWR_FAIL_N low after filtering, at VIN of `mv` (15 R404). -/
def execPwrFailN (mv : Nat) (s : State) : Host.Outcome State Fault Refusal := s.act (fun (t : State) => t.pwrFail mv)

/-- VIN below 1.62 V (15 R404); `pwr`: PWR_FAIL_N is low too. -/
def execVinLow (mv : Nat) (pwr : Bool) (s : State) : Host.Outcome State Fault Refusal :=
  s.act (fun (t : State) => t.vinLow mv pwr)

/-- VKEEP below 1.30 V before BERM_DONE (15 R407); it reaches a stopped block. -/
def execVkeepLow (mv : Nat) (s : State) : Host.Outcome State Fault Refusal := .next (s.framed (s.vkeepLow mv))

/-- VIN below 1.71 V (15 R402). -/
def execVinWarn (mv : Nat) (s : State) : Host.Outcome State Fault Refusal := s.act (fun (t : State) => t.vinWarn mv)

/-- VIN at or above 1.74 V for 100 us (15 R402). -/
def execVinRecover (mv : Nat) (s : State) : Host.Outcome State Fault Refusal := s.act (fun (t : State) => t.vinRecover mv)

/-- Polder `n` reaches 125 C (15 R403). -/
def execThermTrip (n : Fin 100) (s : State) : Host.Outcome State Fault Refusal := s.act (fun (t : State) => t.thermTrip n)

/-- PMB_ALERT_N low; the device at `addr` answers with its STATUS_WORD (18 R481). -/
def execPmbAlertN (addr : Nat) (status : Nat) (s : State) : Host.Outcome State Fault Refusal :=
  s.act (fun (t : State) => t.pmbAlert addr status)

/-- The poll of 1 ms; `answers` gives (device, VOUT, IOUT, STATUS) (18 R481). -/
def execPmbusPoll (answers : List (Nat × Nat × Nat × Nat)) (s : State) : Host.Outcome State Fault Refusal :=
  s.act (fun (t : State) => t.pmbPoll answers)

/-- TB_REFCLK lost (19 R492). -/
def execTbRefclkLost (s : State) : Host.Outcome State Fault Refusal := s.act (fun (t : State) => t.tbLost)

/-- TB_REFCLK returns (19 R492). -/
def execTbRefclkReturn (s : State) : Host.Outcome State Fault Refusal := s.act (fun (t : State) => t.tbReturn)

/-- PHY_REFCLK lost (19 R492). -/
def execPhyRefclkLost (s : State) : Host.Outcome State Fault Refusal := s.act (fun (t : State) => t.phyLost)

/-- HA_CLK starts (19 R489). -/
def execHaClkStart (s : State) : Host.Outcome State Fault Refusal := s.act (fun (t : State) => t.haClkStart)

/-- TRST_N resets the test logic only (18 R483). -/
def execTrstN (s : State) : Host.Outcome State Fault Refusal := s.act (fun (t : State) => t.jtagReset)

/-- BYPASS (18 R483). -/
def execBypass (s : State) : Host.Outcome State Fault Refusal := s.act (fun (t : State) => t.jtagBypass)

/-- IDCODE (18 R483). -/
def execIdcode (s : State) : Host.Outcome State Fault Refusal := s.act (fun (t : State) => t.jtagIdcode)

/-- SAMPLE/PRELOAD (18 R483). -/
def execSamplePreload (pins : Word) (cells : Word) (s : State) : Host.Outcome State Fault Refusal :=
  s.act (fun (t : State) => t.jtagSample pins cells)

/-- EXTEST (18 R483). -/
def execExtest (pins : Word) (cells : Word) (s : State) : Host.Outcome State Fault Refusal :=
  s.act (fun (t : State) => t.jtagExtest pins cells)

/-- The dynamic address by ENTDAA (18 R480). -/
def execEntdaa (addr : Nat) (s : State) : Host.Outcome State Fault Refusal := s.act (fun (t : State) => t.entdaa addr)

/-- The dynamic address by SETDASA (18 R480). -/
def execSetdasa (static : Nat) (addr : Nat) (s : State) : Host.Outcome State Fault Refusal :=
  s.act (fun (t : State) => t.setdasa static addr)

/-- An I3C read (18 R480). -/
def execI3cRead (off : Nat) (s : State) : Host.Outcome State Fault Refusal := s.act (fun (t : State) => t.i3cRead off)

/-- An I3C write (18 R480). -/
def execI3cWrite (off : Nat) (v : Word) (b : BootIn) (s : State) : Host.Outcome State Fault Refusal :=
  s.act (fun (t : State) => t.i3cWrite off v b)

/-- A DRS write acts by the access codes (00 R8, R9). -/
def execRegisterWrite (who : Nat) (off : Nat) (bytes : List Byte) (b : BootIn) (s : State) : Host.Outcome State Fault Refusal :=
  s.act (fun (t : State) => t.registerWrite who off bytes b)

end Sys2Proof.Machine
end

