-- ==== Sys2Proof/Machine/EventsStream.lean ====
section
/-!
DEFINITION. Machine/EventsStream.lean: the meaning of each command of charts and streams (08). Each is one event, made whole.
-/

namespace Sys2Proof.Machine

/-- CH.ARM (08 R206); opcodes 0x85 to 0x8F fail with FORMAT here. -/
def execChArm (k : Fin 72) (s : State) : Host.Outcome State Fault Refusal :=
  s.act (fun (t : State) => t.runChart k isChArm (fun t e r => if opcode e.word = 0x80 then t.chArm k e r else t.failCmd k .fq e r 0x80))

/-- CH.REARM (08 R225). -/
def execChRearm (k : Fin 72) (s : State) : Host.Outcome State Fault Refusal :=
  s.act (fun (t : State) => t.runChart k (· == 0x81) (fun t e r => t.chRearm k e r))

/-- CH.HALT (08 R207, R210). -/
def execChHalt (k : Fin 72) (s : State) : Host.Outcome State Fault Refusal :=
  s.act (fun (t : State) => t.runChart k (· == 0x82) (fun t e r => t.chHalt k e r))

/-- CH.RESUME (08 R207). -/
def execChResume (k : Fin 72) (s : State) : Host.Outcome State Fault Refusal :=
  s.act (fun (t : State) => t.runChart k (· == 0x83) (fun t e r => t.chResume k e r))

/-- CH.CREDIT (08 R208). -/
def execChCredit (k : Fin 72) (s : State) : Host.Outcome State Fault Refusal :=
  s.act (fun (t : State) => t.runChart k (· == 0x84) (fun t e r => t.chCredit k e r))

/-- The credit in packet `i` arrives (08 R227). -/
def execConvoyCredit (i : Nat) (s : State) : Host.Outcome State Fault Refusal := s.act (fun (t : State) => t.crossing i (fun t => t.creditArrival i))

/-- A BOUNDED stream gains a token (08 R216). -/
def execTokenGain (k : Fin 72) (i : Fin 32) (s : State) : Host.Outcome State Fault Refusal :=
  s.act (fun (t : State) => t.gainToken k i)

/-- The fetch engine makes one step (08 R215). -/
def execTransferIssue (k : Fin 72) (u : Upset) (s : State) : Host.Outcome State Fault Refusal :=
  s.act (fun (t : State) => (t.upset k noNmu u).fetchStep k)

/-- The data in packet `i` lands (08 R221). -/
def execLanding (i : Nat) (s : State) : Host.Outcome State Fault Refusal := s.act (fun (t : State) => t.crossing i (fun t => t.land i))

/-- The acknowledgement in packet `i` arrives (08 R213). -/
def execTransferAck (i : Nat) (s : State) : Host.Outcome State Fault Refusal := s.act (fun (t : State) => t.crossing i (fun t => t.transferAck i))

/-- STRM_CTL.RESUME (08 R209). -/
def execResume (k : Fin 72) (i : Fin 32) (s : State) : Host.Outcome State Fault Refusal :=
  s.act (fun (t : State) => t.onReg (Reg.STRM_CTL k i) (.resume k i) (fun t => t.resumeStrm k i true))

/-- STRM_CTL.CANCEL (08 R209). -/
def execCancel (k : Fin 72) (i : Fin 32) (s : State) : Host.Outcome State Fault Refusal :=
  s.act (fun (t : State) => t.onReg (Reg.STRM_CTL k i) (.cancel k i) (fun t => t.cancelStrm k i))

/-- A stream's deadline passes (08 R230). -/
def execStreamDeadline (k : Fin 72) (i : Fin 32) (s : State) : Host.Outcome State Fault Refusal :=
  s.act (fun (t : State) => t.strmDeadline k i)

end Sys2Proof.Machine
end

