-- ==== Sys2Proof/Machine/EventsSync.lean ====
section
/-!
DEFINITION. Machine/EventsSync.lean: the meaning of each command of waypoints, TWAIT, REL and ACQ (07, 10). Each is one event, made whole.
-/

namespace Sys2Proof.Machine

/-- NCX.ISSUE of a WPT (07 R186). -/
def execWpt (k : Fin 72) (h : Bool) (s : State) : Host.Outcome State Fault Refusal :=
  s.act (fun (t : State) => t.ncxIssue k h (fun c => opcode c == 0x90))

/-- A pass marker passes (07 R187). -/
def execPassMarker (k : Fin 72) (s : State) : Host.Outcome State Fault Refusal := s.act (fun (t : State) => t.passMarker k)

/-- TWAIT in the execute queue (10 R273). -/
def execTwaitXq (k : Fin 72) (s : State) : Host.Outcome State Fault Refusal := s.act (fun (t : State) => t.twait k .xq 0x91)

/-- TWAIT in the fetch queue (10 R273). -/
def execTwaitFq (k : Fin 72) (s : State) : Host.Outcome State Fault Refusal := s.act (fun (t : State) => t.twait k .fq 0x96)

/-- REL in the execute queue (10 R271). -/
def execRelXq (k : Fin 72) (s : State) : Host.Outcome State Fault Refusal := s.act (fun (t : State) => t.rel k .xq 0x92)

/-- REL in the fetch queue (10 R271). -/
def execRelFq (k : Fin 72) (s : State) : Host.Outcome State Fault Refusal := s.act (fun (t : State) => t.rel k .fq 0x93)

/-- ACQ in the execute queue (10 R276); it keeps Tile Store order (R265). -/
def execAcqXq (k : Fin 72) (s : State) : Host.Outcome State Fault Refusal :=
  s.act (fun (t : State) => match t.takeHead k .xq (· == 0x94) with
    | some (e, _) => if t.acqWaits k e then t else t.acq k .xq 0x94
    | none => t.acq k .xq 0x94)

/-- ACQ in the fetch queue (10 R276). -/
def execAcqFq (k : Fin 72) (s : State) : Host.Outcome State Fault Refusal := s.act (fun (t : State) => t.acq k .fq 0x95)

/-- The REL whose wait set is met signals (10 R271). -/
def execRelSignal (k : Fin 72) (fq : Bool) (s : State) : Host.Outcome State Fault Refusal :=
  s.act (fun (t : State) => t.relSignal k (qOf fq))

/-- The TALLY signal in packet `i` arrives (10 R272). -/
def execTallySignal (i : Nat) (s : State) : Host.Outcome State Fault Refusal := s.act (fun (t : State) => t.crossing i (fun t => t.tallySignal i))

/-- The WORD signal in packet `i` arrives (10 R272). -/
def execWordSignal (i : Nat) (s : State) : Host.Outcome State Fault Refusal := s.act (fun (t : State) => t.crossing i (fun t => t.wordSignal i))

/-- The router reads an SP word for an ACQ (10 R276). -/
def execAcqSpPoll (k : Fin 72) (fq : Bool) (s : State) : Host.Outcome State Fault Refusal :=
  s.act (fun (t : State) => t.acqSpPoll k (qOf fq))

/-- The router reads an EM word for an ACQ (10 R276). -/
def execAcqEmPoll (k : Fin 72) (fq : Bool) (s : State) : Host.Outcome State Fault Refusal :=
  s.act (fun (t : State) => t.acqEmPoll k (qOf fq))

/-- The router walks again (10 R278). -/
def execWalkRetry (k : Fin 72) (fq : Bool) (s : State) : Host.Outcome State Fault Refusal :=
  s.act (fun (t : State) => t.walkRetry k (qOf fq))

end Sys2Proof.Machine
end

