-- ==== Sys2Proof/Machine/EventsVector.lean ====
section
/-!
DEFINITION. Machine/EventsVector.lean: the meaning of each command of the vector engine (04, 06). Each is one event: the command makes its
effect, whole, once it waits for no earlier one.
-/

namespace Sys2Proof.Machine

/-- VS.ADD (06 R146); an opcode of 0x40 to 0x5F that names no command fails with FORMAT here. -/
def execVsAdd (k : Fin 72) (u : Upset) (s : State) : Host.Outcome State Fault Refusal :=
  s.act (fun (t : State) => (t.upset k noNmu u).runCmd k isVsAdd (vsEffect k))

/-- VS.SUB (06 R146). -/
def execVsSub (k : Fin 72) (u : Upset) (s : State) : Host.Outcome State Fault Refusal :=
  s.act (fun (t : State) => (t.upset k noNmu u).runCmd k (· == 0x41) (vsEffect k))

/-- VS.MUL (06 R146). -/
def execVsMul (k : Fin 72) (u : Upset) (s : State) : Host.Outcome State Fault Refusal :=
  s.act (fun (t : State) => (t.upset k noNmu u).runCmd k (· == 0x42) (vsEffect k))

/-- VS.FMA (06 R146). -/
def execVsFma (k : Fin 72) (u : Upset) (s : State) : Host.Outcome State Fault Refusal :=
  s.act (fun (t : State) => (t.upset k noNmu u).runCmd k (· == 0x43) (vsEffect k))

/-- VS.MIN (06 R146). -/
def execVsMin (k : Fin 72) (u : Upset) (s : State) : Host.Outcome State Fault Refusal :=
  s.act (fun (t : State) => (t.upset k noNmu u).runCmd k (· == 0x44) (vsEffect k))

/-- VS.MAX (06 R146). -/
def execVsMax (k : Fin 72) (u : Upset) (s : State) : Host.Outcome State Fault Refusal :=
  s.act (fun (t : State) => (t.upset k noNmu u).runCmd k (· == 0x45) (vsEffect k))

/-- VS.ABS (06 R146). -/
def execVsAbs (k : Fin 72) (u : Upset) (s : State) : Host.Outcome State Fault Refusal :=
  s.act (fun (t : State) => (t.upset k noNmu u).runCmd k (· == 0x46) (vsEffect k))

/-- VS.NEG (06 R146). -/
def execVsNeg (k : Fin 72) (u : Upset) (s : State) : Host.Outcome State Fault Refusal :=
  s.act (fun (t : State) => (t.upset k noNmu u).runCmd k (· == 0x47) (vsEffect k))

/-- VS.DIV (06 R146). -/
def execVsDiv (k : Fin 72) (u : Upset) (s : State) : Host.Outcome State Fault Refusal :=
  s.act (fun (t : State) => (t.upset k noNmu u).runCmd k (· == 0x48) (vsEffect k))

/-- VS.SQRT (06 R146). -/
def execVsSqrt (k : Fin 72) (u : Upset) (s : State) : Host.Outcome State Fault Refusal :=
  s.act (fun (t : State) => (t.upset k noNmu u).runCmd k (· == 0x49) (vsEffect k))

/-- VS.EXP2 (06 R146). -/
def execVsExp2 (k : Fin 72) (u : Upset) (s : State) : Host.Outcome State Fault Refusal :=
  s.act (fun (t : State) => (t.upset k noNmu u).runCmd k (· == 0x4A) (vsEffect k))

/-- VS.LOG2 (06 R146). -/
def execVsLog2 (k : Fin 72) (u : Upset) (s : State) : Host.Outcome State Fault Refusal :=
  s.act (fun (t : State) => (t.upset k noNmu u).runCmd k (· == 0x4B) (vsEffect k))

/-- VS.CMP (06 R148). -/
def execVsCmp (k : Fin 72) (u : Upset) (s : State) : Host.Outcome State Fault Refusal :=
  s.act (fun (t : State) => (t.upset k noNmu u).runCmd k (· == 0x4C) (vsEffect k))

/-- VS.SEL (06 R145). -/
def execVsSel (k : Fin 72) (u : Upset) (s : State) : Host.Outcome State Fault Refusal :=
  s.act (fun (t : State) => (t.upset k noNmu u).runCmd k (· == 0x4D) (vsEffect k))

/-- VS.LOGIC (06 R147). -/
def execVsLogic (k : Fin 72) (u : Upset) (s : State) : Host.Outcome State Fault Refusal :=
  s.act (fun (t : State) => (t.upset k noNmu u).runCmd k (· == 0x4E) (vsEffect k))

/-- VS.CVT (06 R150). -/
def execVsCvt (k : Fin 72) (u : Upset) (s : State) : Host.Outcome State Fault Refusal :=
  s.act (fun (t : State) => (t.upset k noNmu u).runCmd k (· == 0x4F) (vsEffect k))

/-- VS.COMPRESS (06 R149). -/
def execVsCompress (k : Fin 72) (u : Upset) (s : State) : Host.Outcome State Fault Refusal :=
  s.act (fun (t : State) => (t.upset k noNmu u).runCmd k (· == 0x50) (vsEffect k))

/-- VS.EXPAND (06 R149). -/
def execVsExpand (k : Fin 72) (u : Upset) (s : State) : Host.Outcome State Fault Refusal :=
  s.act (fun (t : State) => (t.upset k noNmu u).runCmd k (· == 0x51) (vsEffect k))

/-- VS.RED (06 R152). -/
def execVsRed (k : Fin 72) (u : Upset) (s : State) : Host.Outcome State Fault Refusal :=
  s.act (fun (t : State) => (t.upset k noNmu u).runCmd k (· == 0x52) (vsEffect k))

/-- VS.LACC (06 R153). -/
def execVsLacc (k : Fin 72) (u : Upset) (s : State) : Host.Outcome State Fault Refusal :=
  s.act (fun (t : State) => (t.upset k noNmu u).runCmd k (· == 0x53) (vsEffect k))

/-- VS.LRND (06 R154). -/
def execVsLrnd (k : Fin 72) (u : Upset) (s : State) : Host.Outcome State Fault Refusal :=
  s.act (fun (t : State) => (t.upset k noNmu u).runCmd k (· == 0x54) (vsEffect k))

/-- VS.MOV (06 R145). -/
def execVsMov (k : Fin 72) (u : Upset) (s : State) : Host.Outcome State Fault Refusal :=
  s.act (fun (t : State) => (t.upset k noNmu u).runCmd k (· == 0x55) (vsEffect k))

/-- VS.SLICE (04 R98). -/
def execVsSlice (k : Fin 72) (u : Upset) (s : State) : Host.Outcome State Fault Refusal :=
  s.act (fun (t : State) => (t.upset k noNmu u).runCmd k (· == 0x58) (sliceEffect k))

/-- VS.RECOMB (04 R104). -/
def execVsRecomb (k : Fin 72) (u : Upset) (s : State) : Host.Outcome State Fault Refusal :=
  s.act (fun (t : State) => (t.upset k noNmu u).runCmd k (· == 0x59) (recombEffect k))

/-- VS.SUMAT (06 R161). -/
def execVsSumat (k : Fin 72) (s : State) : Host.Outcome State Fault Refusal :=
  s.act (fun (t : State) => t.runCmd k (· == 0x5A) (sumatEffect k))

/-- VR.ADD (06 R158); an opcode of 0x60 to 0x7F that names no command fails here. -/
def execVrAdd (k : Fin 72) (u : Upset) (s : State) : Host.Outcome State Fault Refusal :=
  s.act (fun (t : State) => (t.upset k noNmu u).runCmd k isVrAdd (vrEffect k))

/-- VR.SUB (06 R158). -/
def execVrSub (k : Fin 72) (u : Upset) (s : State) : Host.Outcome State Fault Refusal :=
  s.act (fun (t : State) => (t.upset k noNmu u).runCmd k (· == 0x61) (vrEffect k))

/-- VR.MUL (06 R158). -/
def execVrMul (k : Fin 72) (u : Upset) (s : State) : Host.Outcome State Fault Refusal :=
  s.act (fun (t : State) => (t.upset k noNmu u).runCmd k (· == 0x62) (vrEffect k))

/-- VR.FMA (06 R158). -/
def execVrFma (k : Fin 72) (u : Upset) (s : State) : Host.Outcome State Fault Refusal :=
  s.act (fun (t : State) => (t.upset k noNmu u).runCmd k (· == 0x63) (vrEffect k))

/-- VR.MIN (06 R158). -/
def execVrMin (k : Fin 72) (u : Upset) (s : State) : Host.Outcome State Fault Refusal :=
  s.act (fun (t : State) => (t.upset k noNmu u).runCmd k (· == 0x64) (vrEffect k))

/-- VR.MAX (06 R158). -/
def execVrMax (k : Fin 72) (u : Upset) (s : State) : Host.Outcome State Fault Refusal :=
  s.act (fun (t : State) => (t.upset k noNmu u).runCmd k (· == 0x65) (vrEffect k))

/-- VR.ABS (06 R158). -/
def execVrAbs (k : Fin 72) (u : Upset) (s : State) : Host.Outcome State Fault Refusal :=
  s.act (fun (t : State) => (t.upset k noNmu u).runCmd k (· == 0x66) (vrEffect k))

/-- VR.NEG (06 R158). -/
def execVrNeg (k : Fin 72) (u : Upset) (s : State) : Host.Outcome State Fault Refusal :=
  s.act (fun (t : State) => (t.upset k noNmu u).runCmd k (· == 0x67) (vrEffect k))

/-- VR.DIV (06 R158). -/
def execVrDiv (k : Fin 72) (u : Upset) (s : State) : Host.Outcome State Fault Refusal :=
  s.act (fun (t : State) => (t.upset k noNmu u).runCmd k (· == 0x68) (vrEffect k))

/-- VR.SQRT (06 R158). -/
def execVrSqrt (k : Fin 72) (u : Upset) (s : State) : Host.Outcome State Fault Refusal :=
  s.act (fun (t : State) => (t.upset k noNmu u).runCmd k (· == 0x69) (vrEffect k))

/-- VR.EXP2 (06 R158). -/
def execVrExp2 (k : Fin 72) (u : Upset) (s : State) : Host.Outcome State Fault Refusal :=
  s.act (fun (t : State) => (t.upset k noNmu u).runCmd k (· == 0x6A) (vrEffect k))

/-- VR.LOG2 (06 R158). -/
def execVrLog2 (k : Fin 72) (u : Upset) (s : State) : Host.Outcome State Fault Refusal :=
  s.act (fun (t : State) => (t.upset k noNmu u).runCmd k (· == 0x6B) (vrEffect k))

/-- VR.CMP (06 R158). -/
def execVrCmp (k : Fin 72) (u : Upset) (s : State) : Host.Outcome State Fault Refusal :=
  s.act (fun (t : State) => (t.upset k noNmu u).runCmd k (· == 0x6C) (vrEffect k))

/-- VR.SEL (06 R158). -/
def execVrSel (k : Fin 72) (u : Upset) (s : State) : Host.Outcome State Fault Refusal :=
  s.act (fun (t : State) => (t.upset k noNmu u).runCmd k (· == 0x6D) (vrEffect k))

/-- VR.LOGIC (06 R158). -/
def execVrLogic (k : Fin 72) (u : Upset) (s : State) : Host.Outcome State Fault Refusal :=
  s.act (fun (t : State) => (t.upset k noNmu u).runCmd k (· == 0x6E) (vrEffect k))

/-- VR.CVT (06 R158). -/
def execVrCvt (k : Fin 72) (u : Upset) (s : State) : Host.Outcome State Fault Refusal :=
  s.act (fun (t : State) => (t.upset k noNmu u).runCmd k (· == 0x6F) (vrEffect k))

/-- VR.COMPRESS (06 R158). -/
def execVrCompress (k : Fin 72) (u : Upset) (s : State) : Host.Outcome State Fault Refusal :=
  s.act (fun (t : State) => (t.upset k noNmu u).runCmd k (· == 0x70) (vrEffect k))

/-- VR.EXPAND (06 R158). -/
def execVrExpand (k : Fin 72) (u : Upset) (s : State) : Host.Outcome State Fault Refusal :=
  s.act (fun (t : State) => (t.upset k noNmu u).runCmd k (· == 0x71) (vrEffect k))

/-- VR.RED (06 R158). -/
def execVrRed (k : Fin 72) (u : Upset) (s : State) : Host.Outcome State Fault Refusal :=
  s.act (fun (t : State) => (t.upset k noNmu u).runCmd k (· == 0x72) (vrEffect k))

/-- VR.LACC (06 R158). -/
def execVrLacc (k : Fin 72) (u : Upset) (s : State) : Host.Outcome State Fault Refusal :=
  s.act (fun (t : State) => (t.upset k noNmu u).runCmd k (· == 0x73) (vrEffect k))

/-- VR.LRND (06 R158). -/
def execVrLrnd (k : Fin 72) (u : Upset) (s : State) : Host.Outcome State Fault Refusal :=
  s.act (fun (t : State) => (t.upset k noNmu u).runCmd k (· == 0x74) (vrEffect k))

/-- VR.MOV (06 R158). -/
def execVrMov (k : Fin 72) (u : Upset) (s : State) : Host.Outcome State Fault Refusal :=
  s.act (fun (t : State) => (t.upset k noNmu u).runCmd k (· == 0x75) (vrEffect k))

/-- SLICE by its register-mode opcode (06 R155). -/
def execVrSlice (k : Fin 72) (u : Upset) (s : State) : Host.Outcome State Fault Refusal :=
  s.act (fun (t : State) => (t.upset k noNmu u).runCmd k (· == 0x78) (sliceEffect k))

/-- RECOMB by its register-mode opcode (06 R155). -/
def execVrRecomb (k : Fin 72) (u : Upset) (s : State) : Host.Outcome State Fault Refusal :=
  s.act (fun (t : State) => (t.upset k noNmu u).runCmd k (· == 0x79) (recombEffect k))

/-- VR.LD (06 R159). -/
def execVrLd (k : Fin 72) (u : Upset) (s : State) : Host.Outcome State Fault Refusal :=
  s.act (fun (t : State) => (t.upset k noNmu u).runCmd k (· == 0x7C) (vrLdEffect k))

/-- VR.ST (06 R159). -/
def execVrSt (k : Fin 72) (u : Upset) (s : State) : Host.Outcome State Fault Refusal :=
  s.act (fun (t : State) => (t.upset k noNmu u).runCmd k (· == 0x7D) (vrStEffect k))

end Sys2Proof.Machine
end

