-- ==== Sys2Proof/Machine/Dispatch.lean ====
section
/-!
DEFINITION. Machine/Dispatch.lean: one arm for each command.
-/

namespace Sys2Proof.Machine

/-- The effect of a command on everything but the queue. -/
def exec (ins : Instr) (s : State) : Host.Outcome State Fault Refusal :=
  match ins with
  | .resetN b => Sys2Proof.Machine.execResetN b s
  | .warmN b => Sys2Proof.Machine.execWarmN b s
  | .warm b => Sys2Proof.Machine.execWarm b s
  | .bootGo b => Sys2Proof.Machine.execBootGo b s
  | .pwrFailN mv => Sys2Proof.Machine.execPwrFailN mv s
  | .vinLow mv pwr => Sys2Proof.Machine.execVinLow mv pwr s
  | .vkeepLow mv => Sys2Proof.Machine.execVkeepLow mv s
  | .vinWarn mv => Sys2Proof.Machine.execVinWarn mv s
  | .vinRecover mv => Sys2Proof.Machine.execVinRecover mv s
  | .thermTrip n => Sys2Proof.Machine.execThermTrip n s
  | .pmbAlertN addr status => Sys2Proof.Machine.execPmbAlertN addr status s
  | .pmbusPoll answers => Sys2Proof.Machine.execPmbusPoll answers s
  | .tbRefclkLost => Sys2Proof.Machine.execTbRefclkLost s
  | .tbRefclkReturn => Sys2Proof.Machine.execTbRefclkReturn s
  | .phyRefclkLost => Sys2Proof.Machine.execPhyRefclkLost s
  | .haClkStart => Sys2Proof.Machine.execHaClkStart s
  | .trstN => Sys2Proof.Machine.execTrstN s
  | .bypass => Sys2Proof.Machine.execBypass s
  | .idcode => Sys2Proof.Machine.execIdcode s
  | .samplePreload pins cells => Sys2Proof.Machine.execSamplePreload pins cells s
  | .extest pins cells => Sys2Proof.Machine.execExtest pins cells s
  | .entdaa addr => Sys2Proof.Machine.execEntdaa addr s
  | .setdasa static addr => Sys2Proof.Machine.execSetdasa static addr s
  | .i3cRead off => Sys2Proof.Machine.execI3cRead off s
  | .i3cWrite off v b => Sys2Proof.Machine.execI3cWrite off v b s
  | .registerWrite who off bytes b => Sys2Proof.Machine.execRegisterWrite who off bytes b s
  | .numStatClear k v => Sys2Proof.Machine.execNumStatClear k v s
  | .scoutWrite r v => Sys2Proof.Machine.execScoutWrite r v s
  | .instruction k h u => Sys2Proof.Machine.execInstruction k h u s
  | .swi k on => Sys2Proof.Machine.execSwi k on s
  | .timerInterrupt k => Sys2Proof.Machine.execTimerInterrupt k s
  | .ncxIssue k h => Sys2Proof.Machine.execNcxIssue k h s
  | .ncxXdone k h => Sys2Proof.Machine.execNcxXdone k h s
  | .ncxFdone k h => Sys2Proof.Machine.execNcxFdone k h s
  | .ncxWaitq k h => Sys2Proof.Machine.execNcxWaitq k h s
  | .ncxThalt k h => Sys2Proof.Machine.execNcxThalt k h s
  | .ncxXres k h => Sys2Proof.Machine.execNcxXres k h s
  | .ncxHret k h => Sys2Proof.Machine.execNcxHret k h s
  | .ncxKend k h => Sys2Proof.Machine.execNcxKend k h s
  | .handlerDispatch k => Sys2Proof.Machine.execHandlerDispatch k s
  | .spillRefill k fq => Sys2Proof.Machine.execSpillRefill k fq s
  | .commandComplete k fq ticket => Sys2Proof.Machine.execCommandComplete k fq ticket s
  | .go k => Sys2Proof.Machine.execGo k s
  | .kernelStart k => Sys2Proof.Machine.execKernelStart k s
  | .kernelCommit k => Sys2Proof.Machine.execKernelCommit k s
  | .abort k => Sys2Proof.Machine.execAbort k s
  | .halt k on => Sys2Proof.Machine.execHalt k on s
  | .haltComplete k ps => Sys2Proof.Machine.execHaltComplete k ps s
  | .save k u => Sys2Proof.Machine.execSave k u s
  | .restore k => Sys2Proof.Machine.execRestore k s
  | .saveRestoreDone k => Sys2Proof.Machine.execSaveRestoreDone k s
  | .vrRegSave k u => Sys2Proof.Machine.execVrRegSave k u s
  | .vrRegRestore k => Sys2Proof.Machine.execVrRegRestore k s
  | .ldl k u => Sys2Proof.Machine.execLdl k u s
  | .mopz k u => Sys2Proof.Machine.execMopz k u s
  | .mop k u => Sys2Proof.Machine.execMop k u s
  | .asw k => Sys2Proof.Machine.execAsw k s
  | .drn k u => Sys2Proof.Machine.execDrn k u s
  | .alay k => Sys2Proof.Machine.execAlay k s
  | .lfree k => Sys2Proof.Machine.execLfree k s
  | .wpt k h => Sys2Proof.Machine.execWpt k h s
  | .passMarker k => Sys2Proof.Machine.execPassMarker k s
  | .twaitXq k => Sys2Proof.Machine.execTwaitXq k s
  | .twaitFq k => Sys2Proof.Machine.execTwaitFq k s
  | .relXq k => Sys2Proof.Machine.execRelXq k s
  | .relFq k => Sys2Proof.Machine.execRelFq k s
  | .acqXq k => Sys2Proof.Machine.execAcqXq k s
  | .acqFq k => Sys2Proof.Machine.execAcqFq k s
  | .relSignal k fq => Sys2Proof.Machine.execRelSignal k fq s
  | .tallySignal i => Sys2Proof.Machine.execTallySignal i s
  | .wordSignal i => Sys2Proof.Machine.execWordSignal i s
  | .acqSpPoll k fq => Sys2Proof.Machine.execAcqSpPoll k fq s
  | .acqEmPoll k fq => Sys2Proof.Machine.execAcqEmPoll k fq s
  | .walkRetry k fq => Sys2Proof.Machine.execWalkRetry k fq s
  | .vsAdd k u => Sys2Proof.Machine.execVsAdd k u s
  | .vsSub k u => Sys2Proof.Machine.execVsSub k u s
  | .vsMul k u => Sys2Proof.Machine.execVsMul k u s
  | .vsFma k u => Sys2Proof.Machine.execVsFma k u s
  | .vsMin k u => Sys2Proof.Machine.execVsMin k u s
  | .vsMax k u => Sys2Proof.Machine.execVsMax k u s
  | .vsAbs k u => Sys2Proof.Machine.execVsAbs k u s
  | .vsNeg k u => Sys2Proof.Machine.execVsNeg k u s
  | .vsDiv k u => Sys2Proof.Machine.execVsDiv k u s
  | .vsSqrt k u => Sys2Proof.Machine.execVsSqrt k u s
  | .vsExp2 k u => Sys2Proof.Machine.execVsExp2 k u s
  | .vsLog2 k u => Sys2Proof.Machine.execVsLog2 k u s
  | .vsCmp k u => Sys2Proof.Machine.execVsCmp k u s
  | .vsSel k u => Sys2Proof.Machine.execVsSel k u s
  | .vsLogic k u => Sys2Proof.Machine.execVsLogic k u s
  | .vsCvt k u => Sys2Proof.Machine.execVsCvt k u s
  | .vsCompress k u => Sys2Proof.Machine.execVsCompress k u s
  | .vsExpand k u => Sys2Proof.Machine.execVsExpand k u s
  | .vsRed k u => Sys2Proof.Machine.execVsRed k u s
  | .vsLacc k u => Sys2Proof.Machine.execVsLacc k u s
  | .vsLrnd k u => Sys2Proof.Machine.execVsLrnd k u s
  | .vsMov k u => Sys2Proof.Machine.execVsMov k u s
  | .vsSlice k u => Sys2Proof.Machine.execVsSlice k u s
  | .vsRecomb k u => Sys2Proof.Machine.execVsRecomb k u s
  | .vsSumat k => Sys2Proof.Machine.execVsSumat k s
  | .vrAdd k u => Sys2Proof.Machine.execVrAdd k u s
  | .vrSub k u => Sys2Proof.Machine.execVrSub k u s
  | .vrMul k u => Sys2Proof.Machine.execVrMul k u s
  | .vrFma k u => Sys2Proof.Machine.execVrFma k u s
  | .vrMin k u => Sys2Proof.Machine.execVrMin k u s
  | .vrMax k u => Sys2Proof.Machine.execVrMax k u s
  | .vrAbs k u => Sys2Proof.Machine.execVrAbs k u s
  | .vrNeg k u => Sys2Proof.Machine.execVrNeg k u s
  | .vrDiv k u => Sys2Proof.Machine.execVrDiv k u s
  | .vrSqrt k u => Sys2Proof.Machine.execVrSqrt k u s
  | .vrExp2 k u => Sys2Proof.Machine.execVrExp2 k u s
  | .vrLog2 k u => Sys2Proof.Machine.execVrLog2 k u s
  | .vrCmp k u => Sys2Proof.Machine.execVrCmp k u s
  | .vrSel k u => Sys2Proof.Machine.execVrSel k u s
  | .vrLogic k u => Sys2Proof.Machine.execVrLogic k u s
  | .vrCvt k u => Sys2Proof.Machine.execVrCvt k u s
  | .vrCompress k u => Sys2Proof.Machine.execVrCompress k u s
  | .vrExpand k u => Sys2Proof.Machine.execVrExpand k u s
  | .vrRed k u => Sys2Proof.Machine.execVrRed k u s
  | .vrLacc k u => Sys2Proof.Machine.execVrLacc k u s
  | .vrLrnd k u => Sys2Proof.Machine.execVrLrnd k u s
  | .vrMov k u => Sys2Proof.Machine.execVrMov k u s
  | .vrSlice k u => Sys2Proof.Machine.execVrSlice k u s
  | .vrRecomb k u => Sys2Proof.Machine.execVrRecomb k u s
  | .vrLd k u => Sys2Proof.Machine.execVrLd k u s
  | .vrSt k u => Sys2Proof.Machine.execVrSt k u s
  | .chArm k => Sys2Proof.Machine.execChArm k s
  | .chRearm k => Sys2Proof.Machine.execChRearm k s
  | .chHalt k => Sys2Proof.Machine.execChHalt k s
  | .chResume k => Sys2Proof.Machine.execChResume k s
  | .chCredit k => Sys2Proof.Machine.execChCredit k s
  | .convoyCredit i => Sys2Proof.Machine.execConvoyCredit i s
  | .tokenGain k i => Sys2Proof.Machine.execTokenGain k i s
  | .transferIssue k u => Sys2Proof.Machine.execTransferIssue k u s
  | .landing i => Sys2Proof.Machine.execLanding i s
  | .transferAck i => Sys2Proof.Machine.execTransferAck i s
  | .resume k i => Sys2Proof.Machine.execResume k i s
  | .cancel k i => Sys2Proof.Machine.execCancel k i s
  | .streamDeadline k i => Sys2Proof.Machine.execStreamDeadline k i s
  | .msgSend k h => Sys2Proof.Machine.execMsgSend k h s
  | .msgReply k h => Sys2Proof.Machine.execMsgReply k h s
  | .shortMulticast k h => Sys2Proof.Machine.execShortMulticast k h s
  | .bulkMulticast k h => Sys2Proof.Machine.execBulkMulticast k h s
  | .bulkPacket k u => Sys2Proof.Machine.execBulkPacket k u s
  | .memberAck i => Sys2Proof.Machine.execMemberAck i s
  | .msgComb k h => Sys2Proof.Machine.execMsgComb k h s
  | .requestArrival i => Sys2Proof.Machine.execRequestArrival i s
  | .replyArrival i => Sys2Proof.Machine.execReplyArrival i s
  | .admissionAck i => Sys2Proof.Machine.execAdmissionAck i s
  | .refusal i => Sys2Proof.Machine.execRefusal i s
  | .channelWake i => Sys2Proof.Machine.execChannelWake i s
  | .channelEnable r v => Sys2Proof.Machine.execChannelEnable r v s
  | .channelReset r => Sys2Proof.Machine.execChannelReset r s
  | .arm c => Sys2Proof.Machine.execArm c s
  | .cnCancel c => Sys2Proof.Machine.execCnCancel c s
  | .contribution c i => Sys2Proof.Machine.execContribution c i s
  | .resultAck i => Sys2Proof.Machine.execResultAck i s
  | .uzodalFrame p frame => Sys2Proof.Machine.execUzodalFrame p frame s
  | .txFrame p => Sys2Proof.Machine.execTxFrame p s
  | .memoryRequest i => Sys2Proof.Machine.execMemoryRequest i s
  | .parityDelta i => Sys2Proof.Machine.execParityDelta i s
  | .rebuildDone p j => Sys2Proof.Machine.execRebuildDone p j s
  | .scrub p => Sys2Proof.Machine.execScrub p s
  | .trainingDone p ok badRx badTx => Sys2Proof.Machine.execTrainingDone p ok badRx badTx s
  | .laneSwap r tx lane => Sys2Proof.Machine.execLaneSwap r tx lane s
  | .mpLose p => Sys2Proof.Machine.execMpLose p s
  | .mpRetrain p => Sys2Proof.Machine.execMpRetrain p s
  | .walkComplete k i => Sys2Proof.Machine.execWalkComplete k i s
  | .xlInv v => Sys2Proof.Machine.execXlInv v s
  | .invalidationDone => Sys2Proof.Machine.execInvalidationDone s
  | .xfRingEnable v => Sys2Proof.Machine.execXfRingEnable v s
  | .xfRp rp => Sys2Proof.Machine.execXfRp rp s
  | .stage n m u => Sys2Proof.Machine.execStage n m u s
  | .mv n m u => Sys2Proof.Machine.execMv n m u s
  | .sgd n m u => Sys2Proof.Machine.execSgd n m u s
  | .emb n m u => Sys2Proof.Machine.execEmb n m u s
  | .scan n m u => Sys2Proof.Machine.execScan n m u s
  | .cvt n m u => Sys2Proof.Machine.execCvt n m u s
  | .ired n m u => Sys2Proof.Machine.execIred n m u s
  | .gather n m u => Sys2Proof.Machine.execGather n m u s
  | .scatter n m u => Sys2Proof.Machine.execScatter n m u s
  | .tagres n => Sys2Proof.Machine.execTagres n s
  | .tagret n => Sys2Proof.Machine.execTagret n s
  | .nmuComplete n tag => Sys2Proof.Machine.execNmuComplete n tag s
  | .scoutReport i => Sys2Proof.Machine.execScoutReport i s
  | .abortFleet n fleet => Sys2Proof.Machine.execAbortFleet n fleet s
  | .abortTag n tag => Sys2Proof.Machine.execAbortTag n tag s
  | .contribSend n e => Sys2Proof.Machine.execContribSend n e s
  | .contrib i => Sys2Proof.Machine.execContrib i s
  | .result i => Sys2Proof.Machine.execResult i s
  | .filicFrame l fec frame => Sys2Proof.Machine.execFilicFrame l fec frame s
  | .rdWake e => Sys2Proof.Machine.execRdWake e s
  | .flTrainingDone l ok node badRx badTx => Sys2Proof.Machine.execFlTrainingDone l ok node badRx badTx s
  | .flLose l => Sys2Proof.Machine.execFlLose l s
  | .flRetrain l => Sys2Proof.Machine.execFlRetrain l s
  | .admitPassage => Sys2Proof.Machine.execAdmitPassage s
  | .release pid => Sys2Proof.Machine.execRelease pid s
  | .runDeadline q => Sys2Proof.Machine.execRunDeadline q s
  | .rt on => Sys2Proof.Machine.execRt on s
  | .paceWindow n meas tj => Sys2Proof.Machine.execPaceWindow n meas tj s
  | .sagClear n => Sys2Proof.Machine.execSagClear n s
  | .paceLost n => Sys2Proof.Machine.execPaceLost n s
  | .grantRequest n classes => Sys2Proof.Machine.execGrantRequest n classes s
  | .grant => Sys2Proof.Machine.execGrant s
  | .grantRelease n classes => Sys2Proof.Machine.execGrantRelease n classes s
  | .load => Sys2Proof.Machine.execLoad s
  | .loadComplete src => Sys2Proof.Machine.execLoadComplete src s
  | .apply => Sys2Proof.Machine.execApply s
  | .stageWarm => Sys2Proof.Machine.execStageWarm s
  | .znAbort => Sys2Proof.Machine.execZnAbort s
  | .discard => Sys2Proof.Machine.execDiscard s
  | .sluiceClosure => Sys2Proof.Machine.execSluiceClosure s
  | .sluice => Sys2Proof.Machine.execSluice s
  | .drainOverrun => Sys2Proof.Machine.execDrainOverrun s
  | .deferredChangeResume => Sys2Proof.Machine.execDeferredChangeResume s
  | .relieve id => Sys2Proof.Machine.execRelieve id s
  | .copyPassDone => Sys2Proof.Machine.execCopyPassDone s
  | .reliefCommit => Sys2Proof.Machine.execReliefCommit s
  | .sound n => Sys2Proof.Machine.execSound n s
  | .soundingRotation sec polder => Sys2Proof.Machine.execSoundingRotation sec polder s
  | .soundingRetry i => Sys2Proof.Machine.execSoundingRetry i s
  | .soundingDone n found => Sys2Proof.Machine.execSoundingDone n found s
  | .quarantine n => Sys2Proof.Machine.execQuarantine n s
  | .unquarantine n => Sys2Proof.Machine.execUnquarantine n s
  | .dikeTimeout n => Sys2Proof.Machine.execDikeTimeout n s
  | .repairMapWrite => Sys2Proof.Machine.execRepairMapWrite s
  | .wearLedger => Sys2Proof.Machine.execWearLedger s
  | .logbookRecord i => Sys2Proof.Machine.execLogbookRecord i s
  | .logbookBatch => Sys2Proof.Machine.execLogbookBatch s
  | .down a owner sem => Sys2Proof.Machine.execDown a owner sem s
  | .up a owner sem => Sys2Proof.Machine.execUp a owner sem s
  | .init a sem v => Sys2Proof.Machine.execInit a sem v s
  | .drsRd owner fleet tag off n => Sys2Proof.Machine.execDrsRd owner fleet tag off n s
  | .drsWr owner fleet off bytes b => Sys2Proof.Machine.execDrsWr owner fleet off bytes b s
  | .emRd owner fleet tag addr n => Sys2Proof.Machine.execEmRd owner fleet tag addr n s
  | .emWr owner fleet addr bytes => Sys2Proof.Machine.execEmWr owner fleet addr bytes s
  | .hput owner fleet core addr tally bytes => Sys2Proof.Machine.execHput owner fleet core addr tally bytes s
  | .flush tag => Sys2Proof.Machine.execFlush tag s
  | .cpl tag status bytes => Sys2Proof.Machine.execCpl tag status bytes s
  | .hostTimeout tag => Sys2Proof.Machine.execHostTimeout tag s
  | .send a => Sys2Proof.Machine.execSend a s
  | .put a => Sys2Proof.Machine.execPut a s
  | .verify => Sys2Proof.Machine.execVerify s
  | .restart mask => Sys2Proof.Machine.execRestart mask s
  | .progKey slot => Sys2Proof.Machine.execProgKey slot s
  | .revokeKey slot => Sys2Proof.Machine.execRevokeKey slot s
  | .setDebug => Sys2Proof.Machine.execSetDebug s
  | .setMfr v => Sys2Proof.Machine.execSetMfr v s
  | .phyRefclkReturn => Sys2Proof.Machine.execPhyRefclkReturn s
  | .flTxFrame l => Sys2Proof.Machine.execFlTxFrame l s
  | .frameDiscarded l fec frame => Sys2Proof.Machine.execFrameDiscarded l fec frame s
  | .hostCoreAccess a addr op evict b => Sys2Proof.Machine.execHostCoreAccess a addr op evict b s
  | .outboundCreditReturn pw npr => Sys2Proof.Machine.execOutboundCreditReturn pw npr s
  | .malformedPacket ch op tag parity hdr => Sys2Proof.Machine.execMalformedPacket ch op tag parity hdr s
  | .vrSaveDone k => Sys2Proof.Machine.execVrSaveDone k s

end Sys2Proof.Machine
end

