-- ==== Sys2Proof/Safety.lean ====
section
/-!
DEFINITION. Safety.lean: what counts as a safe run: no step of it ends in a fault or a refusal.
-/

namespace Sys2Proof.Machine

/-- A step answers a next state. -/
def safeStep (s : State) : Prop := ∃ t, step s = .next t

/-- `n` steps from `s` on all answer a next state. -/
def safeRun : Nat → State → Prop
  | 0, _ => True
  | n + 1, s => ∃ t, step s = .next t ∧ safeRun n t

/-- Context `h` (the handler where true) of slot `k` may issue its next instruction: no berm save has stopped the block, the context
runs, and no interrupt is taken first. -/
def State.issues (s : State) (k : Nat) (h : Bool) : Prop :=
  s.stopped = false ∧ s.runs k h = true ∧ (h = true ∨ s.takeIrq k = none)

/-- The 32-bit instruction `w` stands at the pc of the context. -/
def State.fetches (s : State) (k : Nat) (h : Bool) (w : Nat) : Prop :=
  (s.slot k).fetch (s.pc k h).toNat = .ok ⟨some w, w, 4⟩

/-- The word of an NCX instruction: funct3 and its registers (07 R178). -/
def ncxWord (rs2 rs1 f rd : Nat) : Nat := encR 0 rs2 rs1 f rd 0x0B

/-- All of slot `k` but the main or handler context, `instret`, the count of steps and the stalls is as before, and so are the other context, the other
slots and every other part of the block. -/
def State.onlyCtx (s t : State) (k : Nat) (h : Bool) : Prop :=
  t = { s with slots := t.slots } ∧ (∀ j, j ≠ k → t.slot j = s.slot j) ∧ (t.slot k).ctx (!h) = (s.slot k).ctx (!h) ∧
  t.slot k = { s.slot k with
    main := (t.slot k).main
    hand := (t.slot k).hand
    istall := (t.slot k).istall
    waitq := (t.slot k).waitq
    wfi := (t.slot k).wfi
    hwait := if h then (t.slot k).hwait else (s.slot k).hwait
    cycle := (t.slot k).cycle
    csrs := { (s.slot k).csrs with instret := (t.slot k).csrs.instret } }

/-- An instruction of the context has retired: the pc is 4 further, `instret` and `cycle` count it, register `rd` holds `v` (x0 holds 0) and every
other general register what it held. -/
def State.retired (s t : State) (k : Nat) (h : Bool) (rd : Nat) (v : Word) : Prop :=
  t.pc k h = s.pc k h + 4 ∧ (t.slot k).csrs.instret = (s.slot k).csrs.instret + 1 ∧ (t.slot k).cycle = (s.slot k).cycle + 1 ∧
  (rd ≠ 0 → t.getX k h rd = v) ∧ (∀ r, r ≠ rd ∨ r = 0 → t.getX k h r = s.getX k h r)

/-- Entry `e` stands at the head of the execute queue of slot `k`, with `r` behind it, and may be accepted and make its effect at once; no
command that was accepted before it and waits may go on. -/
def State.atHead (s : State) (k : Nat) (e : Entry) (r : Queue) : Prop :=
  s.headOf k .xq = some (e, r) ∧ s.mayAccept k e.word = true ∧ s.mayRun k e = true ∧
  (∀ f ∈ s.waitingCmds k (fun _ => true), s.mayRun k f = false)

/-- The command of entry `e` is the next of its opcode to make its effect: at the head of the queue, or having waited; `after` is the
queue once it has made it, with the number of elements it processed. No condition of an earlier or later command is held back, and what
waits has passed the check of its acceptance. -/
def State.starts (s : State) (k : Nat) (e : Entry) (after : Nat → Queue) : Prop :=
  s.flagsBefore k e.ticket = false ∧ (s.slot k).notes = [] ∧ (∀ f ∈ s.waitingCmds k (fun _ => true), s.cmdCheck k f.word = none) ∧
  ((∃ r, s.atHead k e r ∧ after = fun n => r.accept e (.working n)) ∨
   (s.runnable k (fun o => o == opcode e.word) = some e ∧ after = fun n => (s.queue k .xq).setPhase e.ticket (.working n)))

/-- The command of entry `e`, whose effect on `s` the state has, is in progress: what it brought to the scouts is known as its own
(02 R64). -/
def State.inProgress (t s : State) (k : Nat) (e : Entry) : State :=
  t.modSlot k (fun c => c.nameTails (s.slot k).tailBy.length e.ticket)

/-- The state that an event leaves which has had all the blocks of External Memory that it reads: those it used are gone (11 R297). -/
def State.blocksUsed (t : State) : State := { t with got := t.got.filter (fun (g : Got) => !g.used) }

/-- Queue `q` of slot `j` after a signal to slot `c` from the REL of ticket `tk` in queue `qk` of slot `k`: what waits at `c` and meets its
condition, as `p` picks, has met it, and the REL is done (10 R272, R273, R276). -/
def State.signalled (s : State) (j : Nat) (q : QSel) (c k : Nat) (qk : QSel) (tk : Nat) (p : Entry → List Byte → Bool) : Queue :=
  let u := if j = c then (s.queue j q).meet p else s.queue j q
  if j = k ∧ q = qk then u.setPhase tk .done else u

/-- The copies that a buffer holds for a channel, as they go again: the oldest first, which alone carries the retry mark (09 R246). -/
def State.reinjected (s : State) (k : Nat) (src : Endpoint) (ch : Nat) (b : List SendEntry) : List Packet :=
  (b.filter (fun y => y.refused.contains (src, ch))).zipIdx.map (fun p =>
    ⟨.request, .core (s.idOf k), src, .msg ch { p.1.msg with retry := p.2 == 0 }⟩)

/-- An answer in packet `i` leaves the buffer `b` of slot `k`; a wake that waited for the last answer from the channel takes effect, unless
a sluice keeps the sender from injecting, and nothing else changes. -/
def State.answered (s t : State) (i k : Nat) (src : Endpoint) (ch : Nat) (b : List SendEntry) : Prop :=
  let stuck := s.stalled (s.polderOf (.core (s.idOf k))) = true
  ((∃ y ∈ b, (src, ch) ∈ y.waiting) ∨ (∀ y ∈ b, (src, ch) ∉ y.woken) ∨ stuck → (t.slot k).sendM = b ∧ t.net = s.net.eraseIdx i) ∧
  ((∀ y ∈ b, (src, ch) ∉ y.waiting) → (∃ y ∈ b, (src, ch) ∈ y.woken) → ¬stuck →
    t.net = s.net.eraseIdx i ++ s.reinjected k src ch b) ∧
  t = { s with slots := t.slots, net := t.net } ∧ (∀ j, j ≠ k → t.slot j = s.slot j)

/-- Message `m` has entered the ring of channel `ch` of slot `k`: behind a SKIP entry where the tail is too short for it, in two parts
where DN-16 lets it run on at the base; WP is past it and LAST holds its word 0 (09 R236 to R239). -/
def State.entered (s t : State) (k ch : Nat) (m : Msg) : Prop :=
  let h := Home.core k ch
  let wp := s.fld (Reg.CH_CFG k ch + 0x10) F.CH_PTR_WP
  let pos := if s.skips h m.pay.length then (wp + s.ringTail h) % 2 ^ 32 else wp
  let len := entryLen m.pay.length
  let at0 := pos % s.ringSize h.blk
  let room := s.ringSize h.blk - at0
  t.fld (Reg.CH_CFG k ch + 0x10) F.CH_PTR_WP = (pos + len) % 2 ^ 32 ∧
  (len ≤ room → t.tsRead k (s.ringBase h + at0) len = m.bytes pos) ∧
  (room < len → t.tsRead k (s.ringBase h + at0) room = (m.bytes pos).take room ∧
    t.tsRead k (s.ringBase h) (len - room) = (m.bytes pos).drop room) ∧
  (s.skips h m.pay.length = true → 16 ≤ s.ringTail h → t.tsRead k (s.ringBase h + wp % s.ringSize h.blk) 16 =
    natLE 8 (0xF * 2 ^ 60 + s.ringTail h) ++ natLE 8 wp) ∧
  t.rd (Reg.CH_LAST k ch) = BitVec.ofNat 64 m.word0

/-- What a write of `req` from `src` makes of the sectors' copies: that of the core's own sector takes the new bytes, every other is as it
was, and none comes or goes (08 R219). -/
def State.copiesRenewed (s t : State) (src : Endpoint) (req : MemReq) : Prop :=
  (∀ c fleet line, src = .core c → t.cacheFind (c / 8) fleet line = (s.cacheFind (c / 8) fleet line).map (fun l =>
    if fleet = req.fleet ∧ line = req.va / 256 then { l with bytes := mergeBytes l.bytes (req.va % 256) req.bytes } else l)) ∧
  (∀ sec, (∀ c, src = .core c → sec ≠ c / 8) → t.sector sec = s.sector sec)

/-- The record of an NMU's command, last of what leaves: it is sent where the command asked for one (12 R324). -/
def State.recorded (t : State) (n : Nat) (m : Msg) (st : Nat) : Prop :=
  m.rq = true → ∃ ws, t.net.getLast? = some ⟨.reply, .nmu n, senderEnd m.kind m.sid, .msg m.rch
    ⟨2, ws, false, 0, 2, n, 0, m.nmuFleet, st, m.tag, m.user, 0, 0, false⟩⟩

/-- Is a packet the scout report of an NMU's running command (12 R331)? -/
def Run.scoutOf (r : Run) (n : Nat) (p : Packet) : Bool :=
  p.src == Endpoint.nmu n && (match p.body with | .scout fl tag par _ _ => fl == r.fleet && tag == r.msg.tag && par == r.blk.par | _ => false)

/-- The word-format vector commands of stream mode, with their opcodes (06 R143, R145). -/
def vsCommands : List ((Fin 72 → Upset → Instr) × Nat) :=
  [(.vsAdd, 0x40), (.vsSub, 0x41), (.vsMul, 0x42), (.vsFma, 0x43), (.vsMin, 0x44), (.vsMax, 0x45),
   (.vsAbs, 0x46), (.vsNeg, 0x47), (.vsDiv, 0x48), (.vsSqrt, 0x49), (.vsExp2, 0x4A), (.vsLog2, 0x4B),
   (.vsCmp, 0x4C), (.vsSel, 0x4D), (.vsLogic, 0x4E), (.vsCvt, 0x4F), (.vsCompress, 0x50), (.vsExpand, 0x51),
   (.vsRed, 0x52), (.vsLacc, 0x53), (.vsLrnd, 0x54), (.vsMov, 0x55)]

/-- Those of register mode (06 R158). -/
def vrCommands : List ((Fin 72 → Upset → Instr) × Nat) :=
  [(.vrAdd, 0x60), (.vrSub, 0x61), (.vrMul, 0x62), (.vrFma, 0x63), (.vrMin, 0x64), (.vrMax, 0x65),
   (.vrAbs, 0x66), (.vrNeg, 0x67), (.vrDiv, 0x68), (.vrSqrt, 0x69), (.vrExp2, 0x6A), (.vrLog2, 0x6B),
   (.vrCmp, 0x6C), (.vrSel, 0x6D), (.vrLogic, 0x6E), (.vrCvt, 0x6F), (.vrCompress, 0x70), (.vrExpand, 0x71),
   (.vrRed, 0x72), (.vrLacc, 0x73), (.vrLrnd, 0x74), (.vrMov, 0x75)]

/-- The commands of an NMU's operation engine, with their NOP (12 R321). -/
def nmuCommands : List ((Fin 20 → Nat → Upset → Instr) × Nat) :=
  [(.stage, 0x01), (.mv, 0x10), (.sgd, 0x20), (.emb, 0x21), (.scan, 0x22), (.cvt, 0x30), (.ired, 0x31), (.gather, 0x40),
   (.scatter, 0x41)]

/-- Slot `k` when every RUNNING stream of it has run its chart as far as it goes, before a transfer is chosen (08 R202, R215). -/
def State.chartsRun (s : State) (k : Nat) : State :=
  (List.range 32).foldl (fun (t : State) i =>
    if (t.strm k i).state = .running then ((t.setStrm k i ((t.strm k i).advance 4)).startWalk k i).settleStrm k i else t) s

/-- What the flags of a berm save say together: once it has ended, no write of it is left (15 R404). -/
def State.bermInv (s : State) : Prop := s.bermed = true → s.berm = none

end Sys2Proof.Machine
end

