-- ==== Sys2Proof/Certificates/Slice0/Obligations.lean ====
section
/-!
DEFINITION. Certificates/Slice0/Obligations.lean: the statements for the provers. `s.stopped = false` says that no berm save has
stopped the block; `s.leaves t` is `t` with the queue and the options of `s`. A statement `∃ t, exec c s = .next t ∧ …` says that the
command completes, and what the state it answers holds; `t = { s with … := t.… }` lists every part of the state that may differ.
-/

open Sys2Proof Sys2Proof.Machine

/-! ## Steps -/

/-- A step runs the command at the front of the queue on the state with the rest of the queue. -/
def Obligations.StepRunsFrontCommand : Prop :=
  ∀ (c : Instr) (cs : List Instr) (s : State), step { s with pending := c :: cs } = exec c { s with pending := cs }

/-- Every command answers a next state, which keeps the queue and the options of the macro. That no command stops is the model's choice
where its event is not enabled: log entry 1. Commands are served first in, first out: `n` steps take the first `n`. On an empty queue 1
ns passes, the register accesses that no longer wait at a sluice or a freeze go on in the order in which they came, and a berm save
makes its next write, or reads the next record back, or ends where none is left; while RESET_N is held low nothing passes. The model's
choice: log entries 9, 43 (whether a write of the save takes is a free value), 60 and 61. -/
def Obligations.QueueServedInOrder : Prop :=
  (∀ (c : Instr) (s : State), ∃ t, exec c s = .next t ∧ t.pending = s.pending ∧ t.opts = s.opts) ∧
  (∀ (n : Nat) (s : State), n ≤ s.pending.length →
     ∃ t, Host.Core.run Sys2Proof.core n s = .next t ∧ t.pending = s.pending.drop n ∧ t.opts = s.opts) ∧
  (∀ s : State, s.pending = [] →
     (s.bermed = true ∨ s.inReset = true → step s = .next s) ∧
     (s.bermed = false → s.inReset = false → s.berm = none → s.hostWaits = [] →
       (∀ x ∈ s.slots, ∀ e ∈ x.2.sendM, e.woken = []) → (∀ x ∈ s.hostSend, ∀ e ∈ x.2, e.woken = []) →
       (s.drsHeld = [] → step s = .next { s with time := s.time + 1 }) ∧
       step s = .next { s with
         time := s.time + 1
         pending := (s.drsHeld.filter (State.freed { s with time := s.time + 1 })).map (fun x => x.2)
         drsHeld := s.drsHeld.filter (fun x => !State.freed { s with time := s.time + 1 } x) }) ∧
     (∀ (q : Nat) (w : Nat × List Byte) (ws cs : List (Nat × List Byte)), s.bermed = false → s.inReset = false →
         s.berm = some ⟨w :: ws, cs, q⟩ →
       ∃ t, step s = .next t ∧ t.berm = some ⟨ws, cs, q⟩ ∧ t.bermed = false ∧ t.time = s.time + 1 ∧ t.free = s.free + 1 ∧
         t.nv = (if s.draw.1.getLsbD 0 then (s.nvPut w.1 w.2).nv else s.nv) ∧
         t = { s with time := t.time, nv := t.nv, berm := t.berm, free := t.free }) ∧
     (∀ (q : Nat) (r : Nat × List Byte) (cs : List (Nat × List Byte)), s.bermed = false → s.inReset = false →
         s.berm = some ⟨[], r :: cs, q⟩ →
       ∃ t, step s = .next t ∧ t.time = s.time + 1 ∧ t = { s with time := t.time, berm := t.berm } ∧
         t.berm = some ⟨if s.nvRead (r.1 + (r.2.length - 8)) 8 = r.2.drop (r.2.length - 8) then [] else stages r.1 r.2, cs, q⟩) ∧
     (∀ q : Nat, s.bermed = false → s.inReset = false → s.berm = some ⟨[], [], q⟩ →
       ∃ t, step s = .next t ∧ t.berm = none ∧ t.bermed = true ∧ t.bermDone = q ∧ t.time = s.time + 1 ∧
         t = { s with time := t.time, berm := t.berm, bermed := t.bermed, bermDone := t.bermDone }))

/-! ## Berm save (15 R404 to R407) -/

/-- Every step keeps the invariant of the berm save. The model's readings: log entry 10. -/
def Obligations.BermInvKept : Prop :=
  ∀ s t : State, s.bermInv → step s = .next t → t.bermInv

/-- The invariant of the berm save holds at reset. The model's readings: log entries 8 and 10. -/
def Obligations.BermInvAtReset : Prop :=
  State.bermInv Sys2Proof.core.reset

/-- A block that a berm save has stopped takes no command but RESET_N and VKEEP_LOW. Once a save has started the block stays stopped, until
a RESET_N: every step of a stopped block whose queue holds no RESET_N leaves it stopped, its queue without one, and everything as it
was but the queue, the clock, the save's own fields and the non-volatile store; of the registers at most IO_STAT changes; after the end
of the save nothing changes but the queue. A RESET_N during a save takes effect as one after the save completes. That the block takes no
command while the save still runs, and none while RESET_N is held low, is the model's choice: log entries 10 and 61. -/
def Obligations.StoppedUntilReset : Prop :=
  (∀ (c : Instr) (s : State), s.stopped = true → (∀ b, c ≠ .resetN b) → (∀ mv, c ≠ .vkeepLow mv) → exec c s = .next s) ∧
  (∀ s t : State, s.stopped = true → s.bermInv → (∀ b, Instr.resetN b ∉ s.pending) → step s = .next t →
     t.stopped = true ∧ (∀ b, Instr.resetN b ∉ t.pending) ∧
     t = { s with
       pending := t.pending
       time := t.time
       drs := t.drs
       nv := t.nv
       berm := t.berm
       bermed := t.bermed
       bermDone := t.bermDone
       free := t.free } ∧
     (∀ off, off ≠ Reg.IO_STAT → t.rd off = s.rd off) ∧
     (s.bermed = true → t = { s with pending := t.pending })) ∧
  (∀ (b : BootIn) (n : Nat) (s u : State), s.pending = [] → s.bermed = false → s.berm.isSome = true →
     Host.Core.run Sys2Proof.core n s = .next u → u.bermed = true → exec (.resetN b) s = exec (.resetN b) u)

/-- A save that has started runs to its end: with nothing in the queue, each step makes one write, in order, or reads one record's commit
word back, which is rewritten once where it fails, and one more sets BERM_DONE for the berm record's number. Whether a write takes is a
free value, the model's choice (log entry 43); where every write takes, the store holds them all.
The model's readings: log entries 9 and 43. -/
def Obligations.BermSaveEnds : Prop :=
  ∀ (s : State) (ws cs : List (Nat × List Byte)) (q : Nat), s.pending = [] → s.bermed = false → s.inReset = false →
    s.berm = some ⟨ws, cs, q⟩ →
    ∃ n t, ws.length + cs.length < n ∧ n ≤ ws.length + 4 * cs.length + 1 ∧
      Host.Core.run Sys2Proof.core n s = .next t ∧ t.bermed = true ∧ t.berm = none ∧ t.bermDone = q ∧
      t.nv = s.bermFinish.nv ∧ t.free = s.bermFinish.free ∧
      t = { s with time := t.time, nv := t.nv, berm := t.berm, bermed := t.bermed, bermDone := t.bermDone, free := t.free } ∧
      (cs = [] → t.nv = (ws.foldl (fun (u : State) w => u.nvTry w.1 w.2) s).nv ∧ ((∀ i, i < ws.length →
        (Config.freeWord (s.free + i)).getLsbD 0 = true) → t.nv = (ws.foldl (fun (u : State) w => u.nvPut w.1 w.2) s).nv))

/-- PWR_FAIL_N low, or VIN below 1.62 V, starts the save: the block is stopped, and the first three writes to be made are the stages of a
berm record (KIND 5), before every batch of records and the wear ledger record; every record written is to be read back. VKEEP below 1.30 V before BERM_DONE: writing stops,
BERM_DONE is not set for the record, and the store is as it stands.
Forms shown to complete: pwrFailN, vinLow, vkeepLow. The model's readings: log entries 10, 19, 21 and 43. -/
def Obligations.BermSaveStartsAndIsCut : Prop :=
  (∀ (mv : Nat) (pwr : Bool) (s : State), s.stopped = false →
     (∃ t w a q body, exec (.pwrFailN mv) s = .next t ∧ t.stopped = true ∧ t.berm = some w ∧
       w.writes.take 3 = stages a (nvRecord 5 q body) ∧ w.seq = q ∧ w.writes = w.check.flatMap (fun r => stages r.1 r.2)) ∧
     (mv < 1620 → ∃ t w a q body, exec (.vinLow mv pwr) s = .next t ∧ t.stopped = true ∧ t.berm = some w ∧
       w.writes.take 3 = stages a (nvRecord 5 q body) ∧ w.seq = q ∧ w.writes = w.check.flatMap (fun r => stages r.1 r.2))) ∧
  (∀ (mv : Nat) (s : State), mv < 1300 → s.berm.isSome = true →
     ∃ t, exec (.vkeepLow mv) s = .next t ∧ t.berm = none ∧ t.bermed = true ∧
       t = { s with drs := t.drs, berm := t.berm, bermed := t.bermed } ∧ (∀ off, off ≠ Reg.IO_STAT → t.rd off = s.rd off) ∧
       (∀ n u, t.pending = [] → Host.Core.run Sys2Proof.core n t = .next u → u.nv = s.nv ∧ u.bermDone = s.bermDone))

/-! ## Resets, supplies and clocks (15, 18, 19) -/

/-- RESET_N runs the steps of R475 in their order, in a stopped block too: what step 1 leaves, the non-volatile areas and the repair map,
power and P98, trainings, soundings, and the boot images from step 6 on; held low it leaves what step 1 leaves, and the block takes
nothing but RESET_N. A warm reset, by RST_CTL.WARM or by WARM_N, runs the steps of
R476 in their order, without soundings; WARM_N is ignored until step 7 of a cold reset has completed. BT_CTL.GO: a boot that waits for
the host reads the host's directory, and stops with its status where the source fails; any other boot ignores it.
Forms shown to complete: resetN, warmN, warm, bootGo. The model's readings: log entries 8, 25, 26 and 61. -/
def Obligations.ResetSequences : Prop :=
  (∀ (b : BootIn) (s : State),
     (b.low = false → exec (.resetN b) s = .next (s.framed
       ((((((s.coldStart b).loadNv.loadMap).raise b.haClk).bootTrain b).bootSoundings b.found).bootImages b)).fresh) ∧
     (b.low = true → ∃ t, exec (.resetN b) s = .next t ∧ t = (s.framed (s.coldStart b)).fresh ∧ t.stopped = true ∧
       t.fld Reg.HA_STAT F.HA_STAT_STATE = 0)) ∧
  (∀ (b : BootIn) (s : State), s.stopped = false →
     (exec (.warm b) s = .next (s.leaves
       (((((s.warmStart 2).loadMap).raise b.haClk).bootTrain b).applyStaged.bootImages b))) ∧
     (s.rd (Reg.ZN_PEP 99) ≠ 0 ∨ s.fld Reg.RST_STAT F.RST_STAT_CAUSE ≠ 0 → exec (.warmN b) s = .next (s.leaves
       (((((s.warmStart 1).loadMap).raise b.haClk).bootTrain b).applyStaged.bootImages b))) ∧
     (s.rd (Reg.ZN_PEP 99) = 0 → s.fld Reg.RST_STAT F.RST_STAT_CAUSE = 0 → exec (.warmN b) s = .next s)) ∧
  (∀ (b : BootIn) (s : State), s.stopped = false →
     (s.bootWaits = true → exec (.bootGo b) s = .next (s.leaves
       (match (s.bootFrom b.host (s.rd Reg.BT_HADDR).toNat 2 s.bootNeeds).2.2 with
         | none => (s.bootFrom b.host (s.rd Reg.BT_HADDR).toNat 2 s.bootNeeds).1
         | some st => (s.bootFrom b.host (s.rd Reg.BT_HADDR).toNat 2 s.bootNeeds).1.bootStop st))) ∧
     (s.bootWaits = false → exec (.bootGo b) s = .next s))

/-- What step 1 of a cold reset leaves: the timebase at 0, no unit with anything in it, every logical core UNBOUND, the pins sampled; what
the stacks and the non-volatile store hold stays, a berm save in progress having run to its end; every register is at its reset value
but for what OTP, pins and supplies give, and for the thermal trip while RESET_N is held low. What a warm reset keeps and what it leaves undefined: the timebase, the Logbook ring, the
non-volatile store, OTP and the NMU general area stay, and External Memory where no write is in flight; a byte of a Tile Store or of a
sector pool reads as a free value of a generation that no earlier warm reset had. The model's readings: log entries 2, 3, 6, 8 and 26. -/
def Obligations.StartsLeave : Prop :=
  (∀ (b : BootIn) (s : State), b.src < 4 →
     (s.coldStart b).time = 0 ∧ (s.coldStart b).slots = [] ∧ (s.coldStart b).sectors = [] ∧ (s.coldStart b).nmus = [] ∧
     (s.coldStart b).ports = [] ∧ (s.coldStart b).links = [] ∧ (s.coldStart b).net = [] ∧ (s.coldStart b).passages = [] ∧
     (s.coldStart b).log = [] ∧ (∀ id, (s.coldStart b).slotOf id = none) ∧
     (s.coldStart b).em = s.em ∧ (s.coldStart b).nv = s.bermFinish.nv ∧
     (s.coldStart b).fld Reg.RST_STAT F.RST_STAT_SRC_PIN = b.src ∧
     (s.coldStart b).fld Reg.ZN_COMPAT F.ZN_COMPAT_DN16 = b01 b.dn16 ∧
     (∀ off, off ∈ otpRegs → (s.coldStart b).rd off = s.rd off) ∧
     (∀ off, off ∉ otpRegs → off ≠ Reg.OTP_STAT → off ≠ Reg.ZN_COMPAT → off ≠ Reg.IO_STAT → off ≠ Reg.RST_STAT →
       (b.low = false ∨ off ≠ Reg.CP_STAT) → (s.coldStart b).rd off = resetWord off)) ∧
  (∀ (cause : Nat) (s : State), s.reports = [] → (∀ p ∈ s.ports, p.2.wrHeld = [] ∧ p.2.wrQ = [] ∧ p.2.wrOut = []) →
     (s.warmStart cause).time = s.time ∧ (s.warmStart cause).log = s.log ∧ (s.warmStart cause).nv = s.nv ∧
     (s.warmStart cause).em = s.em ∧ (∀ off, off ∈ otpRegs → (s.warmStart cause).rd off = s.rd off) ∧
     (∀ n a, a < generalArea →
       sget zeroByte ((s.warmStart cause).nmu n).staging a = sget zeroByte (s.nmu n).staging a) ∧
     (∀ k a n, k < 72 →
       (s.warmStart cause).tsRead k a n = (List.range' a n).map (fun i => Config.freeTileByte (s.free + 1) k i)) ∧
     (∀ k a, k < 8 → a < 2 ^ 24 →
       (s.warmStart cause).poolRead k a 1 = [Config.freePoolByte (s.free + 1) k a]) ∧
     (s.warmStart cause).free = s.free + 1 ∧
     (s.warmStart cause).net = [] ∧ (s.warmStart cause).passages = [] ∧ (s.warmStart cause).leases = [] ∧
     (∀ id, (s.warmStart cause).slotOf id = none))

/-- VIN below 1.71 V freezes granting, withdraws what polders hold beyond floors and reserves, and raises the power alert; VIN back at 1.74
V ends the freeze; a polder at 125 degrees trips: every arbitrated grant is withdrawn, with the power alert. The reference clocks:
losing TB_REFCLK sets TB_LOST and the internal timebase, its return ends the latter; losing PHY_REFCLK sets PHY_LOST and sends every
memory port and Filic link that was training, up or degraded into training, and no training ends before the clock returns; HA_CLK makes the host attach port READY
once step 3 of a reset is past, and the packets that wait go out.
Forms shown to complete: vinWarn, vinRecover, thermTrip, tbRefclkLost, tbRefclkReturn, phyRefclkLost, haClkStart, phyRefclkReturn.
The model's readings: log entries 19 and 25. -/
def Obligations.SupplyHeatAndClocks : Prop :=
  (∀ (mv : Nat) (n : Fin 100) (s : State), s.stopped = false →
     (mv < 1710 → ∃ t, exec (.vinWarn mv) s = .next t ∧ t.fld Reg.CP_STAT F.CP_STAT_VIN_WARN = 1 ∧
       t.fld Reg.CP_STAT F.CP_STAT_FROZEN = 1 ∧ (∀ p, p < 100 → t.granted p = min (s.granted p) (s.drawnBy p)) ∧
       bit (t.fld Reg.AL_STAT F.AL_STAT_CLASS) 8 = true ∧ t.em = s.em ∧ t.slots = s.slots) ∧
     (1740 ≤ mv → ∃ t, exec (.vinRecover mv) s = .next t ∧ t.fld Reg.CP_STAT F.CP_STAT_FROZEN = 0 ∧
       (∀ off, off ≠ Reg.CP_STAT → off ≠ Reg.IO_STAT → t.rd off = s.rd off) ∧ t = { s with drs := t.drs }) ∧
     (125 ≤ s.fld (Reg.PACE_P n) F.PACE_P_TJ → s.present n = true →
       ∃ t, exec (.thermTrip n) s = .next t ∧ t.fld Reg.CP_STAT F.CP_STAT_TRIP = 1 ∧ (∀ p, p < 100 → t.granted p = 0) ∧
         bit (t.fld Reg.AL_STAT F.AL_STAT_CLASS) 8 = true ∧ t.em = s.em ∧ t.slots = s.slots)) ∧
  (∀ s : State, s.stopped = false → s.opts.memPorts ≤ 20 → s.opts.linkPorts ≤ 8 →
     (∃ t, exec .tbRefclkLost s = .next t ∧ t.fld Reg.IO_STAT F.IO_STAT_TB_LOST = 1 ∧ t.fld Reg.IO_STAT F.IO_STAT_TB_INT = 1 ∧
       t.time = s.time ∧ t.em = s.em ∧ t.slots = s.slots) ∧
     (exec .tbRefclkReturn s = .next (s.setFld Reg.IO_STAT F.IO_STAT_TB_INT 0)) ∧
     (∃ t, exec .phyRefclkLost s = .next t ∧ t.fld Reg.IO_STAT F.IO_STAT_PHY_LOST = 1 ∧
       (∀ p, p < s.opts.memPorts → 1 ≤ s.mpState p → s.mpState p ≤ 3 → t.mpState p = 1) ∧
       (∀ l, l < s.opts.linkPorts → 1 ≤ s.flState l → s.flState l ≤ 3 → t.flState l = 1) ∧ t.em = s.em ∧ t.slots = s.slots ∧
       t.phyOff = true) ∧
     (exec .phyRefclkReturn s = .next { s with phyOff := false }) ∧
     (∀ (p : Fin 20) (l : Fin 8) (ok : Bool) (node : Nat) (rx tx : List Nat), s.phyOff = true →
       exec (.trainingDone p ok rx tx) s = .next s ∧ exec (.flTrainingDone l ok node rx tx) s = .next s) ∧
     (s.fld Reg.HA_STAT F.HA_STAT_STATE = 0 → s.fld Reg.RST_STAT F.RST_STAT_PHASE ≠ 0 →
       exec .haClkStart s = .next (s.leaves
         ((s.setFld Reg.IO_STAT F.IO_STAT_HA_CLK_RUN 1).setFld Reg.HA_STAT F.HA_STAT_STATE 1).haPump)))

/-- The test port: TRST_N selects IDCODE and touches nothing but the test logic; BYPASS captures 0; IDCODE captures version, part,
manufacturer and 1; SAMPLE/PRELOAD and EXTEST capture the pins and load the cells. I3C: a target without a dynamic address takes one by
ENTDAA, or by SETDASA naming 0x2E; one that has an address keeps it (the model's choice: log entry 34); then a private read
returns 8 bytes of the DRS and a private write acts on the registers of R480 only. PMBus: a poll shows what each enabled device
answers (one that answers nothing keeps its words: the model's choice, log entry 30); PMB_ALERT_N raises the power alert and shows the STATUS_WORD of the enabled device that answered.
Forms shown to complete: pmbAlertN, pmbusPoll, trstN, bypass, idcode, samplePreload, extest, entdaa, setdasa, i3cRead, i3cWrite.
The model's readings: log entries 5, 30 and 34. -/
def Obligations.ManagementPorts : Prop :=
  (∀ (pins cells : Word) (s : State), s.stopped = false →
     exec .trstN s = .next { s with jtag := ⟨.idcode, 0, 0⟩ } ∧
     exec .bypass s = .next { s with jtag := ⟨.bypass, 0, s.jtag.cells⟩ } ∧
     exec .idcode s = .next { s with jtag := ⟨.idcode, BitVec.ofNat 64 (s.fld Reg.ID0 F.ID0_MAJOR % 16 * 2 ^ 28 + 0x0264 * 2 ^ 12 +
       s.fld Reg.OTP_STAT F.OTP_STAT_MFR * 2 + 1), s.jtag.cells⟩ } ∧
     exec (.samplePreload pins cells) s = .next { s with
       pins := pins
       jtag := ⟨.sample, pins, cells⟩ } ∧
     exec (.extest pins cells) s = .next { s with
       pins := pins
       jtag := ⟨.extest, pins, cells⟩ }) ∧
  (∀ (addr off : Nat) (v : Word) (b : BootIn) (s : State), s.stopped = false →
     (s.i3cAddr = none → exec (.entdaa addr) s = .next { s with i3cAddr := some addr } ∧
       exec (.setdasa 0x2E addr) s = .next { s with i3cAddr := some addr }) ∧
     (s.i3cAddr.isSome = true → exec (.entdaa addr) s = .next s ∧ (∀ static, exec (.setdasa static addr) s = .next s)) ∧
     (∀ static, static ≠ 0x2E → exec (.setdasa static addr) s = .next s) ∧
     (s.i3cAddr.isSome = true → off + 7 < 0x100000 → ∃ t, exec (.i3cRead off) s = .next t ∧
       t.i3cData = BitVec.ofNat 64 (leNat (s.drsRead off 8).1) ∧ t = { s with i3cData := t.i3cData, drs := t.drs }) ∧
     (s.i3cAddr.isSome = true → i3cWritable off = true →
       exec (.i3cWrite off v b) s = .next (s.leaves (s.drsWrite 9 off (natLE 8 v.toNat) b))) ∧
     (i3cWritable off = false → exec (.i3cWrite off v b) s = .next s)) ∧
  (∀ (answers : List (Nat × Nat × Nat × Nat)) (addr status : Nat) (s : State), s.stopped = false →
     (∃ t, exec (.pmbusPoll answers) s = .next t ∧
       (∀ n a, n < 8 → s.flag (Reg.PMB_DEV n) F.PMB_DEV_EN = true → answers.find? (fun x => x.1 == n) = some a →
         t.fld (Reg.PMB_DEV n) F.PMB_DEV_VOUT = a.2.1 % 2 ^ 16 ∧ t.fld (Reg.PMB_DEV n) F.PMB_DEV_IOUT = a.2.2.1 % 2 ^ 16 ∧
         t.fld (Reg.PMB_DEV n) F.PMB_DEV_STATUS = a.2.2.2 % 2 ^ 16) ∧
       (∀ n, n < 8 → answers.find? (fun x => x.1 == n) = none → ∀ f ∈ [F.PMB_DEV_VOUT, F.PMB_DEV_IOUT, F.PMB_DEV_STATUS],
         t.fld (Reg.PMB_DEV n) f = s.fld (Reg.PMB_DEV n) f) ∧
       (∀ off, (∀ n, n < 8 → s.flag (Reg.PMB_DEV n) F.PMB_DEV_EN = true → off ≠ Reg.PMB_DEV n) → t.rd off = s.rd off) ∧
       t = { s with drs := t.drs }) ∧
     (∃ t, exec (.pmbAlertN addr status) s = .next t ∧ bit (t.fld Reg.AL_STAT F.AL_STAT_CLASS) 8 = true ∧
       (∀ n, n < 8 → s.flag (Reg.PMB_DEV n) F.PMB_DEV_EN = true → s.fld (Reg.PMB_DEV n) F.PMB_DEV_ADDR = addr →
         t.fld (Reg.PMB_DEV n) F.PMB_DEV_STATUS = status % 2 ^ 16) ∧ t.em = s.em ∧ t.slots = s.slots))

/-! ## Registers (00 R8, 02 R58 to R64) -/

/-- In every register map each field lies in the 64 bits of its register, apart from every other, and its reset value fits.
The model's readings: log entry 6. -/
def Obligations.RegisterMapsSound : Prop :=
  ∀ r ∈ devRegs ++ slotRegs ++ portRegs ++ linkRegs,
    (∀ f ∈ r.fields, f.lo + f.len ≤ 64 ∧ f.reset < 2 ^ f.len) ∧
    r.fields.Pairwise (fun f g => f.lo + f.len ≤ g.lo ∨ g.lo + g.len ≤ f.lo)

/-- The access codes: of a write of the bits that `m` picks, an RW field, and a WO field of more than one bit, takes them (a WO bit that
acts when written holds nothing), a W1C field clears each bit written 1, a W1S field
sets each, and any other field keeps what it holds; a read leaves an RC field whose bytes it reads at 0 and every other field as it is.
The model's readings: log entry 27. -/
def Obligations.AccessCodes : Prop :=
  ∀ r ∈ devRegs ++ slotRegs ++ portRegs ++ linkRegs, ∀ f ∈ r.fields, ∀ old m v : Word,
    getF (writeMasked r old m v) ⟨f.lo, f.len⟩ =
      (match f.acc with
        | .rw => getF ((old &&& ~~~m) ||| (v &&& m)) ⟨f.lo, f.len⟩
        | .wo => if f.len = 1 then getF old ⟨f.lo, f.len⟩ else getF ((old &&& ~~~m) ||| (v &&& m)) ⟨f.lo, f.len⟩
        | .w1c => getF old ⟨f.lo, f.len⟩ &&& (2 ^ f.len - 1 - getF (v &&& m) ⟨f.lo, f.len⟩)
        | .w1s => getF old ⟨f.lo, f.len⟩ ||| getF (v &&& m) ⟨f.lo, f.len⟩
        | _ => getF old ⟨f.lo, f.len⟩) ∧
    getF (clearRead r m old) ⟨f.lo, f.len⟩ =
      (if f.acc = .rc ∧ getF m ⟨f.lo, f.len⟩ = 2 ^ f.len - 1 then 0 else getF old ⟨f.lo, f.len⟩)

/-- REGISTER_WRITE of 8 bytes acts by the register's access codes and changes nothing else, for registers of the keep polder and host
complex without an effect of their own, and for the launch record of a slot that can be reached; behind a closed dike nothing is
written, and before a sluice or a frozen slot the access is held. The instrument of the IEEE 1687 network (agent 10) writes nothing while
DEBUG_OPEN is 0. Writing 1 to a sticky bit of NUM_STAT clears the bit, its source and its position together; a sticky bit written
0 keeps all three. Nothing else changes. A write of a scout sets MAX to the 31 bits written, of a slot's scouts and of an NMU's, and
changes nothing else; while a converting command is in progress, which of its element groups come after the write is a free value, and
those are combined with what is written.
Forms shown to complete: registerWrite, numStatClear, scoutWrite. The model's readings: log entry 27. -/
def Obligations.RegisterWritesAct : Prop :=
  (∀ (off : Nat) (bytes : List Byte) (b : BootIn) (s : State), s.stopped = false → s.flag Reg.OTP_STAT F.OTP_STAT_DEBUG_OPEN = false →
     exec (.registerWrite instrument off bytes b) s = .next s) ∧
  (∀ (who : Nat) (v : Word) (b : BootIn) (k : Fin 72) (n : Nat) (s : State), s.stopped = false → n < 8 →
     (who = instrument → s.flag Reg.OTP_STAT F.OTP_STAT_DEBUG_OPEN = true) →
     (∀ off ∈ [Reg.AL_STAT, Reg.AL_ROUTE, Reg.AL_HA_ADDR, Reg.LB_SEL, Reg.CP_CFG, Reg.BT_HADDR, Reg.HC_ENTRY, Reg.HC_FWADDR], ∀ r,
       regAt off = some r →
       ∃ t, exec (.registerWrite who off (natLE 8 v.toNat) b) s = .next t ∧
         t.rd off = writeMasked r (s.rd off) (-1) v ∧ (∀ o, o ≠ off → t.rd o = s.rd o) ∧ t = { s with drs := t.drs }) ∧
     (s.reachBy (drsAgent who) (Reg.KL_REC k n) = .ok →
       ∃ t, exec (.registerWrite who (Reg.KL_REC k n) (natLE 8 v.toNat) b) s = .next t ∧
         t.rd (Reg.KL_REC k n) = v ∧ (∀ o, o ≠ Reg.KL_REC k n → t.rd o = s.rd o) ∧ t = { s with drs := t.drs }) ∧
     (s.reachBy (drsAgent who) (Reg.KL_REC k n) = .closed →
       exec (.registerWrite who (Reg.KL_REC k n) (natLE 8 v.toNat) b) s = .next s) ∧
     (s.reachBy (drsAgent who) (Reg.KL_REC k n) = .wait → exec (.registerWrite who (Reg.KL_REC k n) (natLE 8 v.toNat) b) s = .next { s with
       drsHeld := s.drsHeld ++ [(Reg.KL_REC k n, .registerWrite who (Reg.KL_REC k n) (natLE 8 v.toNat) b)] })) ∧
  (∀ (k : Fin 72) (v : Word) (s : State), s.stopped = false → s.reach (Reg.NUM_STAT k) = .ok →
     ∃ t, exec (.numStatClear k v) s = .next t ∧
       (∀ x ∈ [(F.NUM_STAT_NF, F.NUM_STAT_NF_SRC, F.NUM_STAT_NF_POS), (F.NUM_STAT_WRAP, F.NUM_STAT_WRAP_SRC, F.NUM_STAT_WRAP_POS),
           (F.NUM_STAT_RNG, F.NUM_STAT_RNG_SRC, F.NUM_STAT_RNG_POS)], ∀ f ∈ [x.1, x.2.1, x.2.2],
         t.fld (Reg.NUM_STAT k) f = if getF v x.1 = 1 then 0 else s.fld (Reg.NUM_STAT k) f) ∧
       (∀ o, o ≠ Reg.NUM_STAT k → t.rd o = s.rd o) ∧ t = { s with drs := t.drs }) ∧
  (∀ (k : Fin 72) (n : Fin 20) (v : Nat) (s : State), s.stopped = false → v < 2 ^ 31 → n.val < s.opts.memPorts →
     ∀ x ∈ [(ScoutRef.scout0 k, Reg.SCOUT0 k), (ScoutRef.scout1 k, Reg.SCOUT1 k), (ScoutRef.nmu n, Reg.NMU_SCOUT n)],
       s.reach x.2 = .ok →
       ∃ t, exec (.scoutWrite x.1 v) s = .next t ∧ (∀ o, o ≠ x.2 → t.rd o = s.rd o) ∧
         t = { s with drs := t.drs, slots := t.slots, free := t.free } ∧ (∀ j, j ≠ k.val → t.slot j = s.slot j) ∧
         ((∀ m ∈ (s.slot k).tails0 ++ (s.slot k).tails1, m < 2 ^ 31) →
           ∃ m ∈ 0 :: ((s.slot k).tails0 ++ (s.slot k).tails1), t.fld x.2 ⟨0, 31⟩ = max v m) ∧
         ((s.slot k).tails0 = [] → (s.slot k).tails1 = [] → t.fld x.2 ⟨0, 31⟩ = v ∧ t = { s with drs := t.drs }))

/-! ## The control core (07 R167 to R178) -/

/-- An interrupt that is pending and enabled is taken before the next instruction of the main context: mepc, mcause, mtval, MPIE and MIE
are set and the pc goes to mtvec, by its mode; the general registers and everything else stay. WFI of the main context with no enabled
interrupt pending waits, and retires where one is; MRET returns to mepc, MIE taking MPIE and MPIE becoming 1. CC_CTL.SWI takes what is
written; a timer event brings the timebase to CC_TIMECMP at least, and MTIP is then pending.
Forms shown to complete: instruction, swi, timerInterrupt. The model's readings: log entries 12 and 44. -/
def Obligations.InterruptsTaken : Prop :=
  (∀ (k : Fin 72) (c : Nat) (s : State), s.stopped = false → s.runs k false = true → (s.slot k).csrs.mie = true →
     s.pickIrq k = some c → (s.slot k).tvec ≠ 0 → (s.slot k).wfi = false →
     ∃ t, exec (.instruction k false .none) s = .next t ∧ t.pc k false = BitVec.ofNat 64
         ((s.slot k).csrs.mtvec.toNat / 4 * 4 + (if bits (s.slot k).csrs.mtvec.toNat 0 2 = 1 then 4 * c else 0)) ∧
       (t.slot k).csrs = { (s.slot k).csrs with
         mepc := s.pc k false
         mcause := BitVec.ofNat 64 (2 ^ 63 + c)
         mtval := 0
         mpie := true
         mie := false } ∧
       (∀ r, t.getX k false r = s.getX k false r) ∧ (t.slot k).hand = (s.slot k).hand ∧
       t = { s with slots := t.slots } ∧ (∀ j, j ≠ k.val → t.slot j = s.slot j)) ∧
  (∀ (k : Fin 72) (s : State), s.issues k false →
     (s.fetches k false 0x10500073 →
       (s.pickIrq k = none → exec (.instruction k false .none) s = .next (s.modSlot k (fun c => { c with wfi := true }))) ∧
       ((s.pickIrq k).isSome = true → ∃ t, exec (.instruction k false .none) s = .next t ∧ s.retired t k false 0 0 ∧
         s.onlyCtx t k false)) ∧
     (s.fetches k false 0x30200073 → ∃ t, exec (.instruction k false .none) s = .next t ∧
       t.pc k false = (s.slot k).csrs.mepc ∧ (t.slot k).csrs = { (s.slot k).csrs with
         mie := (s.slot k).csrs.mpie
         mpie := true
         instret := (s.slot k).csrs.instret + 1 } ∧
       (∀ r, t.getX k false r = s.getX k false r) ∧ t = { s with slots := t.slots })) ∧
  (∀ (k : Fin 72) (on : Bool) (s : State), s.stopped = false → s.time < 2 ^ 63 →
     (s.reach (Reg.CC_CTL k) = .ok → ∃ t, exec (.swi k on) s = .next t ∧ t.fld (Reg.CC_CTL k) F.CC_CTL_SWI = b01 on ∧
       bit (t.mip k) 3 = on ∧ (∀ o, o ≠ Reg.CC_CTL k → t.rd o = s.rd o) ∧ t = { s with drs := t.drs }) ∧
     ((s.rd (Reg.CC_TIMECMP k)).toNat < 2 ^ 63 → ∃ t, exec (.timerInterrupt k) s = .next t ∧
       t = { s with time := max s.time (s.rd (Reg.CC_TIMECMP k)).toNat } ∧ bit (t.mip k) 7 = true))

/-- Any other instruction of RV64IMAC_Zicsr that raises no exception retires: the state is what `rvExec` makes of it, with `instret` and
the step count one more and no stall; whether a handler's next instruction may find the main context ahead is the model's choice (log
entry 44). ADDI, ADD, SUB and LUI: 64-bit results, LUI's sign-extended from 32 bits, x0 discarding what is written to it, every other
register, the other context and everything else as before.
Forms shown to complete: instruction. The model's readings: log entries 12 and 44. -/
def Obligations.InstructionsRetire : Prop :=
  (∀ (k : Fin 72) (h : Bool) (f : Fetched) (s t : State), s.issues k h → (s.slot k).fetch (s.pc k h).toNat = .ok f →
     s.ncxAt k h = none → (h = true ∨ (f.word ≠ some 0x10500073 ∧ f.word ≠ some 0x30200073)) → s.rvExec k h f = .ok t →
     exec (.instruction k h .none) s =
       .next (s.leaves ((t.retire k h).modSlot k (fun c => if h then { c with hwait := f.slow } else c)))) ∧
  (∀ (k : Fin 72) (h : Bool) (rd rs1 rs2 imm : Nat) (s : State), s.issues k h → rd < 32 → rs1 < 32 → rs2 < 32 → imm < 4096 →
     (s.fetches k h (encI imm rs1 0 rd 0x13) → ∃ t, exec (.instruction k h .none) s = .next t ∧
       s.retired t k h rd (s.getX k h rs1 + BitVec.signExtend 64 (BitVec.ofNat 12 imm)) ∧ s.onlyCtx t k h) ∧
     (s.fetches k h (encR 0 rs2 rs1 0 rd 0x33) → ∃ t, exec (.instruction k h .none) s = .next t ∧
       s.retired t k h rd (s.getX k h rs1 + s.getX k h rs2) ∧ s.onlyCtx t k h) ∧
     (s.fetches k h (encR 0x20 rs2 rs1 0 rd 0x33) → ∃ t, exec (.instruction k h .none) s = .next t ∧
       s.retired t k h rd (s.getX k h rs1 - s.getX k h rs2) ∧ s.onlyCtx t k h) ∧
     (∀ u, u < 2 ^ 20 → s.fetches k h (u * 2 ^ 12 + rd * 2 ^ 7 + 0x37) → ∃ t, exec (.instruction k h .none) s = .next t ∧
       s.retired t k h rd (BitVec.signExtend 64 (BitVec.ofNat 32 (u * 2 ^ 12))) ∧ s.onlyCtx t k h))

/-- Loads and stores of every width and the atomics reach the core's own Tile Store. A load reads the aligned bytes at rs1 and the
immediate, and sign- or zero-extends them; a store stores the low bytes of rs2 there, and every other byte of the Tile Store, the
registers and the other slots stay as they were. LR reads and reserves; SC stores rs2 and gives 0 where the reservation stands, else
stores nothing and gives 1; an AMO stores its result and gives the old value, sign-extended. A misaligned address is refused, and one
outside the Tile Store, with its cause: the instruction does not retire and no byte changes.
Forms shown to complete: instruction. The model's readings: log entries 12 and 57. -/
def Obligations.LoadsAndStores : Prop :=
  (∀ (k : Fin 72) (h : Bool) (rd rs1 rs2 imm a : Nat) (s : State), s.issues k h → rd < 32 → rs1 < 32 → rs2 < 32 → imm < 4096 →
     (s.getX k h rs1 + BitVec.signExtend 64 (BitVec.ofNat 12 imm)).toNat = a →
     (∀ x ∈ [(0, 1, true), (1, 2, true), (2, 4, true), (3, 8, true), (4, 1, false), (5, 2, false), (6, 4, false)], ∀ f n sx,
       x = (f, n, sx) → a % n = 0 → a + n ≤ 0x800000 → s.fetches k h (encI imm rs1 f rd 0x03) →
       ∃ t, exec (.instruction k h .none) s = .next t ∧ s.onlyCtx t k h ∧
         s.retired t k h rd (if sx then BitVec.signExtend 64 (BitVec.ofNat (8 * n) (s.tsLE k a n)) else BitVec.ofNat 64 (s.tsLE k a n))) ∧
     (∀ f, f < 4 → a % 2 ^ f = 0 → a + 2 ^ f ≤ 0x800000 → s.fetches k h (encS imm rs2 rs1 f 0x23) →
       ∃ t, exec (.instruction k h .none) s = .next t ∧
         s.retired t k h 0 0 ∧ t.tsRead k a (2 ^ f) = natLE (2 ^ f) (s.getX k h rs2).toNat ∧
         (∀ b, b < a ∨ a + 2 ^ f ≤ b → t.tsRead k b 1 = s.tsRead k b 1) ∧ (∀ j, j ≠ k.val → t.slot j = s.slot j) ∧ t.em = s.em)) ∧
  (∀ (k : Fin 72) (h : Bool) (rd rs1 rs2 f n o q a : Nat) (s : State), s.issues k h → rd < 32 → rs1 < 32 → rs2 < 32 → q < 4 →
     (f = 2 ∧ n = 4 ∨ f = 3 ∧ n = 8) → (s.getX k h rs1).toNat = a → a % n = 0 → a + n ≤ 0x800000 →
     s.fetches k h (encR (4 * o + q) rs2 rs1 f rd 0x2F) →
     (o = 2 → rs2 = 0 → ∃ t, exec (.instruction k h .none) s = .next t ∧ (t.slot k).resv h = some a ∧
       s.retired t k h rd (BitVec.signExtend 64 (BitVec.ofNat (8 * n) (s.tsLE k a n))) ∧ (t.slot k).ts = (s.slot k).ts ∧
       (t.slot k).resv (!h) = (s.slot k).resv (!h) ∧ t = { s with slots := t.slots } ∧ (∀ j, j ≠ k.val → t.slot j = s.slot j)) ∧
     (o = 3 → ∃ t, exec (.instruction k h .none) s = .next t ∧ (t.slot k).resv h = none ∧
       s.retired t k h rd (if (s.slot k).resv h = some a then 0 else 1) ∧
       t.tsRead k a n = (if (s.slot k).resv h = some a then natLE n (s.getX k h rs2).toNat else s.tsRead k a n) ∧
       (∀ b, b < a ∨ a + n ≤ b → t.tsRead k b 1 = s.tsRead k b 1) ∧ (∀ j, j ≠ k.val → t.slot j = s.slot j) ∧ t.em = s.em) ∧
     (∀ v, amoOp o (8 * n) (s.tsLE k a n) ((s.getX k h rs2).toNat % 2 ^ (8 * n)) = some v →
       ∃ t, exec (.instruction k h .none) s = .next t ∧
         s.retired t k h rd (BitVec.signExtend 64 (BitVec.ofNat (8 * n) (s.tsLE k a n))) ∧ t.tsRead k a n = natLE n v ∧
         (∀ b, b < a ∨ a + n ≤ b → t.tsRead k b 1 = s.tsRead k b 1) ∧ (∀ j, j ≠ k.val → t.slot j = s.slot j) ∧ t.em = s.em)) ∧
  (∀ (k : Fin 72) (rd rs1 rs2 imm a f : Nat) (st : Bool) (s : State), s.issues k false → (s.slot k).tvec ≠ 0 → rd < 32 → rs1 < 32 →
     rs2 < 32 → imm < 4096 → (s.getX k false rs1 + BitVec.signExtend 64 (BitVec.ofNat 12 imm)).toNat = a → f < 4 →
     s.fetches k false (if st then encS imm rs2 rs1 f 0x23 else encI imm rs1 f rd 0x03) → a % 2 ^ f ≠ 0 ∨ 0x800000 < a + 2 ^ f →
     ∃ t, exec (.instruction k false .none) s = .next t ∧ (t.slot k).csrs.mepc = s.pc k false ∧
       (t.slot k).csrs.mcause = BitVec.ofNat 64 ((if a % 2 ^ f ≠ 0 then 4 else 5) + 2 * b01 st) ∧
       (t.slot k).csrs.mtval = BitVec.ofNat 64 a ∧ (t.slot k).csrs.instret = (s.slot k).csrs.instret ∧
       t.pc k false = BitVec.ofNat 64 ((s.slot k).csrs.mtvec.toNat / 4 * 4) ∧ (t.slot k).ts = (s.slot k).ts ∧
       t = { s with slots := t.slots } ∧ (∀ j, j ≠ k.val → t.slot j = s.slot j))

/-- An exception of the main context traps to mtvec where the launch record gives a trap vector, and the instruction does not retire; it
ends the kernel with 0x8A and TRAP_INFO where the record gives none, as an exception of the handler context does.
Forms shown to complete: instruction. The model's readings: log entry 12. -/
def Obligations.ExceptionsTrapOrEnd : Prop :=
  ∀ (k : Fin 72) (h : Bool) (f : Fetched) (cause : Nat) (tv : Word) (s : State), s.issues k h →
    (s.slot k).fetch (s.pc k h).toNat = .ok f → s.ncxAt k h = none →
    (h = true ∨ (f.word ≠ some 0x10500073 ∧ f.word ≠ some 0x30200073)) → s.rvExec k h f = .error (cause, tv) → cause < 64 →
    (h = false → (s.slot k).tvec ≠ 0 → ∃ t, exec (.instruction k h .none) s = .next t ∧
      t.pc k false = BitVec.ofNat 64 ((s.slot k).csrs.mtvec.toNat / 4 * 4) ∧ (t.slot k).csrs.mepc = s.pc k false ∧
      (t.slot k).csrs.mcause = BitVec.ofNat 64 cause ∧ (t.slot k).csrs.mtval = tv ∧
      (t.slot k).csrs.mpie = (s.slot k).csrs.mie ∧ (t.slot k).csrs.mie = false ∧
      (t.slot k).csrs.instret = (s.slot k).csrs.instret ∧ t = { s with slots := t.slots }) ∧
    (h = true ∨ (s.slot k).tvec = 0 → ∃ t, exec (.instruction k h .none) s = .next t ∧
      t.klState k = 3 ∧ (t.slot k).ending = .stop 0x8A false ∧ t.flag (Reg.TRAP_INFO k) F.TRAP_INFO_VALID = true ∧
      t.fld (Reg.TRAP_INFO k) F.TRAP_INFO_CTX = b01 h ∧ t.fld (Reg.TRAP_INFO k) F.TRAP_INFO_CAUSE = cause ∧
      t.fld (Reg.TRAP_INFO k) F.TRAP_INFO_EPC = (s.pc k h).toNat % 2 ^ 32)

/-! ## Issue, queues and waits (07 R178 to R188) -/

/-- NCX.ISSUE of the main context to a queue with room on chip: the word stands at the end of the queue with the next ticket, which rd
receives; with no room the context stalls and nothing enters. A word that no queue takes raises cause 25 in the main context; the
handler context may issue replies only, and anything else of it ends the kernel. WPT enters both queues with the next ticket of each
and the next waypoint number, which rd receives.
Forms shown to complete: ncxIssue, wpt. The model's readings: log entries 11 and 32. -/
def Obligations.IssueEntersQueue : Prop :=
  (∀ (k : Fin 72) (rd rs1 rs2 : Nat) (c : Cmd) (q : QSel) (s : State), s.issues k false → rd < 32 → rs1 < 32 → rs2 < 32 →
     s.fetches k false (ncxWord rs2 rs1 0 rd) → c = s.getX k false rs1 ++ s.getX k false rs2 → opcode c ≠ 0x90 →
     ¬(0xA0 ≤ opcode c ∧ opcode c ≤ 0xAF) → routeOf (opcode c) = some q →
     (∀ u, u = s.queueNow k q → u.ringLen = 0 → u.onchip.length < 64 → ∃ t, exec (.ncxIssue k false) s = .next t ∧
       t.queue k q = { u with onchip := u.onchip ++ [⟨u.issued + 1, c, 0⟩], issued := u.issued + 1 } ∧
       s.retired t k false rd (BitVec.ofNat 64 ((u.issued + 1) % 2 ^ 32)) ∧
       t = { s with slots := t.slots } ∧ (∀ j, j ≠ k.val → t.slot j = s.slot j) ∧ (t.slot k).ts = (s.slot k).ts) ∧
     (s.hasSpace k q = false →
       exec (.ncxIssue k false) s = .next (s.modSlot k (fun d => { d with istall := true })))) ∧
  (∀ (k : Fin 72) (h : Bool) (rd rs1 rs2 : Nat) (c : Cmd) (s : State), s.issues k h → rd < 32 → rs1 < 32 → rs2 < 32 →
     s.fetches k h (ncxWord rs2 rs1 0 rd) → c = s.getX k h rs1 ++ s.getX k h rs2 →
     (h = false → opcode c ≠ 0x90 → ¬(0xA0 ≤ opcode c ∧ opcode c ≤ 0xAF) → routeOf (opcode c) = none → (s.slot k).tvec ≠ 0 →
       ∃ t, exec (.ncxIssue k h) s = .next t ∧ (t.slot k).csrs.mcause = 25 ∧ (t.slot k).csrs.mepc = s.pc k false ∧
         (t.slot k).csrs.mtval = s.getX k false rs1 ∧ t.queue k .xq = s.queue k .xq ∧ t.queue k .fq = s.queue k .fq) ∧
     (h = true → opcode c ≠ 0xA1 → ∃ t, exec (.ncxIssue k h) s = .next t ∧ t.klState k = 3 ∧
       (t.slot k).ending = .stop (if opcode c = 0xA0 ∨ (opcode c = 0xA2 ∧ mcBulk c = false) then 0x0D else 0x8A) false)) ∧
  (∀ (k : Fin 72) (rd rs1 rs2 : Nat) (c : Cmd) (s : State), s.issues k false → rd < 32 → rs1 < 32 → rs2 < 32 →
     s.fetches k false (ncxWord rs2 rs1 0 rd) → c = s.getX k false rs1 ++ s.getX k false rs2 → opcode c = 0x90 →
     (∀ q, (s.queueNow k q).ringLen = 0 ∧ (s.queueNow k q).onchip.length < 64) →
     ((s.slot k).wptIssued % 2 ^ 16 + 2 ^ 16 - s.fld (Reg.WPT_STAT k) F.WPT_STAT_PASSED) % 2 ^ 16 < 32767 →
     ∃ t, exec (.wpt k false) s = .next t ∧ (t.slot k).wptIssued = (s.slot k).wptIssued + 1 ∧
       (∀ q u, u = s.queueNow k q → (t.queue k q).issued = u.issued + 1 ∧ (t.queue k q).onchip = u.onchip ++
         [⟨u.issued + 1, c, (u.wptIn + 1) % 2 ^ 16⟩]) ∧
       s.retired t k false rd (BitVec.ofNat 64 (((s.slot k).wptIssued + 1) % 2 ^ 16)) ∧
       t = { s with slots := t.slots } ∧ (∀ j, j ≠ k.val → t.slot j = s.slot j))

/-- NCX.XDONE and NCX.FDONE, in either context, give the completion count of their queue; NCX.WAITQ retires with 0 once the count has
reached the target, with 1 where the queue stops first, and stalls otherwise. NCX.THALT gives the old halt state and requests a halt or
a resume; NCX.XRES clears a queue's stop, discarding what is queued where rs1[0] is set; NCX.HRET ends the handler's run; NCX.KEND sets
ENDING with its status.
Forms shown to complete: ncxXdone, ncxFdone, ncxWaitq, ncxThalt, ncxXres, ncxHret, ncxKend. The model's readings: log entries 12, 32 and 40. -/
def Obligations.NcxCountsAndControls : Prop :=
  (∀ (k : Fin 72) (h : Bool) (rd rs1 rs2 : Nat) (s : State), s.issues k h → rd < 32 → rs1 < 32 → rs2 < 32 →
     (s.fetches k h (ncxWord rs2 rs1 1 rd) → ∃ t, exec (.ncxXdone k h) s = .next t ∧
       s.retired t k h rd (BitVec.ofNat 64 ((s.queueNow k .xq).done % 2 ^ 32)) ∧ s.onlyCtx t k h) ∧
     (s.fetches k h (ncxWord rs2 rs1 2 rd) → ∃ t, exec (.ncxFdone k h) s = .next t ∧
       s.retired t k h rd (BitVec.ofNat 64 ((s.queueNow k .fq).done % 2 ^ 32)) ∧ s.onlyCtx t k h) ∧
     (h = false → s.fetches k h (ncxWord rs2 rs1 3 rd) → ∀ q, q = (if (s.getX k h rs2).toNat % 2 = 0 then QSel.xq else QSel.fq) →
       (0 ≤ sdiff 32 ((s.queueNow k q).done % 2 ^ 32) ((s.getX k h rs1).toNat % 2 ^ 32) →
         ∃ t, exec (.ncxWaitq k h) s = .next t ∧ s.retired t k h rd 0 ∧ s.onlyCtx t k h) ∧
       (sdiff 32 ((s.queueNow k q).done % 2 ^ 32) ((s.getX k h rs1).toNat % 2 ^ 32) < 0 → s.stopped? k q = true →
         ∃ t, exec (.ncxWaitq k h) s = .next t ∧ s.retired t k h rd 1 ∧ s.onlyCtx t k h) ∧
       (sdiff 32 ((s.queueNow k q).done % 2 ^ 32) ((s.getX k h rs1).toNat % 2 ^ 32) < 0 → s.stopped? k q = false →
         exec (.ncxWaitq k h) s = .next (s.modSlot k (fun c => { c with waitq := true }))))) ∧
  (∀ (k : Fin 72) (rd rs1 rs2 : Nat) (s : State), rd < 32 → rs1 < 32 → rs2 < 32 →
     (s.issues k false → s.fetches k false (ncxWord rs2 rs1 4 rd) → ∃ t, exec (.ncxThalt k false) s = .next t ∧
       s.retired t k false rd (BitVec.ofNat 64 (s.slot k).halt.code) ∧
       t.fld (Reg.TILE_CTL k) F.TILE_CTL_HALT = (s.getX k false rs1).toNat % 2 ∧
       (bit (s.getX k false rs1).toNat 0 = true → (s.slot k).halt = .running → (t.slot k).halt = .halting) ∧
       t = { s with slots := t.slots, drs := t.drs }) ∧
     (s.issues k false → s.fetches k false (ncxWord rs2 rs1 5 rd) →
       ∀ q, q = (if (s.getX k false rs2).toNat % 2 = 0 then QSel.xq else QSel.fq) → s.stopped? k q = true →
       ∃ t, exec (.ncxXres k false) s = .next t ∧ t.stopped? k q = false ∧ s.retired t k false 0 0 ∧
         ((s.getX k false rs1).toNat % 2 = 1 → (t.queue k q).onchip = [] ∧ (t.queue k q).ringLen = 0) ∧
         ((s.getX k false rs1).toNat % 2 = 0 → t.queue k q = s.queue k q) ∧ t = { s with slots := t.slots, drs := t.drs }) ∧
     (s.issues k true → s.fetches k true (ncxWord rs2 rs1 6 rd) → ∃ t, exec (.ncxHret k true) s = .next t ∧
       (t.slot k).hrun = false ∧ t.pc k true = s.pc k true + 4 ∧ (∀ r, t.getX k true r = s.getX k true r) ∧
       t = { s with slots := t.slots }) ∧
     (s.issues k false → s.fetches k false (ncxWord rs2 rs1 7 rd) → ∃ t, exec (.ncxKend k false) s = .next t ∧
       t.klState k = 3 ∧ (t.slot k).ending = .kend (kendStatus (s.getX k false rs1).toNat) ∧ s.retired t k false 0 0 ∧
       t = { s with slots := t.slots, drs := t.drs }))

/-- The handler is dispatched for the lowest pending channel: it runs from HVEC with the channel in a0, the message's address in a1 and its
descriptor in a2, and the channel is no longer pending. A queue with room, entries that its engine passes counted as gone, refills from
its spill ring: the first words of the ring,
eight at most, come on chip in order with the tickets they were issued with, and leave the ring. An accepted command completes: it is
done, the in-order count goes over every finished command at the front, and its elements are added to VE_ELEM. The first pass marker in
ticket order passes, for a WPT without DONE when no earlier command waits to make its effect, for one with DONE when every earlier command
has completed: WPT_STAT.PASSED takes its number.
Forms shown to complete: handlerDispatch, spillRefill, commandComplete, passMarker. The model's readings: log entries 10 and 32. -/
def Obligations.QueuesProgress : Prop :=
  (∀ (k : Fin 72) (ch addr : Nat) (more : Sparse Nat) (s : State), s.stopped = false → s.closed k = false →
     s.reliefStop k = false → (s.slot k).ending = .no → s.klState k = 2 → (s.slot k).hrun = false → (s.slot k).hvec ≠ 0 →
     (s.slot k).hpend = (ch, addr) :: more → (∀ p ∈ more, p.1 ≠ ch) →
     ∃ t, exec (.handlerDispatch k) s = .next t ∧ (t.slot k).hrun = true ∧ (t.slot k).hpend = more ∧
       t.pc k true = BitVec.ofNat 64 (s.slot k).hvec ∧ t.getX k true 10 = BitVec.ofNat 64 ch ∧
       t.getX k true 11 = BitVec.ofNat 64 addr ∧ t.getX k true 12 = BitVec.ofNat 64 (s.tsLE k addr 8) ∧
       (∀ r, r ≠ 10 → r ≠ 11 → r ≠ 12 → t.getX k true r = s.getX k true r) ∧ (t.slot k).main = (s.slot k).main ∧
       t = { s with slots := t.slots } ∧ (∀ j, j ≠ k.val → t.slot j = s.slot j)) ∧
  (∀ (k : Fin 72) (fq : Bool) (s : State), s.stopped = false → 2 ≤ s.klState k → (s.queueNow k (qOf fq)).onchip.length ≤ 56 →
     0 < (s.queueNow k (qOf fq)).ringLen →
     ∃ t, exec (.spillRefill k fq) s = .next t ∧
       (t.queue k (qOf fq)).ringLen = (s.queueNow k (qOf fq)).ringLen - min 8 (s.queueNow k (qOf fq)).ringLen ∧
       (t.queue k (qOf fq)).onchip.map (fun e => (e.ticket, e.word)) =
         (s.queueNow k (qOf fq)).onchip.map (fun e => (e.ticket, e.word)) ++
         (List.range (min 8 (s.queueNow k (qOf fq)).ringLen)).map (fun i =>
           ((s.queueNow k (qOf fq)).issued - (s.queueNow k (qOf fq)).ringLen + 1 + i,
             BitVec.ofNat 128 (s.tsLE k ((s.slot k).spillBase (qOf fq) + 16 *
               (((s.queueNow k (qOf fq)).ringHead + i) % spillCap ((s.slot k).spillCode (qOf fq)))) 16))) ∧
       (t.queue k (qOf fq)).issued = (s.queueNow k (qOf fq)).issued ∧ t = { s with slots := t.slots } ∧
       (∀ j, j ≠ k.val → t.slot j = s.slot j)) ∧
  (∀ (k : Fin 72) (fq : Bool) (ticket n : Nat) (e : Entry) (s : State), s.stopped = false →
     (s.queue k (qOf fq)).inflight.find? (fun x => x.entry.ticket == ticket) = some ⟨e, .working n⟩ →
     (s.rd (Reg.VE_ELEM k)).toNat + n < 2 ^ 64 →
     ∃ t, exec (.commandComplete k fq ticket) s = .next t ∧
       t.queue k (qOf fq) = (s.queue k (qOf fq)).setPhase ticket .done ∧
       (t.rd (Reg.VE_ELEM k)).toNat = (s.rd (Reg.VE_ELEM k)).toNat + n ∧ (∀ o, o ≠ Reg.VE_ELEM k → t.rd o = s.rd o) ∧
       t = { s with slots := t.slots, drs := t.drs } ∧ (∀ j, j ≠ k.val → t.slot j = s.slot j)) ∧
  (∀ (k : Fin 72) (e : Entry) (w : Nat) (u : Queue) (s : State), s.stopped = false → w < 2 ^ 16 →
     u = (if s.accepting k .xq then s.view k .xq else s.queue k .xq) → u.firstMarker = some (e, w) →
     (∀ f ∈ u.inflight, f.entry.ticket < e.ticket → f.phase = .done ∨ (cb e.word 119 = false ∧ f.phase ≠ .waiting)) →
     ∃ t, exec (.passMarker k) s = .next t ∧ t.fld (Reg.WPT_STAT k) F.WPT_STAT_PASSED = w ∧
       t.queue k .xq = u.setPhase e.ticket .done ∧ (∀ o, o ≠ Reg.WPT_STAT k → t.rd o = s.rd o) ∧
       t = { s with slots := t.slots, drs := t.drs })

/-! ## Launch, end and halt (05 R125 to R135, 06 R166, 07 R190 to R195) -/

/-- KL_CTL.GO on a slot bound to a logical core: a failing check sets STATUS and changes nothing else; else the record is taken, the tile
state, the vector registers, NUM_STAT and the scouts are cleared and the kernel is STARTING. A STARTING kernel starts: instruction
memory holds the image, pc, stack pointers and a0 are those of the record, both queues are empty with their counts at 0, no stop is
left, the sector cache of its sector holds no line of its fleet, and the kernel is RUNNING.
Forms shown to complete: go, kernelStart. The model's readings: log entries 6, 27 and 39. -/
def Obligations.KernelsStart : Prop :=
  (∀ (k : Fin 72) (id : Nat) (s : State), s.stopped = false → s.reach (Reg.KL_CTL k) = .ok → s.coreOf k = some id →
     (∀ st, s.launchCheck k id { s.slot k with kl := (List.range 8).map (fun n => s.rd (Reg.KL_REC k n)) } = some st →
       exec (.go k) s = .next (s.setFld (Reg.KL_STAT k) F.KL_STAT_STATUS st)) ∧
     (s.launchCheck k id { s.slot k with kl := (List.range 8).map (fun n => s.rd (Reg.KL_REC k n)) } = none →
       ∃ t, exec (.go k) s = .next t ∧ t.klState k = 1 ∧ t.fld (Reg.KL_STAT k) F.KL_STAT_STATUS = 0 ∧
         (t.slot k).kl = (List.range 8).map (fun n => s.rd (Reg.KL_REC k n)) ∧ t.rd (Reg.NUM_STAT k) = 0 ∧
         t.fld (Reg.SCOUT0 k) F.SCOUT0_MAX = 0 ∧ t.fld (Reg.SCOUT1 k) F.SCOUT1_MAX = 0 ∧ (t.slot k).acc0 = [] ∧
         (t.slot k).acc1 = [] ∧ (t.slot k).ofBytes = [] ∧ (t.slot k).v = [] ∧ (t.slot k).layout = 0 ∧
         (t.slot k).ts = (s.slot k).ts ∧ (t.slot k).kser = (s.slot k).kser + 1 ∧
         t = { s with slots := t.slots, drs := t.drs } ∧ (∀ j, j ≠ k.val → t.slot j = s.slot j))) ∧
  (∀ (k : Fin 72) (s : State), s.stopped = false → s.klState k = 1 → (s.slot k).ending = .no → s.closed k = false →
     s.reliefStop k = false → s.passages = [] →
     ∃ t, exec (.kernelStart k) s = .next t ∧ t.klState k = 2 ∧
       t.pc k false = BitVec.ofNat 64 ((s.slot k).klField 24 4) ∧ t.getX k false 2 = BitVec.ofNat 64 ((s.slot k).klField 36 4) ∧
       t.getX k false 10 = BitVec.ofNat 64 ((s.slot k).klField 52 4) ∧ t.getX k true 2 = BitVec.ofNat 64 ((s.slot k).klField 40 4) ∧
       (∀ r, r ≠ 2 → r ≠ 10 → t.getX k false r = 0) ∧ (∀ r, r ≠ 2 → t.getX k true r = 0) ∧
       (∀ i, i < (s.slot k).klField 20 4 → [sget zeroByte (t.slot k).imem i] = s.tsRead k ((s.slot k).klField 16 4 + i) 1) ∧
       t.queue k .xq = Queue.empty ∧ t.queue k .fq = Queue.empty ∧ t.stopped? k .xq = false ∧ t.stopped? k .fq = false ∧
       (∀ i l, l ∈ tget [] (t.sector (k / 9)).cache i → l.fleet ≠ (s.slot k).fleet) ∧
       t.rd (Reg.WPT_STAT k) = 0 ∧ t.rd (Reg.CC_TIMECMP k) = 0xFFFFFFFFFFFFFFFF ∧ t.fld (Reg.CC_CTL k) F.CC_CTL_SWI = 0 ∧
       (t.slot k).ts = (s.slot k).ts ∧ (∀ j, j ≠ k.val → t.slot j = s.slot j))

/-- A kernel that ends by KEND commits once both queues and spill rings are empty, its streams are over with every write made and its
handler is idle; one that ends as an abort does commits once its tile has halted and no save or restore runs. KL_DONE holds the time, STATUS the status, the state is IDLE, and the
kernel-done alert is raised. KL_CTL.ABORT of a kernel that is not ending as one: it is ENDING with 0x02, its tile halts, both queues
lose what is not accepted, its sends are discarded and its contexts do not stall; with no kernel it only sets ABORT_RESULT to 1.
Forms shown to complete: kernelCommit, abort. The model's readings: log entries 10, 14 and 40. -/
def Obligations.KernelsEnd : Prop :=
  (∀ (k : Fin 72) (st : Nat) (s : State), s.stopped = false → st < 256 → s.passages = [] →
     ((s.slot k).ending = .kend st ∧ s.quiet k = true ∨
       (∃ ab, (s.slot k).ending = .stop st ab) ∧ (s.slot k).halt = .halted ∧ s.fld (Reg.TILE_STAT k) F.TILE_STAT_SR_STATE = 0 ∧
         s.fld (Reg.VR_SAVE k) F.VR_SAVE_STATE = 0) →
     ∃ t, exec (.kernelCommit k) s = .next t ∧ t.klState k = 0 ∧ t.fld (Reg.KL_STAT k) F.KL_STAT_STATUS = st ∧
       t.rd (Reg.KL_DONE k) = BitVec.ofNat 64 s.time ∧ (t.slot k).ending = .no ∧ (t.slot k).ts = (s.slot k).ts ∧
       bit (t.fld Reg.AL_STAT F.AL_STAT_CLASS) 0 = true ∧ t.em = s.em ∧ (∀ j, j ≠ k.val → t.slot j = s.slot j)) ∧
  (∀ (k : Fin 72) (s : State), s.stopped = false → s.reach (Reg.KL_CTL k) = .ok →
     (s.klState k = 0 → exec (.abort k) s = .next (s.setFld (Reg.KL_STAT k) F.KL_STAT_ABORT_RESULT 1)) ∧
     (s.klState k ≠ 0 → (∀ st ab, (s.slot k).ending ≠ .stop st ab) → ∃ t, exec (.abort k) s = .next t ∧ t.klState k = 3 ∧
       (t.slot k).ending = .stop 0x02 true ∧ (t.slot k).haltByKernel = true ∧ (t.slot k).halt ≠ .running ∧
       (∀ q, (t.queue k q).onchip = [] ∧ (t.queue k q).ringLen = 0) ∧ (t.slot k).sendM = [] ∧ (t.slot k).sendH = [] ∧
       (t.slot k).istall = false ∧ (t.slot k).waitq = false ∧ (t.slot k).ts = (s.slot k).ts ∧
       (∀ j, j ≠ k.val → t.slot j = s.slot j)))

/-- TILE_CTL.HALT written 1 starts a halt of a running tile, the commands at the front of its queue having been accepted (the model's
choice: log entry 40); written 0 it resumes the tile, unless the kernel is ending or a save or
restore runs. The halt completes once no REL waits for its signal's acknowledgement: the tile is halted, and with nothing in flight its
slot is as it was but for the scouts' groups in progress, which end. A save or restore asked for is refused with the first status that
applies: BUSY, SHAPE, PERM_FAULT, then a tile that is not halted. A save of a halted tile writes the save area, its header, the groups
of the operand file and the sets that it names, and is in progress; a restore from an area with a good header reloads
layout, active set, the marks of use, NUM_STAT, the scouts, the operand file and the accumulators from it, what the area does not hold
being zero; each ends with SR_STATUS 0, and then a resume written meanwhile
takes effect. The vector registers of a sector's lead slot, halted, are written to the Tile Store by a save and read from it by a
restore; the operation ends with STATUS 0. Another slot is refused with 0x89.
Forms shown to complete: halt, haltComplete, save, restore, saveRestoreDone, vrRegSave, vrRegRestore, vrSaveDone.
The model's readings: log entries 27, 31, 39 and 40. -/
def Obligations.TileHaltsAndSaves : Prop :=
  (∀ (k : Fin 72) (s : State), s.stopped = false →
     (s.reach (Reg.TILE_CTL k) = .ok →
       (∃ t n, exec (.halt k true) s = .next t ∧ t.fld (Reg.TILE_CTL k) F.TILE_CTL_HALT = 1 ∧
         t.slot k = { s.slot k with
           halt := if (s.slot k).halt = .running then HaltPhase.halting else (s.slot k).halt
           begun := (t.slot k).begun
           xq := (t.slot k).xq
           ofUse := (t.slot k).ofUse } ∧
         (t.queue k .xq).onchip = (s.queue k .xq).onchip.drop n ∧
         ((s.slot k).halt ≠ .running → t.slot k = s.slot k) ∧
         ((s.slot k).halt = .running → s.accepting k .xq = false ∨ s.headOf k .xq = none → t.queue k .xq = s.queueNow k .xq) ∧
         t = { s with slots := t.slots, drs := t.drs } ∧ (∀ o, o ≠ Reg.TILE_CTL k → t.rd o = s.rd o)) ∧
       (∃ t, exec (.halt k false) s = .next t ∧ t.fld (Reg.TILE_CTL k) F.TILE_CTL_HALT = 0 ∧
         t.slot k = { s.slot k with halt :=
           if (s.slot k).haltByKernel ∨ s.fld (Reg.TILE_STAT k) F.TILE_STAT_SR_STATE ≠ 0 then (s.slot k).halt else HaltPhase.running } ∧
         t = { s with slots := t.slots, drs := t.drs } ∧ (∀ o, o ≠ Reg.TILE_CTL k → t.rd o = s.rd o))) ∧
     (∀ ps, (s.slot k).halt = .halting → (s.queue k .xq).inflight.any (fun e => e.phase == .relSent 0) = false →
       ∃ t, exec (.haltComplete k ps) s = .next t ∧ (t.slot k).halt = .halted) ∧
     ((s.slot k).halt = .halting → (s.queue k .xq).inflight = [] → (s.slot k).notes = [] →
       ∃ t, exec (.haltComplete k []) s = .next t ∧
         t.slot k = { s.slot k with
           halt := .halted
           tails0 := []
           tails1 := []
           tailBy := []
           begun := [] } ∧
         t = { s with slots := t.slots } ∧ (∀ j, j ≠ k.val → t.slot j = s.slot j))) ∧
  (∀ (k : Fin 72) (s : State), s.stopped = false → s.reach (Reg.TILE_CTL k) = .ok →
     ∀ st, (st = 0x87 ∧ s.fld (Reg.TILE_STAT k) F.TILE_STAT_SR_STATE ≠ 0 ∨
         st = 0x82 ∧ s.fld (Reg.TILE_STAT k) F.TILE_STAT_SR_STATE = 0 ∧ s.fld (Reg.TILE_SAVE k) F.TILE_SAVE_ADDR % 128 ≠ 0 ∨
         st = 0x04 ∧ s.fld (Reg.TILE_STAT k) F.TILE_STAT_SR_STATE = 0 ∧ s.fld (Reg.TILE_SAVE k) F.TILE_SAVE_ADDR % 128 = 0 ∧
           0x800000 < s.fld (Reg.TILE_SAVE k) F.TILE_SAVE_ADDR + 0x41100 ∨
         st = 0x85 ∧ s.fld (Reg.TILE_STAT k) F.TILE_STAT_SR_STATE = 0 ∧ s.fld (Reg.TILE_SAVE k) F.TILE_SAVE_ADDR % 128 = 0 ∧
           s.fld (Reg.TILE_SAVE k) F.TILE_SAVE_ADDR + 0x41100 ≤ 0x800000 ∧ (s.slot k).halt ≠ .halted) →
       exec (.save k .none) s = .next (s.setFld (Reg.TILE_STAT k) F.TILE_STAT_SR_STATUS st) ∧
       exec (.restore k) s = .next (s.setFld (Reg.TILE_STAT k) F.TILE_STAT_SR_STATUS st)) ∧
  (∀ (k : Fin 72) (s : State), s.stopped = false →
     (∀ a, a = s.fld (Reg.TILE_SAVE k) F.TILE_SAVE_ADDR → s.reach (Reg.TILE_CTL k) = .ok → a % 128 = 0 → a + 0x41100 ≤ 0x800000 →
       s.fld (Reg.TILE_STAT k) F.TILE_STAT_SR_STATE = 0 → (s.slot k).halt = .halted →
       (∃ t, exec (.save k .none) s = .next t ∧ t.fld (Reg.TILE_STAT k) F.TILE_STAT_SR_STATE = 1 ∧
         t.tsRead k a 256 = s.saveHeader k (s.flag (Reg.TILE_CTL k) F.TILE_CTL_FULL_SAVE || (s.slot k).firstFull) ∧
         (∀ full, full = (s.flag (Reg.TILE_CTL k) F.TILE_CTL_FULL_SAVE || (s.slot k).firstFull) →
           (∀ g, g < 64 → (s.slot k).savesGroup full g = true →
             t.tsRead k (a + 0x100 + 0x800 * g) 2048 = readBytes zeroByte (s.slot k).ofBytes (2048 * g) 2048) ∧
           (∀ i j, i < 128 → j < 128 →
             (full = true ∨ (s.slot k).acc0Use = true →
               t.rawCell k (a + 0x20100) 512 fullRegion i j = sget zeroCell (s.slot k).acc0 (cellKey i j)) ∧
             (full = true ∨ (s.slot k).acc1Use = true →
               t.rawCell k (a + 0x30900) 512 fullRegion i j = sget zeroCell (s.slot k).acc1 (cellKey i j)))) ∧
         (∀ b, b < a ∨ a + 0x41100 ≤ b → t.tsRead k b 1 = s.tsRead k b 1) ∧ (t.slot k).ofBytes = (s.slot k).ofBytes ∧
         (t.slot k).acc0 = (s.slot k).acc0 ∧ (t.slot k).acc1 = (s.slot k).acc1 ∧ t.em = s.em ∧
         (∀ j, j ≠ k.val → t.slot j = s.slot j)) ∧
       (headerOk s.dn16 (s.tsRead k a 256) = true → ∃ t, exec (.restore k) s = .next t ∧
         t.fld (Reg.TILE_STAT k) F.TILE_STAT_SR_STATE = 2 ∧ (t.slot k).layout = s.tsLE k (a + 2) 1 ∧
         (t.slot k).active = bit (s.tsLE k (a + 3) 1) 0 ∧ (t.slot k).ofUse = BitVec.ofNat 64 (s.tsLE k (a + 8) 8) ∧
         t.fld (Reg.SCOUT0 k) F.SCOUT0_MAX = s.tsLE k (a + 32) 4 % 2 ^ 31 ∧
         t.fld (Reg.SCOUT1 k) F.SCOUT1_MAX = s.tsLE k (a + 36) 4 % 2 ^ 31 ∧
         (∀ f ∈ [F.NUM_STAT_NF, F.NUM_STAT_NF_SRC, F.NUM_STAT_NF_POS, F.NUM_STAT_WRAP, F.NUM_STAT_WRAP_SRC, F.NUM_STAT_WRAP_POS,
             F.NUM_STAT_RNG, F.NUM_STAT_RNG_SRC, F.NUM_STAT_RNG_POS],
           t.fld (Reg.NUM_STAT k) f = getF (BitVec.ofNat 64 (s.tsLE k (a + 24) 8)) f) ∧
         (∀ g, g < 64 → readBytes zeroByte (t.slot k).ofBytes (2048 * g) 2048 =
           if bit (s.tsLE k (a + 16) 8) g then s.tsRead k (a + 0x100 + 0x800 * g) 2048 else List.replicate 2048 0) ∧
         (t.slot k).ofBad = [] ∧ (t.slot k).acc0Use = bit (s.tsLE k (a + 3) 1) 2 ∧ (t.slot k).acc1Use = bit (s.tsLE k (a + 3) 1) 3 ∧
         (∀ i j, i < 128 → j < 128 →
           sget zeroCell (t.slot k).acc0 (cellKey i j) =
             (if bit (s.tsLE k (a + 3) 1) 4 then s.rawCell k (a + 0x20100) 512 fullRegion i j else 0) ∧
           sget zeroCell (t.slot k).acc1 (cellKey i j) =
             (if bit (s.tsLE k (a + 3) 1) 5 then s.rawCell k (a + 0x30900) 512 fullRegion i j else 0)) ∧ (t.slot k).ts = (s.slot k).ts ∧
         t = { s with slots := t.slots, drs := t.drs } ∧ (∀ j, j ≠ k.val → t.slot j = s.slot j))) ∧
     (s.fld (Reg.TILE_STAT k) F.TILE_STAT_SR_STATE ≠ 0 → ∃ t, exec (.saveRestoreDone k) s = .next t ∧
       t.fld (Reg.TILE_STAT k) F.TILE_STAT_SR_STATE = 0 ∧ t.fld (Reg.TILE_STAT k) F.TILE_STAT_SR_STATUS = 0 ∧
       t.slot k = { s.slot k with halt :=
         if ((s.flag (Reg.TILE_CTL k) F.TILE_CTL_HALT || (s.slot k).haltByKernel) = true) then (s.slot k).halt else HaltPhase.running } ∧
       (∀ o, o ≠ Reg.TILE_STAT k → t.rd o = s.rd o) ∧ t = { s with slots := t.slots, drs := t.drs })) ∧
  (∀ (k : Fin 72) (a : Nat) (s : State), s.stopped = false → a = s.fld (Reg.VR_SAVE k) F.VR_SAVE_ADDR →
     (s.reach (Reg.VR_SAVE k) = .ok → s.isLead k = true → s.fld (Reg.VR_SAVE k) F.VR_SAVE_STATE = 0 → a % 128 = 0 →
       a + 16384 ≤ 0x800000 → (s.slot k).halt = .halted →
       (∃ t, exec (.vrRegSave k .none) s = .next t ∧ t.fld (Reg.VR_SAVE k) F.VR_SAVE_STATE = 1 ∧
         t.tsRead k a 16384 = readBytes zeroByte (s.slot k).v 0 16384 ∧ (t.slot k).v = (s.slot k).v ∧
         (∀ b, b < a ∨ a + 16384 ≤ b → t.tsRead k b 1 = s.tsRead k b 1) ∧ (∀ j, j ≠ k.val → t.slot j = s.slot j)) ∧
       (∃ t, exec (.vrRegRestore k) s = .next t ∧ t.fld (Reg.VR_SAVE k) F.VR_SAVE_STATE = 2 ∧
         readBytes zeroByte (t.slot k).v 0 16384 = s.tsRead k a 16384 ∧ (t.slot k).ts = (s.slot k).ts ∧
         t = { s with slots := t.slots, drs := t.drs } ∧ (∀ j, j ≠ k.val → t.slot j = s.slot j))) ∧
     (s.reach (Reg.VR_SAVE k) = .ok → s.isLead k = false →
       exec (.vrRegSave k .none) s = .next (s.setFld (Reg.VR_SAVE k) F.VR_SAVE_STATUS 0x89) ∧
       exec (.vrRegRestore k) s = .next (s.setFld (Reg.VR_SAVE k) F.VR_SAVE_STATUS 0x89)) ∧
     (s.fld (Reg.VR_SAVE k) F.VR_SAVE_STATE ≠ 0 →
       ∃ t, exec (.vrSaveDone k) s = .next t ∧ t.fld (Reg.VR_SAVE k) F.VR_SAVE_STATE = 0 ∧
         t.fld (Reg.VR_SAVE k) F.VR_SAVE_STATUS = 0 ∧ (∀ o, o ≠ Reg.VR_SAVE k → t.rd o = s.rd o) ∧ t = { s with drs := t.drs }))

/-! ## The execute engine: array, operand file, vector engine (03 to 06) -/

/-- MOP and MOPZ that pass their checks, at the head of the queue or having waited: each cell of the region in the active set is the old
value, or zero for MOPZ, with the products added step by step; every other cell, the shadow set, the Tile Store, the operand file and
the other slots are as before; the command is in progress. ASW exchanges the sets and ALAY sets the layout, touching no cell. ASW and
ALAY wait for every MOP and MOPZ that is not complete, a MOP for an earlier one of its region and for every ASW and ALAY: such a command
makes no effect while one of them is in flight.
Forms shown to complete: mopz, mop, asw, alay. The model's readings: log entries 10, 33, 36 and 49. -/
def Obligations.ArrayProducts : Prop :=
  (∀ (k : Fin 72) (e : Entry) (after : Nat → Queue) (s : State), s.stopped = false → s.starts k e after →
    (∀ (zero : Bool) (reg : Region), opcode e.word = (if zero then 0x20 else 0x21) →
      mopCheck (s.slot k).layout (decodeMop e.word) = none →
      regionOf (s.slot k).layout (decodeMop e.word).region = some reg →
      ∃ t, exec (if zero then .mopz k .none else .mop k .none) s = .next t ∧
      (∀ i j, i < reg.h → j < reg.w → sget zeroCell (t.slot k).activeSet (cellKey (reg.row + i) (reg.col + j)) =
        (mopTerms k (s.slot k) (decodeMop e.word) i j).foldl (addCell s.dn16)
          (if zero then 0 else sget zeroCell (s.slot k).activeSet (cellKey (reg.row + i) (reg.col + j)))) ∧
      (∀ c, (∀ i j, i < reg.h → j < reg.w → c ≠ cellKey (reg.row + i) (reg.col + j)) →
        sget zeroCell (t.slot k).activeSet c = sget zeroCell (s.slot k).activeSet c) ∧
      (t.slot k).shadowSet = (s.slot k).shadowSet ∧ (t.slot k).ts = (s.slot k).ts ∧ (t.slot k).ofBytes = (s.slot k).ofBytes ∧
      t.queue k .xq = after 0 ∧ (∀ j, j ≠ k.val → t.slot j = s.slot j) ∧ t.em = s.em) ∧
    (opcode e.word = 0x24 → ∃ t, exec (.asw k) s = .next t ∧ (t.slot k).active = !(s.slot k).active ∧
      t.slot k = { s.slot k with
        active := (t.slot k).active
        xq := after 0 } ∧ t = { s with slots := t.slots } ∧ (∀ j, j ≠ k.val → t.slot j = s.slot j)) ∧
    (opcode e.word = 0x26 → cf e.word 119 118 ≠ 3 → (cf e.word 119 118 = 2 → s.dn16 = false) →
      ∃ t, exec (.alay k) s = .next t ∧ (t.slot k).layout = cf e.word 119 118 ∧
      t.slot k = { s.slot k with
        layout := (t.slot k).layout
        xq := after 0 } ∧ t = { s with slots := t.slots } ∧ (∀ j, j ≠ k.val → t.slot j = s.slot j))) ∧
  (∀ (k : Nat) (e f : Entry) (p : Phase) (s : State), ⟨f, p⟩ ∈ (s.queue k .xq).inflight → p ≠ .done → f.ticket < e.ticket →
    (opcode e.word = 0x24 ∨ opcode e.word = 0x26) ∧ (opcode f.word = 0x20 ∨ opcode f.word = 0x21 ∨ opcode f.word = 0x24 ∨ opcode f.word = 0x26) ∨
    (opcode e.word = 0x20 ∨ opcode e.word = 0x21) ∧ (opcode f.word = 0x24 ∨ opcode f.word = 0x26 ∨
      (opcode f.word = 0x20 ∨ opcode f.word = 0x21) ∧ (decodeMop e.word).region = (decodeMop f.word).region) →
    s.mayRun k e = false)

/-- LDL that passes its checks fills its destination lines from the Tile Store, in order or transposed, and leaves every other byte of the
operand file; LFREE zeroes the named groups and sets and clears their marks of use. DRN that passes its checks, in each of its modes:
DRAIN and KEEP write the region of the shadow set, converted or RAW, FILL loads it, CLEAR zeroes it; DRAIN and CLEAR leave the region
zero; each stands at the head of the queue or has waited, and the command is in progress.
Forms shown to complete: ldl, drn, lfree. The model's readings: log entries 10 and 36. -/
def Obligations.OperandFileAndDrains : Prop :=
  (∀ (k : Fin 72) (e : Entry) (after : Nat → Queue) (s : State), s.stopped = false → s.starts k e after →
     (∀ l, l = decodeLdl e.word → opcode e.word = 0x10 → ldlCheck l = none → ∃ t, exec (.ldl k .none) s = .next t ∧
       (∀ i b, i < l.count → b < 128 →
         sget zeroByte (t.slot k).ofBytes (128 * (l.dst + i) + b) = (s.ldlLine k l i).getD b 0) ∧
       (∀ a, a < 128 * l.dst ∨ 128 * (l.dst + l.count) ≤ a →
         sget zeroByte (t.slot k).ofBytes a = sget zeroByte (s.slot k).ofBytes a) ∧
       (∀ i, i < l.count → bit (t.slot k).ofUse.toNat ((l.dst + i) / 16) = true) ∧
       t.queue k .xq = after 0 ∧ (t.slot k).ts = (s.slot k).ts ∧ (t.slot k).acc0 = (s.slot k).acc0 ∧
       (t.slot k).acc1 = (s.slot k).acc1 ∧ t = { s with slots := t.slots } ∧ (∀ j, j ≠ k.val → t.slot j = s.slot j)) ∧
     (opcode e.word = 0x27 → ∃ t, exec (.lfree k) s = .next t ∧
       (∀ a, sget zeroByte (t.slot k).ofBytes a =
         if bit (cf e.word 117 54) (a / 2048) then 0 else sget zeroByte (s.slot k).ofBytes a) ∧
       (∀ g, g < 64 → bit (t.slot k).ofUse.toNat g = (!bit (cf e.word 117 54) g && bit (s.slot k).ofUse.toNat g)) ∧
       (t.slot k).acc0Use = (!cb e.word 118 && (s.slot k).acc0Use) ∧ (t.slot k).acc1Use = (!cb e.word 119 && (s.slot k).acc1Use) ∧
       (∀ l, bit (cf e.word 117 54) (l / 16) = true → l ∉ (t.slot k).ofBad) ∧
       (t.slot k).acc0 = (if cb e.word 118 then [] else (s.slot k).acc0) ∧
       (t.slot k).acc1 = (if cb e.word 119 then [] else (s.slot k).acc1) ∧
       t.queue k .xq = after 0 ∧ (t.slot k).ts = (s.slot k).ts ∧ t = { s with slots := t.slots } ∧
       (∀ j, j ≠ k.val → t.slot j = s.slot j))) ∧
  (∀ (k : Fin 72) (e : Entry) (after : Nat → Queue) (d : DrnWord) (reg : Region) (s : State), s.stopped = false →
     s.starts k e after → opcode e.word = 0x25 → d = decodeDrn e.word → drnCheck (s.slot k).layout d = none →
     drnRegion (s.slot k).layout d = some reg →
     (d.mode = 3 → exec (.drn k .none) s = .next (s.leaves ((s.modSlot k (fun c => c.drained d reg)).setQueue k .xq (after 0)))) ∧
     (d.mode = 2 → ∃ t, exec (.drn k .none) s = .next t ∧
       (∀ i j, i < reg.h → j < reg.w → sget zeroCell (t.slot k).shadowSet (cellKey (reg.row + i) (reg.col + j)) =
         s.rawCell k d.dst d.stride reg i j) ∧ (t.slot k).activeSet = (s.slot k).activeSet ∧
       t.queue k .xq = after 0 ∧ (t.slot k).ts = (s.slot k).ts ∧ t = { s with slots := t.slots }) ∧
     (d.mode < 2 → d.fmt = 6 → exec (.drn k .none) s = .next (s.leaves
       ((if d.mode = 0 then (s.writeRaw k d.dst d.stride reg (s.slot k).shadowSet).modSlot k (fun c => c.drained d reg)
         else s.writeRaw k d.dst d.stride reg (s.slot k).shadowSet).setQueue k .xq (after 0)))) ∧
     (d.mode < 2 → d.fmt ≠ 6 → blkCheck d.readsBlock (s.drnParams k d).block = none →
       exec (.drn k .none) s = .next (s.leaves (((s.drnConvert k d reg (s.drnParams k d)).setQueue k .xq (after 0)).inProgress s k e))) ∧
     (∀ c : Slot, ∀ i j, i < reg.h → j < reg.w →
       sget zeroCell (c.drained d reg).shadowSet (cellKey (reg.row + i) (reg.col + j)) = 0))

/-- The stream and register forms of each vector operation, with the number of the operation. Integer results of the stream operations,
written to the Tile Store element by element: ADD, SUB, MUL, FMA, MIN, MAX, ABS, NEG, SEL and MOV on INT8 to INT64 leave at element `i`
of the destination the operation of elements `i` of the operands, and every byte outside the destination as it was. While an earlier
command that may raise conditions waits, NUM_STAT keeps what it holds, and the conditions a later one raised are recorded afterwards.
Forms shown to complete: vsAdd, vsSub, vsMul, vsFma, vsMin, vsMax, vsAbs, vsNeg, vsDiv, vsSqrt, vsExp2, vsLog2, vsCmp, vsSel, vsLogic,
vsCvt, vsCompress, vsExpand, vsRed, vsLacc, vsLrnd, vsMov, vsSlice, vsRecomb, vsSumat, vrAdd, vrSub, vrMul, vrFma, vrMin, vrMax, vrAbs,
vrNeg, vrDiv, vrSqrt, vrExp2, vrLog2, vrCmp, vrSel, vrLogic, vrCvt, vrCompress, vrExpand, vrRed, vrLacc, vrLrnd, vrMov, vrSlice, vrRecomb,
vrLd, vrSt. The model's readings: log entries 10, 36 and 39. -/
def Obligations.VectorCommandsRun : Prop :=
  (∀ (k : Fin 72) (e : Entry) (after : Nat → Queue) (s : State), s.stopped = false → s.starts k e after →
     (∀ x ∈ vsCommands, opcode e.word = x.2 → ∀ v res, v = decodeVS e.word → vsCheck (s.sumAt k v) v = none →
       res = idxSeen v (vResult s.dn16 v (s.vsElems k v)) →
       exec (x.1 k .none) s = .next (s.leaves ((((s.vsWrite k v res).vNote k v res.seen).setQueue k .xq (after v.n)).inProgress s k e))) ∧
     (∀ x ∈ vrCommands, opcode e.word = x.2 → vrCheck (s.isLead k) (decodeVR e.word) = none → ∀ v res, v = decodeVR e.word →
       res = idxSeen v (vResult s.dn16 v (s.vrElems k v)) →
       exec (x.1 k .none) s = .next (s.leaves ((((s.vrWrite k v res).vNote k v res.seen).setQueue k .xq (after v.n)).inProgress s k e))) ∧
     (∀ x ∈ [(Instr.vsSlice, 0x58), (Instr.vrSlice, 0x78)], opcode e.word = x.2 → descCheck (s.isLead k) e.word = none →
       ∀ d, d = decodeSlice (s.descOf k e.word) → sliceCheck (cf e.word 95 73) d = none →
       exec (x.1 k .none) s = .next (s.leaves ((((s.tsWrite k d.dst (sliceImage d (s.sliceLanes k d).1 (s.sliceLanes k d).2)).descNote k
         e.word (sliceSeen (s.sliceLanes k d).2) d.sumEn d.sumAddr).setQueue k .xq (after (d.l * d.k))).inProgress s k e))) ∧
     (∀ x ∈ [(Instr.vsRecomb, 0x59), (Instr.vrRecomb, 0x79)], opcode e.word = x.2 → descCheck (s.isLead k) e.word = none →
       ∀ d u, d = decodeRecomb (s.descOf k e.word) → recombCheck (cf e.word 95 73) d = none →
       u = s.tsWrite k d.out.1 (s.recombAll k d 16384).1.flatten →
       exec (x.1 k .none) s = .next (s.leaves
         (((if d.accOut then u else u.descNote k e.word (s.recombAll k d 16384).2 d.sumEn d.sumAddr).setQueue k .xq
           (after 16384)).inProgress s k e))) ∧
     (opcode e.word = 0x5A → ∃ t, exec (.vsSumat k) s = .next t ∧ t.fld (Reg.VE_SUM k) F.VE_SUM_ADDR = cf e.word 95 73 / 16 ∧
       t.queue k .xq = after 0 ∧ (∀ o, o ≠ Reg.VE_SUM k → t.rd o = s.rd o) ∧ t = { s with slots := t.slots, drs := t.drs }) ∧
     (opcode e.word = 0x7C → vrMemCheck (s.isLead k) false (decodeVR e.word) = none → ∀ v, v = decodeVR e.word → v.sum = false →
       ∃ t, exec (.vrLd k .none) s = .next t ∧ (∀ i, i < v.n → (t.slot k).vElem v.dst (etBits v.et) i =
         s.tsLE k (v.addr + i * v.stride) (etBits v.et / 8)) ∧ t.queue k .xq = after v.n ∧
         (t.slot k).ts = (s.slot k).ts ∧ (∀ j, j ≠ k.val → t.slot j = s.slot j)) ∧
     (opcode e.word = 0x7D → vrMemCheck (s.isLead k) true (decodeVR e.word) = none → ∀ v, v = decodeVR e.word → v.sum = false →
       etBits v.et / 8 ≤ v.stride →
       ∃ t, exec (.vrSt k .none) s = .next t ∧ (∀ i, i < v.n → t.tsLE k (v.addr + i * v.stride) (etBits v.et / 8) =
         (s.slot k).vElem v.dst (etBits v.et) i) ∧ t.queue k .xq = after v.n ∧ (t.slot k).v = (s.slot k).v ∧
         (∀ j, j ≠ k.val → t.slot j = s.slot j))) ∧
  (∀ (k : Fin 72) (e : Entry) (after : Nat → Queue) (v : VWord) (i w : Nat) (s t : State), s.stopped = false →
     s.starts k e after → v = decodeVS e.word → vsCheck none v = none → v.sum = false →
     etInt v.et = true → w = etBits v.et → i < v.n →
     ∀ x ∈ vsCommands, opcode e.word = x.2 → (x.2 ≤ 0x47 ∨ x.2 = 0x4D ∨ x.2 = 0x55) → exec (x.1 k .none) s = .next t →
       t.tsLE k (v.dst + i * (w / 8)) (w / 8) =
         (match x.2 with
           | 0x40 => wrapInt w (sint w ((s.vsElems k v).a i) + sint w ((s.vsElems k v).b i))
           | 0x41 => wrapInt w (sint w ((s.vsElems k v).a i) - sint w ((s.vsElems k v).b i))
           | 0x42 => wrapInt w (sint w ((s.vsElems k v).a i) * sint w ((s.vsElems k v).b i))
           | 0x43 => wrapInt w (sint w ((s.vsElems k v).a i) * sint w ((s.vsElems k v).b i) + sint w ((s.vsElems k v).c i))
           | 0x44 => wrapInt w (min (sint w ((s.vsElems k v).a i)) (sint w ((s.vsElems k v).b i)))
           | 0x45 => wrapInt w (max (sint w ((s.vsElems k v).a i)) (sint w ((s.vsElems k v).b i)))
           | 0x46 => wrapInt w ((sint w ((s.vsElems k v).a i)).natAbs : Int)
           | 0x47 => wrapInt w (-(sint w ((s.vsElems k v).a i)))
           | 0x4D => if (s.vsElems k v).m i then (s.vsElems k v).a i else (s.vsElems k v).b i
           | _ => (s.vsElems k v).a i) ∧
       (∀ b, b < v.dst ∨ v.dst + v.n * (w / 8) ≤ b → t.tsRead k b 1 = s.tsRead k b 1) ∧
       (∀ j, j ≠ k.val → t.slot j = s.slot j)) ∧
  (∀ (k t : Nat) (old : Word) (s : State), s.flagsBefore k t = true → s.rd (Reg.NUM_STAT k) ≠ old →
     (s.holdNotes k t old).rd (Reg.NUM_STAT k) = old ∧
     ((s.holdNotes k t old).slot k).notes = (s.slot k).notes ++ [(t, newNotes old (s.rd (Reg.NUM_STAT k)))]) ∧
  (∀ (k t : Nat) (n : Word) (s : State), (s.slot k).notes = [(t, n)] → s.flagsBefore k t = false →
     (s.flushNotes k false).rd (Reg.NUM_STAT k) = mergeNote (s.rd (Reg.NUM_STAT k)) n ∧ ((s.flushNotes k false).slot k).notes = [])

/-- A command that fails its check has no effect but the stop of its queue, with its status and opcode, and, of a vector command alone,
the record in VE_STAT; it counts as completed. Opcodes that name no command fail with FORMAT. A command that waited and whose parameter
block or descriptor fails stops the queue in the same way when it would make its effect. The model's readings: log entries 11 and 36. -/
def Obligations.FailingChecksStopQueue : Prop :=
  (∀ (k : Fin 72) (e : Entry) (r : Queue) (st : Nat) (s : State), s.stopped = false → st < 256 →
    s.atHead k e r →
    (∀ x ∈ [((Instr.mopz k .none), 0x20, mopCheck (s.slot k).layout (decodeMop e.word)),
        ((Instr.mop k .none), 0x21, mopCheck (s.slot k).layout (decodeMop e.word)),
        ((Instr.ldl k .none), 0x10, ldlCheck (decodeLdl e.word)), ((Instr.drn k .none), 0x25, drnCheck (s.slot k).layout (decodeDrn e.word)),
        ((Instr.ldl k .none), 0x11, some 0x80), ((Instr.vsAdd k .none), 0x5F, some 0x80), ((Instr.vrAdd k .none), 0x7F, some 0x80)],
      opcode e.word = x.2.1 → x.2.2 = some st → ∃ t, exec x.1 s = .next t ∧
        t.queue k .xq = r.accept e .done ∧ t.stopped? k .xq = true ∧ t.fld (Reg.XQ_STAT k) F.XQ_STAT_STOP_STATUS = st ∧
        t.fld (Reg.XQ_STAT k) F.XQ_STAT_STOP_OP = opcode e.word ∧
        (∀ o, o ≠ Reg.XQ_STAT k → (o ≠ Reg.VE_STAT k ∨ opcode e.word < 0x40) → t.rd o = s.rd o) ∧
        (0x40 ≤ opcode e.word → t.fld (Reg.VE_STAT k) F.VE_STAT_LAST_ERR = st ∧ t.fld (Reg.VE_STAT k) F.VE_STAT_LAST_OP = opcode e.word) ∧
        t = { s with slots := t.slots, drs := t.drs } ∧ t.slot k = { s.slot k with xq := r.accept e .done } ∧
        (∀ j, j ≠ k.val → t.slot j = s.slot j)) ∧
    (∀ x : (Fin 72 → Upset → Instr) × Nat, opcode e.word = x.2 →
      (x ∈ vsCommands ∧ vsCheck (s.sumAt k (decodeVS e.word)) (decodeVS e.word) = some st ∨
        x ∈ vrCommands ∧ vrCheck (s.isLead k) (decodeVR e.word) = some st) →
      ∃ t, exec (x.1 k .none) s = .next t ∧
      t.stopped? k .xq = true ∧ t.fld (Reg.XQ_STAT k) F.XQ_STAT_STOP_STATUS = st ∧ t.fld (Reg.XQ_STAT k) F.XQ_STAT_STOP_OP = x.2 ∧
      t.fld (Reg.VE_STAT k) F.VE_STAT_LAST_ERR = st ∧ t.fld (Reg.VE_STAT k) F.VE_STAT_LAST_OP = x.2 ∧
      (∀ o, o ≠ Reg.XQ_STAT k → o ≠ Reg.VE_STAT k → t.rd o = s.rd o) ∧
      t = { s with slots := t.slots, drs := t.drs } ∧ t.slot k = { s.slot k with xq := r.accept e .done } ∧
      (∀ j, j ≠ k.val → t.slot j = s.slot j))) ∧
  (∀ (k : Fin 72) (e : Entry) (st : Nat) (s : State), s.stopped = false → st < 256 → st ≠ 0 → (s.slot k).notes = [] →
    ((s.queue k .xq).inflight.map (fun x => x.entry.ticket)).Nodup → s.runnable k (fun o => o == opcode e.word) = some e →
    ∀ x ∈ [(Instr.drn k .none, 0x25, drnEffect k e.word s), (Instr.vsSlice k .none, 0x58, sliceEffect k e.word s),
        (Instr.vsRecomb k .none, 0x59, recombEffect k e.word s), (Instr.vrSlice k .none, 0x78, sliceEffect k e.word s),
        (Instr.vrRecomb k .none, 0x79, recombEffect k e.word s)],
      opcode e.word = x.2.1 → x.2.2 = .error st → ∃ t, exec x.1 s = .next t ∧
        t.slot k = { s.slot k with xq := (s.queueNow k .xq).setPhase e.ticket .done } ∧ t.stopped? k .xq = true ∧
        t.fld (Reg.XQ_STAT k) F.XQ_STAT_STOP_STATUS = st ∧ t.fld (Reg.XQ_STAT k) F.XQ_STAT_STOP_OP = x.2.1 ∧
        (∀ o, o ≠ Reg.XQ_STAT k → (o ≠ Reg.VE_STAT k ∨ x.2.1 = 0x25) → t.rd o = s.rd o) ∧
        (x.2.1 ≠ 0x25 → t.fld (Reg.VE_STAT k) F.VE_STAT_LAST_ERR = st ∧ t.fld (Reg.VE_STAT k) F.VE_STAT_LAST_OP = x.2.1) ∧
        t = { s with slots := t.slots, drs := t.drs } ∧ (∀ j, j ≠ k.val → t.slot j = s.slot j))

/-! ## Rules stated whole (03 R75, 04 R97) -/

/-- In DN-16 mode an ALAY that names GRID16 completes with 0x84, which stands in XQ_STAT, and has no effect: the layout, the cells and
everything but the queue and that status stay as they were. -/
def Obligations.Grid16RefusedInDn16 : Prop :=
  ∀ (k : Fin 72) (e : Entry) (r : Queue) (s : State), s.stopped = false → s.dn16 = true →
    s.headOf k .xq = some (e, r) → opcode e.word = 0x26 → s.mayAccept k e.word = true → cf e.word 119 118 = 2 →
    ∃ t, exec (.alay k) s = .next t ∧ t.fld (Reg.XQ_STAT k) F.XQ_STAT_STOP_STATUS = 0x84 ∧ t.stopped? k .xq = true ∧
      t.slot k = { s.slot k with xq := r.accept e .done } ∧ t = { s with slots := t.slots, drs := t.drs } ∧
      (∀ o, o ≠ Reg.XQ_STAT k → t.rd o = s.rd o) ∧ (∀ j, j ≠ k.val → t.slot j = s.slot j)

/-- A lane sliced with `n` slices and the same lane sliced with `d.n ≥ n` have the same exponent, and planes 0 to `n - 1` are the same; of
a real source the bytes of the smaller sliced tile are the first bytes of the larger. -/
def Obligations.SlicePlanesShared : Prop :=
  ∀ (s : State) (k n : Nat) (d : SliceDesc), d.int16 = false → n ≤ d.n →
    (∀ (i : Nat) (given : Option Int),
      (s.sliceOne k { d with n := n } given i).exp = (s.sliceOne k d given i).exp ∧
      ∀ part e p, p < n → (((s.sliceOne k { d with n := n } given i).vals.getD part []).getD e []).getD p 0 =
        (((s.sliceOne k d given i).vals.getD part []).getD e []).getD p 0) ∧
    (d.complex = false →
      sliceImage { d with n := n } (s.sliceLanes k { d with n := n }).1 (s.sliceLanes k { d with n := n }).2 =
        (sliceImage d (s.sliceLanes k d).1 (s.sliceLanes k d).2).take (256 + 128 * d.k * n))

/-! ## Tallies, TWAIT, REL and ACQ (10 R266 to R283) -/

/-- TWAIT at the head of either queue is accepted: it completes at once where its tally has reached the target, signed modulo 2^64, and
else holds the queue until it has. Nothing but the queue changes. REL at the head of either queue is accepted with its wait set, and does not hold
the queue; a failing check stops the queue. ACQ at the head, in the execute queue once no earlier command has still to write what it
reads, holds its queue until its condition, on a tally or on a word of its own Tile Store, is met, and then completes; it changes nothing else where it names no range and the scope checker is off.
Forms shown to complete: twaitXq, twaitFq, relXq, relFq, acqXq, acqFq. The model's readings: log entries 1, 10 and 40. -/
def Obligations.WaitsHoldTheQueue : Prop :=
  (∀ (k : Fin 72) (e : Entry) (r : Queue) (s : State), s.stopped = false →
     ∀ x ∈ [(Instr.twaitXq k, QSel.xq, 0x91), (Instr.twaitFq k, QSel.fq, 0x96)],
       s.takeHead k x.2.1 (fun o => o == x.2.2) = some (e, r) →
       ∃ t, exec x.1 s = .next t ∧
         t.queue k x.2.1 = (if (BitVec.ofNat 64 (cf e.word 63 0) - s.rd (Reg.TALLY k (cf e.word 119 116))).toInt ≤ 0
           then (r.accept e (.held 0 [])).setPhase e.ticket .done else r.accept e (.held 0 [])) ∧
         t.slot k = (s.slot k).setQueue x.2.1 (t.queue k x.2.1) ∧ t = { s with slots := t.slots } ∧
         (∀ j, j ≠ k.val → t.slot j = s.slot j)) ∧
  (∀ (k : Fin 72) (e : Entry) (r : Queue) (s : State), s.stopped = false →
     (∀ x ∈ [(Instr.relXq k, QSel.xq, 0x92), (Instr.relFq k, QSel.fq, 0x93)],
       s.takeHead k x.2.1 (fun o => o == x.2.2) = some (e, r) →
       (s.relCheck k e.word = none → ∃ t, exec x.1 s = .next t ∧
         t.queue k x.2.1 = r.accept e (.rel (s.relStreams k x.2.1)) ∧
         t.slot k = (s.slot k).setQueue x.2.1 (t.queue k x.2.1) ∧ t = { s with slots := t.slots } ∧
         (∀ j, j ≠ k.val → t.slot j = s.slot j)) ∧
       (∀ st, s.relCheck k e.word = some st → exec x.1 s = .next (s.leaves (s.failCmd k x.2.1 e r st)))) ∧
     (∀ x ∈ [(Instr.acqXq k, QSel.xq, 0x94), (Instr.acqFq k, QSel.fq, 0x95)],
       s.takeHead k x.2.1 (fun o => o == x.2.2) = some (e, r) → s.sckOn k = false → acqRange e.word = false →
       (x.2.1 = QSel.xq → s.acqWaits k e = false) →
       ∀ d, d = (if acqCond e.word = 0 then [] else s.tsRead k (cf e.word 95 64) 32) → s.acqCheck k e.word d = none →
       (acqCond e.word = 0 ∨ acqSpace d = 0) →
       ∃ t, exec x.1 s = .next t ∧
         t.queue k x.2.1 = (if
             acqCond e.word = 0 ∧ (BitVec.ofNat 64 (cf e.word 63 0) - s.rd (Reg.TALLY k (cf e.word 115 112))).toInt ≤ 0 ∨
             acqCond e.word = 1 ∧ 0 ≤ (BitVec.ofNat 64 (s.tsLE k (acqAddr d) 8) - BitVec.ofNat 64 (blk d 8 8)).toInt ∨
             acqCond e.word = 2 ∧ s.tsLE k (acqAddr d) 8 = blk d 8 8
           then (r.accept e (.held 0 d)).setPhase e.ticket .done else r.accept e (.held 0 d)) ∧
         t.slot k = (s.slot k).setQueue x.2.1 (t.queue k x.2.1) ∧ t = { s with slots := t.slots } ∧
         (∀ j, j ≠ k.val → t.slot j = s.slot j)))

/-- The first REL of a queue whose wait set is met signals: NONE completes it; TALLY and WORD send a packet of their kind to the core or
sector it names, and a WORD in External Memory sends the write of the 8 bytes to the port that holds them, where the sector's cache
translates. The core's memory, tallies and other slots stay. A TALLY signal adds its value to the tally, modulo 2^64, and a WORD signal
writes the doubleword, in a Tile Store or in a sector's pool; the packet leaves, and every other register and every other byte stays, but
for the pointer and the wakes of a channel whose read pointer the word is, and for what an enabled scope checker counts. A command of
whichever queue of that core that waits on the tally or on the word, and whose condition then holds, has met it, whatever follows (10
R273, R276). The REL that sent the signal, of this core or another, completes. At a closed polder nothing is written, and the REL stops
its queue with 0x0E.
Forms shown to complete: relSignal, tallySignal, wordSignal. The model's readings: log entry 10. -/
def Obligations.SignalsSentAndTaken : Prop :=
  (∀ (k : Fin 72) (fq : Bool) (q : QSel) (e : Entry) (l : List (Nat × Nat)) (s : State), s.stopped = false → q = qOf fq →
     (s.queue k q).firstRel = some (e, l) → s.relMet k q e l = true → s.stalled k = false → (s.slot k).stopping = false →
     (relSig e.word = 0 → ∃ t, exec (.relSignal k fq) s = .next t ∧ t.queue k q = (s.queue k q).setPhase e.ticket .done ∧
       t = { s with slots := t.slots } ∧ (∀ j, j ≠ k.val → t.slot j = s.slot j)) ∧
     (relSig e.word = 1 → ∃ t, exec (.relSignal k fq) s = .next t ∧ t.queue k q = (s.queue k q).setPhase e.ticket (.relSent 0) ∧
       t.net = s.net ++ [⟨.reply, .core (s.idOf k), .core (if cb e.word 115 then cf e.word 114 109 else s.idOf k),
         .tallySig (s.slot k).kser q.num e.ticket (relScope e.word) (cf e.word 108 105) (cf e.word 31 0)⟩] ∧
       t = { s with slots := t.slots, net := t.net } ∧ (∀ j, j ≠ k.val → t.slot j = s.slot j)) ∧
     (2 ≤ relSig e.word → relSpace e.word < 2 → ∃ t, exec (.relSignal k fq) s = .next t ∧
       t.queue k q = (s.queue k q).setPhase e.ticket (.relSent 0) ∧
       t.net = s.net ++ [if relSpace e.word = 0
         then ⟨.reply, .core (s.idOf k), .core (if relRemote e.word then cf e.word 114 109 else s.idOf k),
           .wordSig (s.slot k).kser q.num e.ticket (relScope e.word) 0 (relAddr e.word) (cf e.word 31 0)⟩
         else ⟨.data, .core (s.idOf k), .sector (k / 9),
           .wordSig (s.slot k).kser q.num e.ticket (relScope e.word) 1 (relAddr e.word) (cf e.word 31 0)⟩] ∧
       t = { s with slots := t.slots, net := t.net } ∧ (∀ j, j ≠ k.val → t.slot j = s.slot j)) ∧
     (∀ x pa pl, 2 ≤ relSig e.word → 2 ≤ relSpace e.word → s.walkerFull (s.slot k).fleet = false → s.asks = [] →
       s.secHit (k / 9) (s.slot k).fleet (relAddr e.word) ⟨true, false, false⟩ = some x →
       leafTarget x.pte x.big (relAddr e.word) = .em pa → s.place pa = some pl → ∃ t, exec (.relSignal k fq) s = .next t ∧
       t.queue k q = (s.queue k q).setPhase e.ticket (.relSent 0) ∧
       t.net = s.net ++ [⟨.data, .core (s.idOf k), .port pl.stack, .mem (s.slot k).nextXfer
         ⟨true, pa, relAddr e.word, 8, natLE 8 (cf e.word 31 0), 0, false, (s.slot k).fleet, false, 0⟩⟩] ∧
       t = { s with slots := t.slots, net := t.net, got := t.got } ∧ (∀ j, j ≠ k.val → t.slot j = s.slot j))) ∧
  (∀ (i a id ks qn tk sc ta v ad : Nat) (pl : Plane) (k : Nat) (x : Inflight) (s : State), s.stopped = false → k < 72 → ta < 16 →
     s.slotOf a = some k → (s.slot k).kser = ks →
     (s.queue k (QSel.ofNum qn)).inflight.find? (fun y => y.entry.ticket == tk) = some x →
     (∀ c, s.arrival i = some ⟨pl, .core a, .core id, .tallySig ks qn tk sc ta v⟩ → s.slotOf id = some c → c < 72 →
       (s.closed c = false → ∃ t, exec (.tallySignal i) s = .next t ∧
         t.rd (Reg.TALLY c ta) = s.rd (Reg.TALLY c ta) + BitVec.ofNat 64 v ∧
         (∀ j q, t.queue j q = s.signalled j q c k (QSel.ofNum qn) tk
           (fun e _ => waitTally e.word == some ta && t.tallyMet c ta (cf e.word 63 0))) ∧ t.net = s.net.eraseIdx i ∧
         (∀ j, (t.slot j).ts = (s.slot j).ts) ∧ (∀ j, j ≠ c → j ≠ k → t.slot j = s.slot j) ∧
         (s.sckOn c = false → (∀ o, o ≠ Reg.TALLY c ta → t.rd o = s.rd o) ∧
           t = { s with slots := t.slots, drs := t.drs, net := t.net })) ∧
       (s.closed c = true → ∃ t, exec (.tallySignal i) s = .next t ∧
         t.stopped? k (QSel.ofNum qn) = true ∧ t.fld ((QSel.ofNum qn).reg k) F.XQ_STAT_STOP_STATUS = 0x0E ∧
         (∀ o, o ≠ (QSel.ofNum qn).reg k → t.rd o = s.rd o) ∧
         t.slot k = (s.slot k).setQueue (QSel.ofNum qn) ((s.queueNow k (QSel.ofNum qn)).setPhase tk .done) ∧
         (∀ j, j ≠ k → t.slot j = s.slot j) ∧ t.net = s.net.eraseIdx i ∧ t = { s with slots := t.slots, drs := t.drs, net := t.net })) ∧
     (∀ c, s.arrival i = some ⟨pl, .core a, .core id, .wordSig ks qn tk sc 0 ad v⟩ → s.slotOf id = some c → c < 72 →
       (s.closed c = false →
       ∃ t, exec (.wordSignal i) s = .next t ∧ t.tsRead c ad 8 = natLE 8 v ∧
         (∀ b, b < ad ∨ ad + 8 ≤ b → t.tsRead c b 1 = s.tsRead c b 1) ∧ (∀ j, j ≠ c → (t.slot j).ts = (s.slot j).ts) ∧
         (∀ j q, t.queue j q = s.signalled j q c k (QSel.ofNum qn) tk (fun e d => isAcqOn e.word d 0 &&
           overlaps ad 8 (acqAddr d) 8 && acqWordMet e.word d (t.tsLE c (acqAddr d) 8))) ∧
         (∃ ws, t.net = s.net.eraseIdx i ++ ws ∧ (∀ p ∈ ws, p.plane = .reply ∧ ∃ ch, p.body = .wake ch) ∧
           ((∀ ch, ch < 16 → overlaps ad 8 (s.fld (Reg.CH_RPA c ch) F.CH_RPA_RPADDR) 8 = false) → ws = [])) ∧
         (∀ j, j ≠ c → j ≠ k → t.slot j = s.slot j) ∧ t.em = s.em ∧
         (s.sckOn c = false → (∀ o, (∀ ch, ch < 16 → overlaps ad 8 (s.fld (Reg.CH_RPA c ch) F.CH_RPA_RPADDR) 8 = true →
             o ≠ ringPtr (Reg.CH_CFG c ch) ∧ o ≠ ringStat (Reg.CH_CFG c ch)) → t.rd o = s.rd o) ∧
           t = { s with slots := t.slots, drs := t.drs, net := t.net, repair := t.repair })) ∧
       (s.closed c = true → ∃ t, exec (.wordSignal i) s = .next t ∧
         t.stopped? k (QSel.ofNum qn) = true ∧ t.fld ((QSel.ofNum qn).reg k) F.XQ_STAT_STOP_STATUS = 0x0E ∧
         (∀ o, o ≠ (QSel.ofNum qn).reg k → t.rd o = s.rd o) ∧
         t.slot k = (s.slot k).setQueue (QSel.ofNum qn) ((s.queueNow k (QSel.ofNum qn)).setPhase tk .done) ∧
         (∀ j, j ≠ k → t.slot j = s.slot j) ∧ t.net = s.net.eraseIdx i ∧ t = { s with slots := t.slots, drs := t.drs, net := t.net })) ∧
     (∀ n, s.arrival i = some ⟨pl, .core a, .sector n, .wordSig ks qn tk sc 1 ad v⟩ → s.behind (.sector n) = false →
       ∃ t, exec (.wordSignal i) s = .next t ∧ t.poolRead n ad 8 = natLE 8 v ∧
         (∀ b, b < ad ∨ ad + 8 ≤ b → t.poolRead n b 1 = s.poolRead n b 1) ∧
         t.slot k = (s.slot k).setQueue (QSel.ofNum qn) ((s.queue k (QSel.ofNum qn)).setPhase tk .done) ∧ t.net = s.net.eraseIdx i ∧
         (∀ j, j ≠ k → t.slot j = s.slot j) ∧ t = { s with slots := t.slots, sectors := t.sectors, net := t.net }))

/-- A poll of the word that an ACQ holding its queue waits for: where the doubleword meets the condition the ACQ completes, else it goes on
holding; a pool word in error stops the queue with 0x0B, and one behind a closed dike with 0x0E. A word in External Memory whose block
has not come is asked for from its port, and the poll is still to be made. After a failed walk the router walks
again for the ACQ that holds a queue, or for the REL that has not yet signalled: where the address now translates, the ACQ may poll,
and the REL sends its write.
Forms shown to complete: acqSpPoll, acqEmPoll, walkRetry. The model's readings: log entries 1 and 46. -/
def Obligations.PollsAndWalks : Prop :=
  (∀ (k : Fin 72) (fq : Bool) (q : QSel) (e : Entry) (w : Nat) (d : List Byte) (s : State), s.stopped = false → q = qOf fq →
     (s.queue k q).heldEntry = some (e, w, d) → acqRange e.word = false → s.sckOn k = false → (s.slot k).stopping = false →
     (isAcqOn e.word d 1 = true →
       (∀ st, (st = 0x0E ∧ s.behind (.sector (k / 9)) = true ∨
           st = 0x0B ∧ s.behind (.sector (k / 9)) = false ∧ s.poolBad (k / 9) (acqAddr d) 8 = true) →
         ∃ t, exec (.acqSpPoll k fq) s = .next t ∧ t.stopped? k q = true ∧ t.fld (q.reg k) F.XQ_STAT_STOP_STATUS = st ∧
           t.queue k q = (s.queue k q).setPhase e.ticket .done ∧ t = { s with slots := t.slots, drs := t.drs }) ∧
       (s.behind (.sector (k / 9)) = false → s.poolBad (k / 9) (acqAddr d) 8 = false →
         ∃ t, exec (.acqSpPoll k fq) s = .next t ∧
           t.queue k q = (if acqWordMet e.word d (leNat (s.poolRead (k / 9) (acqAddr d) 8)) = true
             then (s.queue k q).setPhase e.ticket .done else s.queue k q) ∧
           t = { s with slots := t.slots } ∧ (∀ j, j ≠ k.val → t.slot j = s.slot j))) ∧
     (∀ x pa bs u, isAcqOn e.word d 2 = true → w = 0 →
       (s.slot k).outs.any (fun o => o.stream == 34 + q.num && !o.dropped) = false → s.walkerFull (s.slot k).fleet = false →
       s.stalled k = false → s.secHit (k / 9) (s.slot k).fleet (acqAddr d) ⟨false, false, false⟩ = some x →
       leafTarget x.pte x.big (acqAddr d) = .em pa → s.emLoadBy (.core (s.idOf k)) (clsPrio 0) pa 8 = (0, bs, u) → s.asks = [] →
       (u.asks = [] → ∃ t, exec (.acqEmPoll k fq) s = .next t ∧
         t.queue k q = (if acqWordMet e.word d (leNat bs) = true then (s.queue k q).setPhase e.ticket .done else s.queue k q) ∧
         (∀ j, j ≠ k.val → t.slot j = s.slot j) ∧ (t.slot k).ts = (s.slot k).ts) ∧
       (u.asks ≠ [] → ∃ t, exec (.acqEmPoll k fq) s = .next t ∧ t = u.asks.foldl State.postAsk s ∧
         t.slots = s.slots ∧ t.em = s.em))) ∧
  (∀ (k : Fin 72) (fq : Bool) (q : QSel) (e : Entry) (w pa : Nat) (x : TlbEntry) (s : State), s.stopped = false → q = qOf fq →
     s.walkerFull (s.slot k).fleet = false → w ≠ 0 → (s.slot k).stopping = false → s.asks = [] →
     (∀ d, (s.queue k q).heldEntry = some (e, w, d) → (∀ y ∈ (s.queue k q).inflight, ∀ u, y.phase = .relSent u → u = 0) →
       s.secHit (k / 9) (s.slot k).fleet (acqAddr d) ⟨false, false, false⟩ = some x →
       ∃ t, exec (.walkRetry k fq) s = .next t ∧ t.queue k q = (s.queue k q).setPhase e.ticket (.held 0 d) ∧
         t = { s with slots := t.slots, got := t.got } ∧ (∀ j, j ≠ k.val → t.slot j = s.slot j)) ∧
     (∀ pl, (s.queue k q).heldEntry = none →
       (s.queue k q).inflight.find? (fun y => match y.phase with | .relSent u => u != 0 | _ => false) = some ⟨e, .relSent w⟩ →
       s.secHit (k / 9) (s.slot k).fleet (relAddr e.word) ⟨true, false, false⟩ = some x →
       leafTarget x.pte x.big (relAddr e.word) = .em pa → s.place pa = some pl →
       ∃ t, exec (.walkRetry k fq) s = .next t ∧ t.queue k q = (s.queue k q).setPhase e.ticket (.relSent 0) ∧
         t.net = s.net ++ [⟨.data, .core (s.idOf k), .port pl.stack, .mem (s.slot k).nextXfer
           ⟨true, pa, relAddr e.word, 8, natLE 8 (cf e.word 31 0), 0, false, (s.slot k).fleet, false, 0⟩⟩] ∧
         t = { s with slots := t.slots, net := t.net, got := t.got }))

/-! ## Charts, streams and convoys (08 R196 to R232) -/

/-- CH.ARM and CH.REARM: a failing check stops the fetch queue and stands in the slot's STATUS, starting nothing; else the slot is RUNNING
from the start of its chart, with the header, the instructions and the base addresses of the chart read at acceptance, and completes; a
re-arm of a DONE persistent stream runs its chart again. A re-arm of a stream that is RUNNING or HALTING waits. CH.HALT halts every
RUNNING slot it names, which goes back to its first transfer not issued and is HALTED once nothing of it is outstanding; CH.RESUME runs
every HALTING or HALTED slot it names. Both complete at acceptance and change nothing else. STRM_CTL.RESUME runs a HALTING, HALTED or
FAULTED slot, and STRM_CTL.CANCEL ends a HALTED one with 0x02 and a FAULTED one with the status of its fault.
Forms shown to complete: chArm, chRearm, chHalt, chResume, resume, cancel. The model's readings: log entries 10 and 32. -/
def Obligations.StreamsRunAndHalt : Prop :=
  (∀ (k : Fin 72) (e : Entry) (r : Queue) (i : Nat) (s : State), s.stopped = false → i = cf e.word 119 115 →
     s.takeHead k .fq (fun o => o == opcode e.word) = some (e, r) →
     (opcode e.word = 0x80 → ∀ b h ws, b = s.tsRead k (cf e.word 111 80) 256 → h = b.take 128 →
       ws = (List.range (min 16 (hNinst h))).map (fun j => BitVec.ofNat 64 (blk b (128 + 8 * j) 8)) →
       (s.armCheck k e.word = none → s.chartCheck k h ws = none → ∃ t, exec (.chArm k) s = .next t ∧
         (t.strm k i).state = .running ∧ (t.strm k i).insts = ws ∧ (t.strm k i).header = h ∧ (t.strm k i).pos = Pos.zero ∧
         (t.strm k i).emitted = [] ∧ (t.strm k i).bases = ([if cb e.word 114 then cf e.word 63 0 else blk h 0 8, blk h 8 8,
           blk h 16 8, blk h 24 8]).map (fun a => BitVec.ofNat 64 a) ∧ (t.strm k i).deadline = s.time + hDeadline h ∧
         t.queue k .fq = r.accept e .done ∧ (∀ j, j ≠ i → t.strm k j = s.strm k j) ∧ (t.slot k).ts = (s.slot k).ts ∧
         t = { s with slots := t.slots } ∧ (∀ j, j ≠ k.val → t.slot j = s.slot j)) ∧
       (∀ st, st < 256 → (s.armCheck k e.word = some st ∨ s.armCheck k e.word = none ∧ s.chartCheck k h ws = some st) →
         ∃ t, exec (.chArm k) s = .next t ∧ t.stopped? k .fq = true ∧ t.fld (Reg.FQ_STAT k) F.XQ_STAT_STOP_STATUS = st ∧
           t.fld (Reg.STRM_STAT k i) F.STRM_STAT_STATUS = st ∧ t.queue k .fq = r.accept e .done ∧ (∀ j, t.strm k j = s.strm k j) ∧
           t = { s with slots := t.slots, drs := t.drs } ∧ (∀ o, o ≠ Reg.FQ_STAT k → o ≠ Reg.STRM_STAT k i → t.rd o = s.rd o))) ∧
     (opcode e.word = 0x81 →
       ((s.strm k i).state = .done → hPersist (s.strm k i).header = true → ∃ t, exec (.chRearm k) s = .next t ∧
         (t.strm k i).state = .running ∧ (t.strm k i).insts = (s.strm k i).insts ∧ (t.strm k i).header = (s.strm k i).header ∧
         (t.strm k i).pos = Pos.zero ∧ (t.strm k i).bases = (if cb e.word 114
           then (s.strm k i).bases.set (cf e.word 113 112) (BitVec.ofNat 64 (cf e.word 63 0)) else (s.strm k i).bases) ∧
         t.queue k .fq = r.accept e .done ∧ (∀ j, j ≠ i → t.strm k j = s.strm k j) ∧ (t.slot k).ts = (s.slot k).ts ∧
         t = { s with slots := t.slots } ∧ (∀ j, j ≠ k.val → t.slot j = s.slot j)) ∧
       (((s.strm k i).state = .running ∨ (s.strm k i).state = .halting) → hPersist (s.strm k i).header = true →
         exec (.chRearm k) s = .next s) ∧
       (((s.strm k i).state = .idle ∨ (s.strm k i).state = .halted ∨ (s.strm k i).state = .faulted ∨
           hPersist (s.strm k i).header = false) →
         ∃ t, exec (.chRearm k) s = .next t ∧ t.stopped? k .fq = true ∧ t.fld (Reg.FQ_STAT k) F.XQ_STAT_STOP_STATUS = 0x8D ∧
           t.fld (Reg.FQ_STAT k) F.XQ_STAT_STOP_OP = 0x81 ∧ t.fld (Reg.STRM_STAT k i) F.STRM_STAT_STATUS = 0x8D ∧
           (∀ o, o ≠ Reg.FQ_STAT k → o ≠ Reg.STRM_STAT k i → t.rd o = s.rd o) ∧ (∀ j, t.strm k j = s.strm k j) ∧
           t.slot k = { s.slot k with fq := r.accept e .done } ∧ t = { s with slots := t.slots, drs := t.drs } ∧
           (∀ j, j ≠ k.val → t.slot j = s.slot j)))) ∧
  (∀ (k : Fin 72) (i : Fin 32) (e : Entry) (r : Queue) (s : State), s.stopped = false →
     (s.takeHead k .fq (fun o => o == 0x82) = some (e, r) → ∃ t, exec (.chHalt k) s = .next t ∧
       (∀ j, j < 32 → t.strm k j = if cb e.word (88 + j) = true ∧ (s.strm k j).state = .running
         then { (s.strm k j).rewind with
           state := if (s.outsOf k j).isEmpty then .halted else .halting
           stop := false
           walking := false } else s.strm k j) ∧
       t.queue k .fq = r.accept e .done ∧ t = { s with slots := t.slots } ∧ (∀ j, j ≠ k.val → t.slot j = s.slot j)) ∧
     (s.takeHead k .fq (fun o => o == 0x83) = some (e, r) → ∃ t, exec (.chResume k) s = .next t ∧
       (∀ j, j < 32 → t.strm k j =
         if cb e.word (88 + j) = true ∧ ((s.strm k j).state = .halting ∨ (s.strm k j).state = .halted)
         then { s.strm k j with state := .running } else s.strm k j) ∧
       t.queue k .fq = r.accept e .done ∧ t = { s with slots := t.slots } ∧ (∀ j, j ≠ k.val → t.slot j = s.slot j)) ∧
     (s.reach (Reg.STRM_CTL k i) = .ok →
       (∃ t, exec (.resume k i) s = .next t ∧ t.strm k i =
         (if (s.strm k i).state = .halting ∨ (s.strm k i).state = .halted ∨ (s.strm k i).state = .faulted
           then { s.strm k i with state := .running } else s.strm k i) ∧
         (∀ j, j ≠ i.val → t.strm k j = s.strm k j) ∧ t = { s with slots := t.slots } ∧ (∀ j, j ≠ k.val → t.slot j = s.slot j)) ∧
       (∃ t, exec (.cancel k i) s = .next t ∧ t.strm k i =
         (if (s.strm k i).state = .halted ∨ (s.strm k i).state = .faulted then { s.strm k i with state := .idle } else s.strm k i) ∧
         ((s.strm k i).state = .halted → t.fld (Reg.STRM_STAT k i) F.STRM_STAT_STATUS = 0x02) ∧
         ((s.strm k i).state = .faulted → (s.strm k i).fault < 256 →
           t.fld (Reg.STRM_STAT k i) F.STRM_STAT_STATUS = (s.strm k i).fault) ∧
         ((s.strm k i).state ≠ .halted → (s.strm k i).state ≠ .faulted → ∀ o, t.rd o = s.rd o) ∧
         (∀ j, j ≠ i.val → t.strm k j = s.strm k j) ∧ t = { s with slots := t.slots, drs := t.drs } ∧
         (∀ j, j ≠ k.val → t.slot j = s.slot j))))

/-- CH.CREDIT gives credits to a convoy, its own or another core's, once the forward stream it names, if any, has issued the tiles it
frees; until then it waits. A credit adds to the limit of a convoy stream and sets CV_ERR of any other slot. A BOUNDED stream gains
tokens up to its rate, and its deadline, passed, sets MISS, the record and the deadline alert, once for its run.
Forms shown to complete: chCredit, convoyCredit, tokenGain, streamDeadline. The model's readings: log entries 32 and 38. -/
def Obligations.ConvoysAndDeadlines : Prop :=
  ∀ (k : Fin 72) (i : Fin 32) (e : Entry) (r : Queue) (s : State), s.stopped = false →
    (s.takeHead k .fq (fun o => o == 0x84) = some (e, r) → s.creditCheck k e.word = none →
      ∀ n f d, n = cf e.word 101 97 → f = s.strm k (cf e.word 106 102) → d = cf e.word 112 108 →
      (cb e.word 107 = true → f.issuedTiles (f.freed + n) = false → exec (.chCredit k) s = .next s) ∧
      (cb e.word 107 = false ∨ f.issuedTiles (f.freed + n) = true → ∃ t, exec (.chCredit k) s = .next t ∧
        t.queue k .fq = r.accept e .done ∧
        (t.strm k (cf e.word 106 102)).freed = f.freed + (if cb e.word 107 then n else 0) ∧
        t.net = s.net ++ (if cb e.word 119
          then [⟨.reply, .core (s.idOf k), .core (cf e.word 118 113), .credit d n⟩] else []) ∧
        (cb e.word 119 = false → (s.strm k d).state ≠ .idle → hConvoy (s.strm k d).header = true →
          (t.strm k d).clim = (s.strm k d).clim + n) ∧
        (cb e.word 119 = false → ((s.strm k d).state = .idle ∨ hConvoy (s.strm k d).header = false) →
          t.fld (Reg.STRM_STAT k d) F.STRM_STAT_CV_ERR = 1) ∧
        t = { s with slots := t.slots, drs := t.drs, net := t.net } ∧ (∀ j, j ≠ k.val → t.slot j = s.slot j))) ∧
    (∀ m pl src id n, s.arrival m = some ⟨pl, src, .core id, .credit i n⟩ → s.slotOf id = some k.val →
      ∃ t, exec (.convoyCredit m) s = .next t ∧ t.net = s.net.eraseIdx m ∧
        ((s.strm k i).state ≠ .idle → hConvoy (s.strm k i).header = true →
          t.strm k i = { s.strm k i with clim := (s.strm k i).clim + n } ∧ (∀ o, t.rd o = s.rd o)) ∧
        (((s.strm k i).state = .idle ∨ hConvoy (s.strm k i).header = false) →
          t.strm k i = s.strm k i ∧ t.fld (Reg.STRM_STAT k i) F.STRM_STAT_CV_ERR = 1) ∧
        (∀ j, j ≠ i.val → t.strm k j = s.strm k j) ∧ t = { s with slots := t.slots, drs := t.drs, net := t.net }) ∧
    ((s.strm k i).state ≠ .idle → hBounded (s.strm k i).header = true →
      (∃ t, exec (.tokenGain k i) s = .next t ∧
        t.strm k i = { s.strm k i with tokens := min (hRate (s.strm k i).header) ((s.strm k i).tokens + 1) } ∧
        (∀ j, j ≠ i.val → t.strm k j = s.strm k j) ∧ t = { s with slots := t.slots } ∧
        (∀ j, j ≠ k.val → t.slot j = s.slot j)) ∧
      ((s.strm k i).state ≠ .done → (s.strm k i).late = false → ∃ t, exec (.streamDeadline k i) s = .next t ∧
        t.strm k i = { s.strm k i with late := true } ∧ t.fld (Reg.STRM_STAT k i) F.STRM_STAT_MISS = 1 ∧
        t.time = max s.time (s.strm k i).deadline ∧ t.reports.length = s.reports.length + 1 ∧
        bit (t.fld Reg.AL_STAT F.AL_STAT_CLASS) 10 = true ∧ t.em = s.em ∧ (∀ j, j ≠ i.val → t.strm k j = s.strm k j) ∧
        (∀ j, j ≠ k.val → t.slot j = s.slot j)) ∧
      ((s.strm k i).late = true → exec (.streamDeadline k i) s = .next s))

/-- The fetch engine runs its charts and issues the transfer of the slot it picks: the request, or the data that a local copy, a sector's
pool or its cache holds, goes out, and the transfer is outstanding; one that breaks an address rule ends its stream with 0x04. Data
that arrives at a core lands: a put, a multicast or result packet and bytes an NMU or the host sends stand in its Tile Store, the tally
they name has counted them, and the acknowledgement goes back; fetched data stands at the destination of its transfer, which is then no
longer outstanding, and its tally has counted it. No other byte of the Tile Store changes. The acknowledgement of a put or write-out:
with status 0 the transfer is no longer outstanding, and a write-out's tally has counted its bytes; any other status ends its stream,
which is IDLE with that status and the stream alert.
Forms shown to complete: transferIssue, landing, transferAck. The model's readings: log entry 46. -/
def Obligations.TransfersMade : Prop :=
  (∀ (k : Fin 72) (i c : Nat) (e0 : Emit) (es : List Emit) (u : State) (h : List Byte) (m : Emit) (s : State), s.stopped = false →
     u = s.chartsRun k → u.pickStrm k = some (i, c) → i < 32 → (u.strm k i).emitted = e0 :: es → h = (u.strm k i).header →
     m = (u.mergeEmits k (u.strm k i) e0 es 0).1 →
     (u.badAddr k h m.src m.dst m.len = true → ∃ t, exec (.transferIssue k .none) s = .next t ∧ (t.strm k i).state = .idle ∧
       t.fld (Reg.STRM_STAT k i) F.STRM_STAT_STATUS = 0x04 ∧ (t.slot k).ts = (s.slot k).ts ∧ t.net = s.net ∧
       bit (t.fld Reg.AL_STAT F.AL_STAT_CLASS) 4 = true) ∧
     (u.badAddr k h m.src m.dst m.len = false → ∀ p : Packet,
       (p = ⟨.data, .core (u.idOf k), .core (u.idOf k), .xferData (u.slot k).nextXfer 0 (s.tsRead k m.src.toNat m.len)⟩ ∧
         hKind h = some .copy ∨
        p = ⟨.data, .core (u.idOf k), .core (hDcore h),
           .put (u.slot k).nextXfer m.dst.toNat (s.tsRead k m.src.toNat m.len) (hTally h)⟩ ∧
         hKind h = some .put ∧ u.behind (.core (hDcore h)) = false ∨
        p = ⟨.data, .sector (k / 9), .core (u.idOf k), .xferData (u.slot k).nextXfer 0 (s.poolRead (k / 9) m.src.toNat m.len)⟩ ∧
         hKind h = some .fetch ∧ hSrc h = 1 ∧ u.behind (.sector (k / 9)) = false ∧
         s.poolBad (k / 9) m.src.toNat m.len = false ∨
        (∃ x l, p = ⟨.data, .sector (k / 9), .core (u.idOf k),
           .xferData (u.slot k).nextXfer 0 ((l.bytes.drop (m.src.toNat % 256)).take m.len)⟩ ∧
         hKind h = some .fetch ∧ hSrc h = 2 ∧ hb h 33 1 = false ∧
         u.secHit (k / 9) (u.slot k).fleet m.src.toNat ⟨false, false, hBounded h⟩ = some x ∧
         u.farClosed k h (some (leafTarget x.pte x.big m.src.toNat)) = false ∧
         s.cacheFind (k / 9) (s.slot k).fleet (m.src.toNat / 256) = some l) ∨
        (∃ x pa pl, p = ⟨.data, .core (u.idOf k), .port pl.stack, .mem (u.slot k).nextXfer
           ⟨false, pa, m.src.toNat, m.len, [], hPrio h, hBounded h, (s.slot k).fleet, hb h 33 0,
             if hBounded h then (s.slot k).passage else 0⟩⟩ ∧
         hKind h = some .fetch ∧ hSrc h = 2 ∧
         (hb h 33 1 = true ∨ s.cacheFind (k / 9) (s.slot k).fleet (m.src.toNat / 256) = none) ∧
         u.secHit (k / 9) (u.slot k).fleet m.src.toNat ⟨false, false, hBounded h⟩ = some x ∧
         leafTarget x.pte x.big m.src.toNat = .em pa ∧ u.place pa = some pl ∧ u.behind (.port pl.stack) = false) ∨
        (∃ x pa pl, p = ⟨.data, .core (u.idOf k), .port pl.stack, .mem (u.slot k).nextXfer
           ⟨true, pa, m.dst.toNat, m.len, s.tsRead k m.src.toNat m.len, hPrio h, hBounded h, (s.slot k).fleet, false,
             if hBounded h then (s.slot k).passage else 0⟩⟩ ∧
         hKind h = some .writeOut ∧ hDst h = 2 ∧
         u.secHit (k / 9) (u.slot k).fleet m.dst.toNat ⟨true, false, hBounded h⟩ = some x ∧
         leafTarget x.pte x.big m.dst.toNat = .em pa ∧ u.place pa = some pl ∧ u.behind (.port pl.stack) = false)) →
       ∃ t, exec (.transferIssue k .none) s = .next t ∧ t.net = s.net ++ [p] ∧
         (t.slot k).outs.map (fun o => o.id) = (s.slot k).outs.map (fun o => o.id) ++ [(u.slot k).nextXfer] ∧
         (t.strm k i).emitted = (u.mergeEmits k (u.strm k i) e0 es 0).2.1 ∧ (t.slot k).ts = (s.slot k).ts ∧ t.em = s.em ∧
         (∀ j, j ≠ k.val → t.slot j = s.slot j))) ∧
  (∀ (i xid a id c : Nat) (pl : Plane) (src : Endpoint) (bs : List Byte) (ta : Option Nat) (s : State), s.stopped = false →
     s.slotOf id = some c → c < 72 → s.closed c = false → s.behind (.core id) = false →
     (∀ x ∈ [(Payload.put xid a bs ta, Payload.xferAck xid 0), (.bulk xid a bs ta, .bulkAck xid 0), (.result xid a bs ta, .resultAck xid),
         (.deliver xid a bs ta, .deliverAck xid 0 bs.length)],
       s.arrival i = some ⟨pl, src, .core id, x.1⟩ → a + bs.length ≤ 0x800000 →
       ∃ t, exec (.landing i) s = .next t ∧ t.tsRead c a bs.length = bs ∧
         (∀ b, b < a ∨ a + bs.length ≤ b → t.tsRead c b 1 = s.tsRead c b 1) ∧
         (∀ n, n < 16 → t.rd (Reg.TALLY c n) = s.rd (Reg.TALLY c n) + BitVec.ofNat 64 (if ta = some n then bs.length else 0)) ∧
         t.net.getLast? = some ⟨.reply, .core id, src, x.2⟩ ∧ t.em = s.em ∧ (∀ j, j ≠ c → t.slot j = s.slot j)) ∧
     (∀ o, s.arrival i = some ⟨pl, src, .core id, .xferData xid 0 bs⟩ → id < 64 → s.findOut c xid = some o → o.dropped = false →
       o.stream < 32 → o.kind ≠ .put → ∃ t, exec (.landing i) s = .next t ∧ t.tsRead c o.dst bs.length = bs ∧
         (∀ b, b < o.dst ∨ o.dst + bs.length ≤ b → t.tsRead c b 1 = s.tsRead c b 1) ∧
         (t.slot c).outs = (s.slot c).outs.filter (fun y => y.id != o.id) ∧
         (∀ n, n < 16 → t.rd (Reg.TALLY c n) = s.rd (Reg.TALLY c n) + BitVec.ofNat 64 (if o.tally = some n then o.len else 0)) ∧
         t.em = s.em ∧ (∀ j, j ≠ c → t.slot j = s.slot j))) ∧
  (∀ (i xid id c st : Nat) (pl : Plane) (src : Endpoint) (o : Out) (s : State), s.stopped = false →
     s.slotOf id = some c → c < 72 → id < 64 → s.arrival i = some ⟨pl, src, .core id, .xferAck xid st⟩ → s.findOut c xid = some o →
     o.stream < 32 →
     (st = 0 → ∃ t, exec (.transferAck i) s = .next t ∧ (t.slot c).outs = (s.slot c).outs.filter (fun y => y.id != o.id) ∧
       (∀ n, n < 16 → t.rd (Reg.TALLY c n) = s.rd (Reg.TALLY c n) +
         BitVec.ofNat 64 (if o.tally = some n ∧ o.kind ≠ .put then o.len else 0)) ∧
       t.net = s.net.eraseIdx i ∧ (t.slot c).ts = (s.slot c).ts ∧ t.em = s.em ∧ (∀ j, j ≠ c → t.slot j = s.slot j)) ∧
     (0 < st → st < 256 → (s.strm c o.stream).ser = o.ser → (s.strm c o.stream).state ≠ .idle →
       ∃ t, exec (.transferAck i) s = .next t ∧ (t.strm c o.stream).state = .idle ∧
         t.fld (Reg.STRM_STAT c o.stream) F.STRM_STAT_STATUS = st ∧ bit (t.fld Reg.AL_STAT F.AL_STAT_CLASS) 4 = true ∧
         (t.slot c).outs = (s.slot c).outs.filter (fun y => y.id != o.id) ∧ (t.slot c).ts = (s.slot c).ts ∧ t.em = s.em ∧
         (∀ j, j ≠ c → t.slot j = s.slot j)))

/-! ## Messages, multicast and combining nodes (09) -/

/-- MSG.SEND, MSG.REPLY, MSG.MCAST and MSG.COMB, from the main context, or a MSG.REPLY from the handler: a failing check gives its status
to rd and sends nothing; with no room the context stalls, as it does at a sluice for anything but a reply (16 R422), and a multicast while a
change of its group is being applied (16 R424); else rd receives 0 and the packets go, a request reserving its reply; a bulk multicast
joins the bulk multicasts of the core. The Tile Store and the other slots stay.
Forms shown to complete: msgSend, msgReply, shortMulticast, bulkMulticast, msgComb. The model's readings: log entry 14. -/
def Obligations.MessagesIssued : Prop :=
  ∀ (k : Fin 72) (h : Bool) (rd rs1 rs2 : Nat) (c : Cmd) (s : State), s.issues k h → rd < 32 → rs1 < 32 → rs2 < 32 →
    s.fetches k h (ncxWord rs2 rs1 0 rd) → c = s.getX k h rs1 ++ s.getX k h rs2 → (h = false ∨ opcode c = 0xA1) →
    ∀ x ∈ [(Instr.msgSend k h, 0xA0, false), (Instr.msgReply k h, 0xA1, false), (Instr.shortMulticast k h, 0xA2, false),
        (Instr.bulkMulticast k h, 0xA2, true), (Instr.msgComb k h, 0xA3, false)],
    opcode c = x.2.1 → isBulk c = x.2.2 →
      (∀ st, s.msgCheck (.core k h) c = some st → ∃ t, exec x.1 s = .next t ∧ s.retired t k h rd (BitVec.ofNat 64 st) ∧
        s.onlyCtx t k h) ∧
      (s.msgCheck (.core k h) c = none → (4 ≤ s.sendOcc k h ∨ (opcode c ≠ 0xA1 ∧ s.stalled k = true) ∨ s.groupChanging c = true ∨
          (opcode c = 0xA0 ∧ cb c 107 = true ∧ s.canReserve (.core k (cf c 106 103)) = false)) →
        ∃ t, exec x.1 s = .next t ∧ t.pc k h = s.pc k h ∧ t.net = s.net ∧ s.onlyCtx t k h) ∧
      (s.msgCheck (.core k h) c = none → s.sendOcc k h < 4 → (opcode c = 0xA1 ∨ s.stalled k = false) → s.groupChanging c = false →
          ¬(opcode c = 0xA0 ∧ cb c 107 = true ∧ s.canReserve (.core k (cf c 106 103)) = false) →
        ∃ t, exec x.1 s = .next t ∧ s.retired t k h rd 0 ∧ (t.slot k).ts = (s.slot k).ts ∧ t.em = s.em ∧
          (∀ j, j ≠ k.val → t.slot j = s.slot j) ∧
          (x.2.2 = true → t.net = s.net ∧ (t.slot k).bulks = (s.slot k).bulks ++ [⟨s.nextEntry, b01 h, c, 0, [], false⟩]) ∧
          (x.2.2 = false → ∀ pay m, pay = (List.range (msgPw c)).map (fun i => BitVec.ofNat 64 (s.tsLE k (padd c + 8 * i) 8)) →
            m = s.msgOf (.core k h) c pay (if opcode c = 0xA1 then 0 else s.nextEntry) →
            (opcode c ≠ 0xA3 → t.net = s.net ++ (s.msgDests c).map (fun e =>
              ⟨if opcode c = 0xA1 then .reply else .request, .core (s.idOf k), e, .msg (s.msgChan c) m⟩)) ∧
            (opcode c = 0xA3 → t.net = s.net ++ [⟨.data, .core (s.idOf k), .cn (cf c 119 115),
              .contrib (cf c 111 104) (cf c 103 86) (pay.flatMap (fun y => natLE 8 y.toNat))⟩]) ∧
            (opcode c = 0xA0 ∨ opcode c = 0xA2 → s.msgDests c ≠ [] → (t.slot k).sendM = (s.slot k).sendM ++
              [⟨s.nextEntry, c, m, (s.msgDests c).map (fun e => (e, s.msgChan c)), [], []⟩]) ∧
            (m.rq = true → s.fld (Reg.CH_CFG k m.rch + 0x18) F.CH_STAT_RSVN < 0xFFFF → t.fld (Reg.CH_CFG k m.rch + 0x18) F.CH_STAT_RSVN =
              s.fld (Reg.CH_CFG k m.rch + 0x18) F.CH_STAT_RSVN + 1)))

/-- A request arrives at a core's channel: with room, and its sender not waiting, it is admitted: the entry stands in the ring, behind a
SKIP entry, which holds its type, its length and its position, where the tail is too short (in DN-16 mode it runs on at the base instead),
WP is past it, LAST holds its header and the admission goes back; without, REFUSALS counts it,
its sender waits and the refusal goes back; a channel that is not enabled for it, or is of another fleet, refuses it for good with 0x09
or 0x04. A reply's entry goes into the ring the same way, and takes a reservation; one that no request waits for sets ORPHAN. What comes back to a core's
sends. An admission: the copy is no longer awaited, and an entry with none awaited or held leaves the buffer. A refusal for want of
room: the copy is held. A wake: the held copies for that channel go again, the oldest first, which alone carries the retry mark; where
answers from the channel are still awaited, they go with the last of those, so that the order of issue is kept (09 R242; the model's
choice of the moment, log entry 47); at a sluice of the sender the wake is taken and they stay held (16 R422). A refusal for good of a message without RQ sets FAIL, its status and the message alert, and the copy is gone.
Forms shown to complete: requestArrival, replyArrival, admissionAck, refusal, channelWake. The model's readings: log entries 14 and 47. -/
def Obligations.MessagesArrive : Prop :=
  (∀ (i id ch k : Nat) (src : Endpoint) (m : Msg) (h : Home) (s : State), s.stopped = false → s.slotOf id = some k → k < 72 → ch < 16 →
     s.behind (.core id) = false → h = .core k ch → m.pay.length ≤ 4 →
     ((s.arrival i = some ⟨.request, src, .core id, .msg ch m⟩ → s.finalRefusal h m false = none →
         s.needs h m.pay.length ≤ s.ringFree h.blk → (m.kind, m.sid) ∉ s.waiters k ch ∨ m.retry = true →
         ∃ t, exec (.requestArrival i) s = .next t ∧ s.entered t k ch m ∧ t.em = s.em ∧ (∀ j, j ≠ k → t.slot j = s.slot j) ∧
           t.net.getLast? = some ⟨.reply, .core id, src, .admission ch m.entry⟩) ∧
       (s.arrival i = some ⟨.reply, src, .core id, .msg ch m⟩ → s.finalRefusal h m true = none →
         0 < s.fld (Reg.CH_CFG k ch + 0x18) F.CH_STAT_RSVN → ∃ t, exec (.replyArrival i) s = .next t ∧ s.entered t k ch m ∧
           t.fld (Reg.CH_CFG k ch + 0x18) F.CH_STAT_RSVN = s.fld (Reg.CH_CFG k ch + 0x18) F.CH_STAT_RSVN - 1 ∧ t.em = s.em ∧ (∀ j, j ≠ k → t.slot j = s.slot j))) ∧
     (s.arrival i = some ⟨.request, src, .core id, .msg ch m⟩ → s.finalRefusal h m false = none →
       (s.ringFree h.blk < s.needs h m.pay.length ∨ ((m.kind, m.sid) ∈ s.waiters k ch ∧ m.retry = false)) →
       s.fld (Reg.CH_CFG k ch + 0x18) F.CH_STAT_REFUSALS < 0xFFFF → ∃ t, exec (.requestArrival i) s = .next t ∧
         t.fld (Reg.CH_CFG k ch + 0x18) F.CH_STAT_REFUSALS = s.fld (Reg.CH_CFG k ch + 0x18) F.CH_STAT_REFUSALS + 1 ∧
         (m.kind, m.sid) ∈ t.waiters k ch ∧ (t.slot k).ts = (s.slot k).ts ∧
         t.net = s.net.eraseIdx i ++ [⟨.reply, .core id, src, .refusal ch m.entry 0 m⟩] ∧
         t = { s with slots := t.slots, drs := t.drs, net := t.net } ∧ (∀ j, j ≠ k → t.slot j = s.slot j)) ∧
     (∀ st, s.arrival i = some ⟨.request, src, .core id, .msg ch m⟩ → s.finalRefusal h m false = some st →
       exec (.requestArrival i) s = .next { s with
         net := s.net.eraseIdx i ++ [⟨.reply, .core id, src, .refusal ch m.entry st m⟩] }) ∧
     (s.arrival i = some ⟨.reply, src, .core id, .msg ch m⟩ → s.finalRefusal h m true = none →
       s.fld (Reg.CH_CFG k ch + 0x18) F.CH_STAT_RSVN = 0 → ∃ t, exec (.replyArrival i) s = .next t ∧
         t.fld (Reg.CH_CFG k ch + 0x18) F.CH_STAT_ORPHAN = 1 ∧ bit (t.fld Reg.AL_STAT F.AL_STAT_CLASS) 5 = true ∧
         t.slots = s.slots ∧ t.em = s.em ∧ t.net = s.net.eraseIdx i)) ∧
  (∀ (i id ch n k : Nat) (pl : Plane) (src : Endpoint) (s : State), s.stopped = false → s.slotOf id = some k → k < 72 →
     (∀ e w b, s.arrival i = some ⟨pl, src, .core id, .admission ch n⟩ → (s.slot k).sendM.find? (fun y => y.id == n) = some e →
       w = e.waiting.erase (src, ch) → b = (if w = [] ∧ e.refused = [] then (s.slot k).sendM.filter (fun y => y.id != e.id)
         else (s.slot k).sendM.map (fun y => if y.id = e.id then { e with waiting := w } else y)) →
       ∃ t, exec (.admissionAck i) s = .next t ∧ s.answered t i k src ch b) ∧
     (∀ e m b, s.arrival i = some ⟨pl, src, .core id, .refusal ch n 0 m⟩ → m.type ≠ 2 →
       (s.slot k).sendM.find? (fun y => y.id == n) = some e →
       b = (s.slot k).sendM.map (fun y => if y.id = e.id then { e with
         waiting := e.waiting.erase (src, ch)
         refused := e.refused ++ [(src, ch)] } else y) →
       ∃ t, exec (.refusal i) s = .next t ∧ s.answered t i k src ch b) ∧
     (∀ e m st, s.arrival i = some ⟨pl, src, .core id, .refusal ch n st m⟩ → 0 < st → st < 256 → m.op < 256 → m.rq = false →
       m.type = 2 ∨ (s.slot k).sendM.find? (fun y => y.id == n) = some e → ∃ t, exec (.refusal i) s = .next t ∧
       t.fld (Reg.MU_STAT k) F.MU_STAT_FAIL = 1 ∧ t.fld (Reg.MU_STAT k) F.MU_STAT_FAIL_STATUS = st ∧
       t.fld (Reg.MU_STAT k) F.MU_STAT_FAIL_OP = m.op ∧ bit (t.fld Reg.AL_STAT F.AL_STAT_CLASS) 5 = true ∧
       (t.slot k).ts = (s.slot k).ts ∧ t.em = s.em ∧ ((∀ y ∈ (s.slot k).sendM, (src, ch) ∉ y.woken) → t.net = s.net.eraseIdx i) ∧
       (∀ j, j ≠ k → t.slot j = s.slot j)) ∧
     (s.arrival i = some ⟨pl, src, .core id, .wake ch⟩ →
       ((∀ y ∈ (s.slot k).sendM, (src, ch) ∉ y.waiting) → s.stalled (s.polderOf (.core id)) = false → ∃ t, exec (.channelWake i) s = .next t ∧
         t.net = s.net.eraseIdx i ++ s.reinjected k src ch (s.slot k).sendM ∧
         t = { s with slots := t.slots, net := t.net } ∧ (∀ j, j ≠ k → t.slot j = s.slot j)) ∧
       ((∃ y ∈ (s.slot k).sendM, (src, ch) ∈ y.waiting) ∨ s.stalled (s.polderOf (.core id)) = true → ∃ t, exec (.channelWake i) s = .next t ∧
         (t.slot k).sendM = (s.slot k).sendM.map (fun y =>
           if (src, ch) ∈ y.refused then { y with woken := (src, ch) :: y.woken.erase (src, ch) } else y) ∧
         t = { s with slots := t.slots, net := s.net.eraseIdx i } ∧ (∀ j, j ≠ k → t.slot j = s.slot j))))

/-- A channel that is enabled with a ring inside the Tile Store takes its kind, fleet, size and base, and starts with both pointers,
reservations and waiting senders at zero; a ring that is not inside sets CFG_ERR and EN stays 0. CH_CFG.RESET clears the same and
leaves the configuration; both hold of the host complex's channels too, whose rings must lie wholly in one region.
Forms shown to complete: channelEnable, channelReset. The model's readings: log entry 14. -/
def Obligations.ChannelsEnabledAndReset : Prop :=
  ∀ (k : Fin 72) (c : Fin 16) (n : Fin 32) (v : Word) (s : State), s.stopped = false →
    (s.reach (Reg.CH_CFG k c) = .ok → s.flag (Reg.CH_CFG k c) F.CH_CFG_EN = false → getF v F.CH_CFG_SIZE ≤ 12 →
      getF v F.CH_CFG_BASE % 256 = 0 →
      ((getF v F.CH_CFG_BASE + 256 * 2 ^ getF v F.CH_CFG_SIZE ≤ 0x800000 → ∃ t, exec (.channelEnable (.core k c) v) s = .next t ∧
        t.fld (Reg.CH_CFG k c) F.CH_CFG_EN = 1 ∧ (∀ f ∈ [F.CH_CFG_KIND, F.CH_CFG_FLEET, F.CH_CFG_SIZE, F.CH_CFG_BASE, F.CH_CFG_DISP],
          t.fld (Reg.CH_CFG k c) f = getF v f) ∧
        t.rd (Reg.CH_CFG k c + 0x10) = 0 ∧ t.fld (Reg.CH_CFG k c + 0x18) F.CH_STAT_RSVN = 0 ∧ t.waiters k c = [] ∧
        (t.slot k).ts = (s.slot k).ts ∧ t = { s with slots := t.slots, drs := t.drs } ∧ (∀ j, j ≠ k.val → t.slot j = s.slot j)) ∧
      (0x800000 < getF v F.CH_CFG_BASE + 256 * 2 ^ getF v F.CH_CFG_SIZE → ∃ t, exec (.channelEnable (.core k c) v) s = .next t ∧
        t.flag (Reg.CH_CFG k c) F.CH_CFG_EN = false ∧ t.fld (Reg.CH_CFG k c + 0x18) F.CH_STAT_CFG_ERR = 1))) ∧
    (s.reach (Reg.HCH_CFG n) = .ok → s.flag (Reg.HCH_CFG n) F.CH_CFG_EN = false → getF v F.CH_CFG_SIZE ≤ 12 →
      getF v F.HCH_CFG_BASE % 256 = 0 →
      ((s.regionFor (getF v F.HCH_CFG_BASE) (256 * 2 ^ getF v F.CH_CFG_SIZE)).isSome = true →
        ∃ t, exec (.channelEnable (.host n) v) s = .next t ∧ t.fld (Reg.HCH_CFG n) F.CH_CFG_EN = 1 ∧
          (∀ f ∈ [F.CH_CFG_KIND, F.CH_CFG_FLEET, F.CH_CFG_SIZE, F.HCH_CFG_BASE, F.CH_CFG_DISP],
            t.fld (Reg.HCH_CFG n) f = getF v f) ∧
          t.fld (Reg.HCH_CFG n) F.HCH_CFG_HART = (if getF v F.HCH_CFG_HART < s.opts.hostCores then getF v F.HCH_CFG_HART
            else s.fld (Reg.HCH_CFG n) F.HCH_CFG_HART) ∧
          t.rd (Reg.HCH_CFG n + 0x10) = 0 ∧ t.fld (Reg.HCH_STAT n) F.HCH_STAT_RSVN = 0 ∧
          t.fld (Reg.HCH_STAT n) F.HCH_STAT_PEND = 0 ∧ tget [] t.hostWait n = [] ∧
          t = { s with drs := t.drs, hostWait := t.hostWait }) ∧
      ((s.regionFor (getF v F.HCH_CFG_BASE) (256 * 2 ^ getF v F.CH_CFG_SIZE)).isSome = false →
        ∃ t, exec (.channelEnable (.host n) v) s = .next t ∧ t.flag (Reg.HCH_CFG n) F.CH_CFG_EN = false ∧
          t.fld (Reg.HCH_STAT n) F.CH_STAT_CFG_ERR = 1 ∧ t = { s with drs := t.drs })) ∧
    (s.reach (Reg.CH_CFG k c) = .ok → ∃ t, exec (.channelReset (.core k c)) s = .next t ∧ t.rd (Reg.CH_CFG k c + 0x10) = 0 ∧
      t.fld (Reg.CH_CFG k c + 0x18) F.CH_STAT_RSVN = 0 ∧ t.waiters k c = [] ∧ tfind (t.slot k).hpend c = none ∧
      (∀ o, o ≠ Reg.CH_CFG k c + 0x10 → o ≠ Reg.CH_CFG k c + 0x18 → t.rd o = s.rd o) ∧ (t.slot k).ts = (s.slot k).ts ∧
      t = { s with slots := t.slots, drs := t.drs } ∧ (∀ j, j ≠ k.val → t.slot j = s.slot j)) ∧
    (s.reach (Reg.HCH_CFG n) = .ok → ∃ t, exec (.channelReset (.host n)) s = .next t ∧ t.rd (Reg.HCH_CFG n + 0x10) = 0 ∧
      t.fld (Reg.HCH_STAT n) F.HCH_STAT_RSVN = 0 ∧ t.fld (Reg.HCH_STAT n) F.HCH_STAT_PEND = 0 ∧ tget [] t.hostWait n = [] ∧
      (∀ o, o ≠ Reg.HCH_CFG n + 0x10 → o ≠ Reg.HCH_STAT n → t.rd o = s.rd o) ∧
      t = { s with drs := t.drs, hostWait := t.hostWait })

/-- A bulk multicast goes in packets of at most 256 bytes, in order, one to every member of the group at its landing address; a packet
stays outstanding until every member has acknowledged it, and the last one of a multicast that no member failed adds its length to the
tally it names. A member's failure sets FAIL with its status. A combining node: ARM opens an IDLE session whose numbers are in range,
with a zero buffer and count; a contribution of the session's generation, inside its vector, is added to the buffer, element by element
modulo 2^32 or 2^64, and its bytes are counted, any other is discarded and counted so. The contribution that completes the count sends
the sums to every destination of the session in packets of at most 256 bytes, each at its address there, and the buffer is zero again; a
session with no destination is done at once. What a bulk or result packet carries lands at its member, is counted there and acknowledged
(R255, R258). CANCEL ends the session with 0x02 and its results in flight; the acknowledgement of the last result packet starts the
next generation, open again where AUTO is set.
Forms shown to complete: bulkPacket, memberAck, arm, cnCancel, contribution, resultAck, landing. The model's readings: log entry 14. -/
def Obligations.GroupsAndNodes : Prop :=
  (∀ (k : Fin 72) (b : Bulk) (s : State), s.stopped = false →
     (∀ g n, (s.slot k).bulks.find? (fun y => decide (y.pos < y.len)) = some b → s.sharedUsed k + s.rsvSum k < 512 →
       s.stalled k = false → g = mcGroup b.word → n = min 256 (b.len - b.pos) → s.groupAll g ≠ [] →
       ∃ t, exec (.bulkPacket k .none) s = .next t ∧
         t.net = s.net ++ (s.groupAll g).map (fun e => ⟨.data, .core (s.idOf k), e, .bulk (s.slot k).nextXfer
           (s.mgBase g e + bulkOff b.word + b.pos) (s.tsRead k (cf b.word 63 32 + b.pos) n) (s.mgTally g)⟩) ∧
         (t.slot k).bulks = (s.slot k).bulks.map (fun y => if y.id = b.id then { b with
           pos := b.pos + n
           out := b.out ++ [((s.slot k).nextXfer, s.groupAll g)] } else y) ∧ (t.slot k).ts = (s.slot k).ts ∧
         t = { s with slots := t.slots, net := t.net } ∧ (∀ j, j ≠ k.val → t.slot j = s.slot j)) ∧
     (∀ i id pl src xid out, s.slotOf id = some k.val → s.arrival i = some ⟨pl, src, .core id, .bulkAck xid 0⟩ →
       (s.slot k).bulks.find? (fun y => y.out.any (fun o => o.1 == xid)) = some b →
       out = (b.out.map (fun o => if o.1 = xid then (o.1, o.2.erase src) else o)).filter (fun o => !o.2.isEmpty) →
       ∃ t, exec (.memberAck i) s = .next t ∧ t.net = s.net.eraseIdx i ∧
         ((b.pos < b.len ∨ out ≠ []) → (t.slot k).bulks =
           (s.slot k).bulks.map (fun y => if y.id = b.id then { b with out := out } else y) ∧ (∀ o, t.rd o = s.rd o)) ∧
         (b.len ≤ b.pos → out = [] → (t.slot k).bulks = (s.slot k).bulks.filter (fun y => y.id != b.id) ∧
           (∀ n, n < 16 → t.rd (Reg.TALLY k n) = s.rd (Reg.TALLY k n) + BitVec.ofNat 64
             (if b.failed = false ∧ cb b.word 67 = true ∧ cf b.word 71 68 = n then b.len else 0))) ∧
         (t.slot k).ts = (s.slot k).ts ∧ t = { s with slots := t.slots, drs := t.drs, net := t.net } ∧
         (∀ j, j ≠ k.val → t.slot j = s.slot j)) ∧
     (∀ i id pl src xid st, s.slotOf id = some k.val → s.arrival i = some ⟨pl, src, .core id, .bulkAck xid st⟩ → 0 < st → st < 256 →
       (s.slot k).bulks.find? (fun y => y.out.any (fun o => o.1 == xid)) = some b →
       ∃ t, exec (.memberAck i) s = .next t ∧ t.fld (Reg.MU_STAT k) F.MU_STAT_FAIL = 1 ∧
         t.fld (Reg.MU_STAT k) F.MU_STAT_FAIL_STATUS = st ∧ t.fld (Reg.MU_STAT k) F.MU_STAT_FAIL_OP = 0xA2 ∧
         (t.slot k).ts = (s.slot k).ts)) ∧
  (∀ (c : Fin 32) (s : State), s.stopped = false →
     (∀ len, s.reach (Reg.CN_CTL c) = .ok → len = s.fld (Reg.CN_SESS c) F.CN_SESS_LEN →
       (s.cnState c = 0 → s.fld (Reg.CN_SESS c) F.CN_SESS_NCONTRIB ≠ 0 → len % 16 = 0 → 16 ≤ len → len ≤ 262144 →
         ∃ t, exec (.arm c) s = .next t ∧ t.cnState c = 1 ∧ t.rd (Reg.CN_COUNT c) = 0 ∧ (t.cn c).buf = [] ∧
           t.cnGen c = s.cnGen c ∧ (∀ o, o ≠ Reg.CN_COUNT c → o ≠ Reg.CN_STAT c → t.rd o = s.rd o) ∧
           t = { s with drs := t.drs, cns := t.cns } ∧ (∀ j, j ≠ c.val → t.cn j = s.cn j)) ∧
       ((s.cnState c ≠ 0 ∨ s.fld (Reg.CN_SESS c) F.CN_SESS_NCONTRIB = 0 ∨ len % 16 ≠ 0 ∨ len < 16 ∨ 262144 < len) →
         exec (.arm c) s = .next s) ∧
       (s.cnState c ≠ 0 → ∃ t, exec (.cnCancel c) s = .next t ∧ t.cnState c = 0 ∧ t.fld (Reg.CN_STAT c) F.CN_STAT_STATUS = 0x02 ∧
         t.cnGen c = (s.cnGen c + 1) % 256 ∧ t.rd (Reg.CN_COUNT c) = 0 ∧ (t.cn c).buf = [] ∧ (t.cn c).outstanding = 0 ∧
         t.net = s.net.filter (fun p => match p.body with | .result _ _ _ _ => decide (p.src ≠ Endpoint.cn c) | _ => true) ∧
         t = { s with drs := t.drs, cns := t.cns, net := t.net } ∧ (∀ j, j ≠ c.val → t.cn j = s.cn j))) ∧
     (∀ i pl src gen off bs, s.arrival i = some ⟨pl, src, .cn c, .contrib gen off bs⟩ → (s.cn c).queue = [] →
       s.behind (.cn c) = false → s.stalled (80 + c / 16) = false →
       (∀ w, w = (if s.flag (Reg.CN_SESS c) F.CN_SESS_ETYPE then 8 else 4) → s.cnState c = 1 → gen = s.cnGen c →
         off + bs.length ≤ s.fld (Reg.CN_SESS c) F.CN_SESS_LEN → s.fld (Reg.CN_SESS c) F.CN_SESS_LEN ≤ 262144 →
         s.fld (Reg.CN_COUNT c) F.CN_COUNT_BYTES + bs.length <
           s.fld (Reg.CN_SESS c) F.CN_SESS_NCONTRIB * s.fld (Reg.CN_SESS c) F.CN_SESS_LEN →
         ∃ t, exec (.contribution c i) s = .next t ∧ (t.cn c).queue = [] ∧ t.cnState c = 1 ∧
           t.fld (Reg.CN_COUNT c) F.CN_COUNT_BYTES = s.fld (Reg.CN_COUNT c) F.CN_COUNT_BYTES + bs.length ∧
           (∀ n, n < bs.length / w → readLE zeroByte (t.cn c).buf (off + w * n) w =
             (readLE zeroByte (s.cn c).buf (off + w * n) w + leNat ((bs.drop (w * n)).take w)) % 2 ^ (8 * w)) ∧
           (∀ a, a < off ∨ off + bs.length ≤ a → sget zeroByte (t.cn c).buf a = sget zeroByte (s.cn c).buf a) ∧
           t = { s with drs := t.drs, cns := t.cns, net := s.net.eraseIdx i } ∧ (∀ j, j ≠ c.val → t.cn j = s.cn j)) ∧
       (∀ w len sum, w = (if s.flag (Reg.CN_SESS c) F.CN_SESS_ETYPE then 8 else 4) → len = s.fld (Reg.CN_SESS c) F.CN_SESS_LEN →
         sum = addVec w (s.cn c).buf off bs → s.cnState c = 1 → gen = s.cnGen c → off + bs.length ≤ len → len ≤ 262144 →
         s.fld (Reg.CN_COUNT c) F.CN_COUNT_BYTES + bs.length = s.fld (Reg.CN_SESS c) F.CN_SESS_NCONTRIB * len →
         ∃ t, exec (.contribution c i) s = .next t ∧ (t.cn c).buf = [] ∧ t.slots = s.slots ∧ t.em = s.em ∧
           (∀ j, j ≠ c.val → t.cn j = s.cn j) ∧
           t.net = s.net.eraseIdx i ++ (List.range (cdiv len 256)).flatMap (fun o => (s.cnDests c).map (fun d =>
             ⟨.data, .cn c, d.1, .result gen (d.2.1 + 256 * o) (readBytes zeroByte sum (256 * o) (min 256 (len - 256 * o))) d.2.2⟩)) ∧
           (s.cnDests c ≠ [] → t.cnState c = 2 ∧ t.cnGen c = gen ∧ (t.cn c).outstanding = (s.cnDests c).length * cdiv len 256) ∧
           (s.cnDests c = [] → t.cnState c = b01 (s.flag (Reg.CN_SESS c) F.CN_SESS_AUTO) ∧ t.cnGen c = (gen + 1) % 256)) ∧
       (s.cnState c ≠ 2 → (s.cnState c ≠ 1 ∨ gen ≠ s.cnGen c ∨ s.fld (Reg.CN_SESS c) F.CN_SESS_LEN < off + bs.length) →
         s.fld (Reg.CN_STAT c) F.CN_STAT_DISCARDS < 0xFFFF → ∃ t, exec (.contribution c i) s = .next t ∧
           t.fld (Reg.CN_STAT c) F.CN_STAT_DISCARDS = s.fld (Reg.CN_STAT c) F.CN_STAT_DISCARDS + 1 ∧ (t.cn c).buf = (s.cn c).buf ∧
           t = { s with drs := t.drs, cns := t.cns, net := s.net.eraseIdx i } ∧ (∀ j, j ≠ c.val → t.cn j = s.cn j)) ∧
       (s.cnState c = 2 → ∃ t, exec (.contribution c i) s = .next t ∧ (t.cn c).queue = [((contribId src).1, (contribId src).2, gen,
         off, bs)] ∧ (t.cn c).buf = (s.cn c).buf ∧ (∀ o, t.rd o = s.rd o))) ∧
     (∀ i pl src, s.arrival i = some ⟨pl, src, .cn c, .resultAck (s.cnGen c)⟩ → s.cnState c = 2 →
       (1 < (s.cn c).outstanding → ∃ t, exec (.resultAck i) s = .next t ∧ (t.cn c).outstanding = (s.cn c).outstanding - 1 ∧
         t.cnState c = 2 ∧ t = { s with cns := t.cns, net := s.net.eraseIdx i }) ∧
       ((s.cn c).outstanding ≤ 1 → ∃ t, exec (.resultAck i) s = .next t ∧ t.cnGen c = (s.cnGen c + 1) % 256 ∧
         t.cnState c = b01 (s.flag (Reg.CN_SESS c) F.CN_SESS_AUTO) ∧ t.rd (Reg.CN_COUNT c) = 0 ∧
         t = { s with drs := t.drs, cns := t.cns, net := s.net.eraseIdx i }))) ∧
  (∀ (i a : Nat) (pl : Plane) (src dst : Endpoint) (bs : List Byte) (ta : Option Nat) (b a0 : Payload) (s : State), s.stopped = false →
     ((∃ x, b = .bulk x a bs ta ∧ a0 = .bulkAck x 0) ∨ (∃ g, b = .result g a bs ta ∧ a0 = .resultAck g)) →
     s.arrival i = some ⟨pl, src, dst, b⟩ → s.behind dst = false →
     (∀ id k, dst = .core id → s.slotOf id = some k → k < 72 → a + bs.length ≤ 0x800000 → ∃ t, exec (.landing i) s = .next t ∧
       t.tsRead k a bs.length = bs ∧ (∀ x, x < a ∨ a + bs.length ≤ x → t.tsRead k x 1 = s.tsRead k x 1) ∧
       (∀ n, n < 16 → t.rd (Reg.TALLY k n) = s.rd (Reg.TALLY k n) + BitVec.ofNat 64 (if ta = some n then bs.length else 0)) ∧
       t.net.getLast? = some ⟨.reply, dst, src, a0⟩ ∧ t.em = s.em ∧ (∀ j, j ≠ k → t.slot j = s.slot j)) ∧
     (∀ n, n < 20 → dst = .nmu n → a + bs.length ≤ 0x100000 → ∃ t, exec (.landing i) s = .next t ∧ t.stRead n a bs.length = bs ∧
       (∀ x, x < a ∨ a + bs.length ≤ x → t.stRead n x 1 = s.stRead n x 1) ∧
       t.rd (Reg.NMU_ARRIVE n) = s.rd (Reg.NMU_ARRIVE n) + BitVec.ofNat 64 bs.length ∧
       t = { s with nmus := t.nmus, drs := t.drs, net := s.net.eraseIdx i ++ [⟨.reply, dst, src, a0⟩] } ∧
       (∀ j, j ≠ n → t.nmu j = s.nmu j)))

/-! ## Memory ports and translation (11) -/

/-- At a frame boundary a port that is ACTIVE or HALF sends the frame that is to be sent again, as it was, or a new one: 3968 bytes with a
good CRC, its SEQ the next number and its ACK that of the last frame received in order, which the working lanes carry as 4096 bytes with
FEC parity and scrambled. No write leaves while a read of its block waits or is outstanding. A swap is announced for the frame 32 ahead
in its direction, and with that frame the map shows it. A frame from a stack, as the lanes carried it and after FEC decoding: one with a
bad CRC or another SEQ than the next is dropped, with NAK and the replay counted; any other sets RXSEQ, takes the frames it acknowledges
off those kept and the writes it reports done; a slot with the data of a read, good by its check bits, gives the block to whoever asked
for it. A port's states: a training that finds lanes enough makes it ACTIVE, or HALF where spares do not cover, with the lane map, in
which lanes replaced before stay so; while PHY_REFCLK is absent no training ends (19 R492); a third failure in a row, or too few lanes, loses
it, as MP_CTL.LOSE does, which forgets its reads
and writes: a block whose write was not sent stands as it was before; MP_CTL.RETRAIN trains a port in service again, from SEQ 0. A lane is
replaced by the first free spare of its direction, and with none free the port trains again, that direction at half width.
Forms shown to complete: uzodalFrame, txFrame, trainingDone, laneSwap, mpLose, mpRetrain.
The model's readings: log entries 13, 15, 42 and 50. -/
def Obligations.PortsAndFrames : Prop :=
  (∀ (p : Fin 20) (s : State), s.stopped = false → (s.mpState p = 2 ∨ s.mpState p = 3) →
     ((s.port p).resend = [] → (∀ w ∈ (s.port p).wrQ, w.bytes.length = 256) → (s.port p).txSeq < 1024 → (s.port p).rxSeq < 1024 →
       ∃ t f, exec (.txFrame p) s = .next t ∧ (t.port p).wire = toWire (s.port p).txLanes f ∧ f.length = 3968 ∧ fCrcOk f = true ∧
         ctrlSeq (fCtrl f) = (s.port p).txSeq ∧ ctrlAck (fCtrl f) = (s.port p).rxSeq ∧ ctrlNak (fCtrl f) = (s.port p).nak ∧
         (t.port p).txSeq = ((s.port p).txSeq + 1) % 1024 ∧ (t.port p).rxSeq = (s.port p).rxSeq ∧
         ((t.port p).kept.getLast? = some ((s.port p).txSeq, f)) ∧
         (∀ w, w ∈ (t.port p).wrOut ++ (t.port p).wrQ ↔ w ∈ (s.port p).wrOut ++ (s.port p).wrQ) ∧
         (∀ r, r ∈ (t.port p).rdOut ++ (t.port p).rdQ ↔ r ∈ (s.port p).rdOut ++ (s.port p).rdQ) ∧
         (∀ w ∈ (t.port p).wrOut, w ∉ (s.port p).wrOut → ∀ r ∈ (s.port p).rdQ ++ (s.port p).rdOut, r.blk ≠ w.blk) ∧
         (∀ w, (s.port p).swaps = [w] → (s.port p).moves = [] → (t.port p).swaps = [] ∧ (t.port p).moves = [{ w with
           atSeq := ((if w.tx then (s.port p).txSeq else (s.port p).rxSeq + 1) + 32) % 1024 }]) ∧
         ((s.port p).moves = [] → t.drs = s.drs ∧ t.reports = s.reports) ∧
         t = { s with ports := t.ports, drs := t.drs, reports := t.reports } ∧ (∀ q, q ≠ p.val → t.port q = s.port q)) ∧
     (∀ n rest f, (s.port p).resend = n :: rest → (s.port p).kept.find? (fun x => x.1 == n) = some (n, f) →
       ∃ t, exec (.txFrame p) s = .next t ∧ t.port p = { s.port p with
         resend := rest
         wire := toWire (s.port p).txLanes f } ∧ t = { s with ports := t.ports } ∧ (∀ q, q ≠ p.val → t.port q = s.port q))) ∧
  (∀ (p : Fin 20) (wire f : List Byte) (s : State), s.stopped = false → (s.mpState p = 2 ∨ s.mpState p = 3) →
     f = (fromWire (s.port p).rxLanes wire).1 →
     (fCrcOk f = false ∨ ctrlSeq (fCtrl f) ≠ ((s.port p).rxSeq + 1) % 1024 → s.passages = [] →
       s.fld (Reg.MP_ERR p) F.MP_ERR_REPLAY < 0xFFFF → ∃ t, exec (.uzodalFrame p wire) s = .next t ∧ (t.port p).nak = true ∧
         (t.port p).rxSeq = (s.port p).rxSeq ∧ (t.port p).kept = (s.port p).kept ∧
         t.fld (Reg.MP_ERR p) F.MP_ERR_REPLAY = s.fld (Reg.MP_ERR p) F.MP_ERR_REPLAY + 1 ∧
         t = { s with ports := t.ports, drs := t.drs } ∧ (∀ o, o ≠ Reg.MP_ERR p → t.rd o = s.rd o)) ∧
     (fCrcOk f = true → ctrlSeq (fCtrl f) = ((s.port p).rxSeq + 1) % 1024 → ctrlNak (fCtrl f) = false → bit (fCtrl f) 5 = false →
       ((∀ i, i < 15 → descType (fDesc f i) = 0) → (∀ w ∈ (s.port p).moves, w.tx = true ∨ w.atSeq ≠ ctrlSeq (fCtrl f)) →
         ∃ t, exec (.uzodalFrame p wire) s = .next t ∧ t.port p = { s.port p with
           rxSeq := ctrlSeq (fCtrl f)
           kept := dropAcked (s.port p).kept (ctrlAck (fCtrl f))
           resend := (s.port p).resend.filter (fun n => (dropAcked (s.port p).kept (ctrlAck (fCtrl f))).any (fun x => x.1 == n))
           wrOut := (s.port p).wrOut.drop (bits (fCtrl f) 6 5) } ∧
         t = { s with ports := t.ports } ∧ (∀ q, q ≠ p.val → t.port q = s.port q)) ∧
       (∀ n lane, (∀ i, i < 15 → descType (fDesc f i) = 0) → lane < 32 → n < 2 →
         (s.port p).moves = [⟨false, n, lane, ctrlSeq (fCtrl f)⟩] → ∃ t, exec (.uzodalFrame p wire) s = .next t ∧
           t.fld (Reg.MP_LANES p) (spareFld false n) = 0x80 + lane ∧ (t.port p).moves = [] ∧
           t.reports.length = s.reports.length + 1 ∧ (∀ o, o ≠ Reg.MP_LANES p → t.rd o = s.rd o) ∧ t.em = s.em ∧ t.net = s.net) ∧
       (∀ r core xid lo len, descType (fDesc f 0) = 1 → (∀ i, 0 < i → i < 15 → descType (fDesc f i) = 0) → (s.port p).moves = [] →
         (s.port p).rdOut.find? (fun x => x.tag == descTag (fDesc f 0)) = some r → r.who = .xfer core xid lo len none →
         (s.port p).writing r.blk = false →
         eccCheck (fSlot f 0) (bits (fDesc f 0) 0 48) = .good →
         ∃ t, exec (.uzodalFrame p wire) s = .next t ∧ (t.port p).rdOut = (s.port p).rdOut.erase r ∧
           t.net = s.net ++ [⟨.data, .port p, core, .xferData xid 0 (((fSlot f 0).drop lo).take len)⟩] ∧
           t.emBytes p (256 * r.blk) 256 = fSlot f 0 ∧
           t = { s with ports := t.ports, em := t.em, net := t.net } ∧ (∀ q, q ≠ p.val → t.port q = s.port q)))) ∧
  (∀ (p : Fin 20) (s : State), s.stopped = false → p.val < s.opts.memPorts →
     (s.phyOff = true → ∀ ok badRx badTx, exec (.trainingDone p ok badRx badTx) s = .next s) ∧
     (∀ rx tx badRx badTx (old : Bool → List (Nat × Nat)), s.phyOff = false → s.mpState p = 1 → s.xfHeld = [] →
       (∀ d, old d = lanesOf ((List.range 2).map (fun i => s.fld (Reg.MP_LANES p) (spareFld d i)))) →
       assignLanes 32 2 (old false) badRx = some rx → assignLanes 16 2 (old true) badTx = some tx →
       ∃ t, exec (.trainingDone p true badRx badTx) s = .next t ∧ (t.port p).halfRx = (rx.2 || ((s.port p).fast && (s.port p).halfRx)) ∧
         (t.port p).halfTx = (tx.2 || ((s.port p).fast && (s.port p).halfTx)) ∧
         t.mpState p = (if (t.port p).halfRx || (t.port p).halfTx then 3 else 2) ∧
         t.rd (Reg.MP_LANES p) = BitVec.ofNat 64
           (laneByte rx.1 0 * 2 ^ 24 + laneByte rx.1 1 * 2 ^ 16 + laneByte tx.1 0 * 2 ^ 8 + laneByte tx.1 1) ∧
         (t.port p).fails = 0 ∧ t.em = s.em ∧ t.slots = s.slots) ∧
     (∀ badRx badTx, s.phyOff = false → s.mpState p = 1 → s.passages = [] → ∃ t, exec (.trainingDone p false badRx badTx) s = .next t ∧
       t.mpState p = (if 2 ≤ (s.port p).fails then 4 else 1) ∧ ((s.port p).fails < 2 → (t.port p).fails = (s.port p).fails + 1)) ∧
     (s.reach (Reg.MP_CTL p) = .ok →
       (s.mpLost p = false → s.passages = [] → s.xfHeld = [] → ∃ t, exec (.mpLose p) s = .next t ∧ t.mpLost p = true ∧
         (t.port p).rdQ = [] ∧ (t.port p).rdOut = [] ∧ (t.port p).wrQ = [] ∧ (t.port p).wrOut = [] ∧ (t.port p).wrHeld = [] ∧
         t.slots = s.slots ∧ ((s.port p).wrOut ++ (s.port p).wrQ ++ (s.port p).wrHeld = [] → t.em = s.em)) ∧
       (∀ w, s.mpLost p = false → s.passages = [] → s.xfHeld = [] → (s.port p).wrOut = [] → (s.port p).wrQ = [w] →
         (s.port p).wrHeld = [] → w.old.length = 256 → ∃ t, exec (.mpLose p) s = .next t ∧
         t.emBytes p (256 * w.blk) 256 = w.old ∧ t.slots = s.slots) ∧
       ((s.mpState p = 2 ∨ s.mpState p = 3) → s.passages = [] → ∃ t, exec (.mpRetrain p) s = .next t ∧ t.mpState p = 1 ∧
         (t.port p).rdQ = (s.port p).rdOut ++ (s.port p).rdQ ∧ (t.port p).wrQ = (s.port p).wrOut ++ (s.port p).wrQ ∧
         (t.port p).txSeq = 0 ∧ (t.port p).kept = [] ∧
         ((s.port p).moves = [] → (s.port p).swaps = [] → t.reports = s.reports) ∧
         t = { s with drs := t.drs, ports := t.ports, reports := t.reports }) ∧
       (s.mpState p ≠ 2 → s.mpState p ≠ 3 → exec (.mpRetrain p) s = .next s)) ∧
     (∀ lane tx (free : Nat → Bool), lane < (if tx then 16 else 32) → (s.mpState p = 2 ∨ s.mpState p = 3) → s.passages = [] →
       (∀ n, free n = (!bit (s.fld (Reg.MP_LANES p) (spareFld tx n)) 7 &&
         !((s.port p).swaps ++ (s.port p).moves).any (fun w => w.tx == tx && w.spare == n))) →
       (∀ n, n < 2 → free n = true → (n = 1 → free 0 = false) → ∃ t, exec (.laneSwap (.mem p) tx lane) s = .next t ∧
         t.port p = { s.port p with swaps := (s.port p).swaps ++ [⟨tx, n, lane, 0⟩] } ∧ t = { s with ports := t.ports }) ∧
       (free 0 = false → free 1 = false → ∃ t, exec (.laneSwap (.mem p) tx lane) s = .next t ∧ t.mpState p = 1 ∧
         (tx = false → (t.port p).halfRx = true) ∧ (tx = true → (t.port p).halfTx = true))))

/-- A write request at its port, in service: once the block that it changes a part of has come, the block with the new bytes stands in
the stack for every later request and joins the writes of the port, no other byte of External Memory changes, a copy of its line in the
sector of the core that wrote takes the new bytes, no other copy changes (08 R219), and the acknowledgement goes back; until then the block is asked for, and nothing else happens. In a PROTECTED region the
difference goes to the parity port, and the write is held until that port has added it to the parity and acknowledged. An address in no
region is refused with 0x04, a closed polder with 0x0E. A read request joins the reads of its port, where the stack is in service, in its
class and for its passage, and is counted; what waits in the write buffer is answered at once; at a LOST stack without protection it is
UNCORRECTABLE. The block of a PROTECTED region that a rebuild gives, once no difference to its row is on its way, goes to whoever asked
for it, and back to a stack in service; one that cannot be rebuilt is UNCORRECTABLE. The scrubber reads block after block.
Forms shown to complete: memoryRequest, parityDelta, rebuildDone, scrub. The model's readings: log entries 15, 46 and 50. -/
def Obligations.MemoryReadAndWritten : Prop :=
  (∀ (i xid p blk : Nat) (pl : Plane) (src : Endpoint) (req : MemReq) (w : Place) (s : State), s.stopped = false → s.asks = [] →
     p < 20 → s.arrival i = some ⟨pl, src, .port p, .mem xid req⟩ → req.write = true → req.len = req.bytes.length →
     (s.behind (.port p) = true → ∃ t, exec (.memoryRequest i) s = .next t ∧ t = { s with
       net := s.net.eraseIdx i ++ [⟨.reply, .port p, src, .xferAck xid 0x0E⟩]
       got := t.got }) ∧
     (s.behind (.port p) = false → s.place req.pa = none → ∃ t, exec (.memoryRequest i) s = .next t ∧ t = { s with
       net := s.net.eraseIdx i ++ [⟨.reply, .port p, src, .xferAck xid 0x04⟩]
       got := t.got }) ∧
     (s.place req.pa = some w → w.stack = p → blk = w.loc / 256 → w.loc % 256 + req.len ≤ 256 → s.mpLost p = false →
       s.badBlock p blk = false → ∀ old u, s.blockRead req.cls p blk = (0, old, u) → old.length = 256 →
       (u.asks ≠ [] → req.len < 256 ∨ (∃ r, s.protectedAt w.loc = some r ∧ s.mpLost (s.parityStack r w.loc) = false) →
         ∃ t, exec (.memoryRequest i) s = .next t ∧ (t.port p).coming blk = true ∧ t.em = s.em ∧ t.net = s.net ∧ t.slots = s.slots) ∧
       (s.protectedAt w.loc = none → req.len = 256 ∨ u.asks = [] → ∃ t, exec (.memoryRequest i) s = .next t ∧
         t.emBytes p (256 * blk) 256 = mergeBytes old (w.loc % 256) req.bytes ∧
         (∀ a, a < emKey p (256 * blk) ∨ emKey p (256 * blk) + 256 ≤ a → sget zeroByte t.em a = sget zeroByte s.em a) ∧
         (t.port p).wrQ.map (fun x => (x.blk, x.bytes)) =
           (s.port p).wrQ.map (fun x => (x.blk, x.bytes)) ++ [(blk, mergeBytes old (w.loc % 256) req.bytes)] ∧
         s.copiesRenewed t src req ∧ t.net.getLast? = some ⟨.reply, .port p, src, .xferAck xid 0⟩ ∧ t.slots = s.slots) ∧
       (∀ r, s.protectedAt w.loc = some r → s.mpLost (s.parityStack r w.loc) = false → u.asks = [] →
         ∃ t, exec (.memoryRequest i) s = .next t ∧ t.emBytes p (256 * blk) 256 = mergeBytes old (w.loc % 256) req.bytes ∧
         (∀ a, a < emKey p (256 * blk) ∨ emKey p (256 * blk) + 256 ≤ a → sget zeroByte t.em a = sget zeroByte s.em a) ∧
         (t.port p).wrHeld.map (fun x => x.blk) = (s.port p).wrHeld.map (fun x => x.blk) ++ [blk] ∧ (t.port p).wrQ = (s.port p).wrQ ∧
         s.copiesRenewed t src req ∧ t.net.getLast? = some ⟨.data, .port p, .port (s.parityStack r w.loc), .delta src xid blk
           (xorBytes old (mergeBytes old (w.loc % 256) req.bytes))⟩ ∧ t.slots = s.slots))) ∧
  (∀ (i p d xid blk : Nat) (pl : Plane) (to_ : Endpoint) (w : PWrite) (par bs : List Byte) (u s : State), s.stopped = false →
     s.asks = [] → bs.length = 256 → s.arrival i = some ⟨pl, .port d, .port p, .delta to_ xid blk bs⟩ → s.mpLost p = false → d ≠ p →
     s.blockRead clsWalker p blk = (0, par, u) → par.length = 256 → u.asks = [] →
     (s.port d).wrHeld.find? (fun x => x.blk == blk) = some w → ∃ t, exec (.parityDelta i) s = .next t ∧
       t.emBytes p (256 * blk) 256 = xorBytes par bs ∧
       (∀ a, a < emKey p (256 * blk) ∨ emKey p (256 * blk) + 256 ≤ a → sget zeroByte t.em a = sget zeroByte s.em a) ∧
       (t.port d).wrHeld = (s.port d).wrHeld.erase w ∧ (t.port d).wrQ = (s.port d).wrQ ++ [w] ∧
       t.net = s.net.eraseIdx i ++ [⟨.reply, .port p, to_, .xferAck xid 0⟩] ∧ t.slots = s.slots) ∧
  (∀ (i xid : Nat) (p : Fin 20) (pl : Plane) (src : Endpoint) (req : MemReq) (w : Place) (s : State), s.stopped = false → s.asks = [] →
     (s.arrival i = some ⟨pl, src, .port p, .mem xid req⟩ → req.write = false → req.alloc = false →
       s.behind (.port p) = false → s.place req.pa = some w →
       (s.mpLost p = false → s.badBlock p (w.loc / 256) = false → (s.port p).writing (w.loc / 256) = false →
         ∃ t, exec (.memoryRequest i) s = .next t ∧ (t.port p).rdQ = (s.port p).rdQ ++ [⟨(s.port p).nextTag, w.loc / 256, req.cls,
           req.pass, s.time, 0, .xfer src xid (w.loc % 256) req.len none⟩] ∧
           t.rd (Reg.MP_RD p) = s.rd (Reg.MP_RD p) + 1 ∧ t.net = s.net.eraseIdx i ∧ t.em = s.em ∧ t.slots = s.slots) ∧
       (s.mpLost p = false → s.badBlock p (w.loc / 256) = false → (s.port p).writing (w.loc / 256) = true →
         ∃ t, exec (.memoryRequest i) s = .next t ∧ t = { s with
           net := s.net.eraseIdx i ++ [⟨.data, .port p, src,
             .xferData xid 0 (((s.emBytes p (256 * (w.loc / 256)) 256).drop (w.loc % 256)).take req.len)⟩]
           got := t.got }) ∧
       (s.mpLost p = true → s.protectedAt w.loc = none → ∃ t, exec (.memoryRequest i) s = .next t ∧
         t.net = s.net.eraseIdx i ++ [⟨.data, .port p, src, .xferData xid 0x0B []⟩] ∧ t.em = s.em ∧
         t.reports.length = s.reports.length + 1 ∧ t = { s with net := t.net, reports := t.reports, got := t.got })) ∧
     (∀ j blk lo len st bs u, (s.port p).rebuilds[j]? = some (blk, .xfer src xid lo len none) →
       s.rebuild p blk = (st, bs, u) →
       (s.deltaPending blk = true → exec (.rebuildDone p j) s = .next s) ∧
       (s.deltaPending blk = false → u.asks = [] → st = 0 → bs.length = 256 → ∃ t, exec (.rebuildDone p j) s = .next t ∧
         t.net = s.net ++ [⟨.data, .port p, src, .xferData xid 0 ((bs.drop lo).take len)⟩] ∧
         (t.port p).rebuilds = (s.port p).rebuilds.eraseIdx j ∧
         (s.mpLost p = false → (s.port p).writing blk = false → t.emBytes p (256 * blk) 256 = bs ∧ t.badBlock p blk = false) ∧
         (s.mpLost p = true → t.em = s.em) ∧ t.slots = s.slots) ∧
       (s.deltaPending blk = false → u.asks = [] → st ≠ 0 → ∃ t, exec (.rebuildDone p j) s = .next t ∧
         t.net = s.net ++ [⟨.data, .port p, src, .xferData xid 0x0B []⟩] ∧ t.em = s.em ∧ t.slots = s.slots)) ∧
     ((s.mpState p = 2 ∨ s.mpState p = 3) → s.fld (Reg.MP_CTL p) F.MP_CTL_SCRUB_H ≠ 0 →
       (s.port p).writing (s.port p).scrub = false → ∃ t, exec (.scrub p) s = .next t ∧
         (t.port p).scrub = ((s.port p).scrub + 1) % 281250000 ∧ (t.port p).rdQ = (s.port p).rdQ ++ [⟨(s.port p).nextTag,
           (s.port p).scrub, clsScrub, 0, s.time, 0, .scrub⟩] ∧ t.em = s.em ∧ t.slots = s.slots ∧ t.net = s.net))

/-- Translation: a walk that ends well lets its stream go on, and any other makes it FAULTED with the walk's status. XL_INV.GO takes every
translation of the range out of the sectors' and the host attach port's caches and marks the transfers that used one, and BUSY is clear
again once none of them is outstanding; while BUSY it is ignored. XF_RING takes its fields while EN is 0, and EN where the ring lies in one region; XF_PTR.RP
takes a value that frees no more than is used. A walk whose tables have not come from their ports is still to end.
Forms shown to complete: walkComplete, xlInv, invalidationDone, xfRingEnable, xfRp. The model's readings: log entry 15. -/
def Obligations.TranslationKept : Prop :=
  ∀ (k : Fin 72) (i : Fin 32) (v : Word) (rp : Nat) (e : Emit) (es : List Emit) (s : State), s.stopped = false →
    (∀ va r, (s.strm k i).walking = true → (s.strm k i).emitted = e :: es → s.walkerFull (s.slot k).fleet = false → s.asks = [] →
      va = (farOf (s.strm k i).header e.src e.dst).toNat →
      r = s.secTranslate (k / 9) (s.slot k).fleet va (strmAccess (s.strm k i).header) ⟨0, s.idOf k, i⟩ →
      (r.2.asks ≠ [] → ∃ t, exec (.walkComplete k i) s = .next t ∧ t.strm k i = s.strm k i ∧ t.em = s.em ∧ t.net = s.net) ∧
      (r.2.asks = [] → r.1.1 = 0 → ∃ t, exec (.walkComplete k i) s = .next t ∧ (t.strm k i).walking = false ∧ (t.strm k i).emitted = e :: es ∧
        (t.strm k i).state = (s.strm k i).state ∧ (t.slot k).ts = (s.slot k).ts) ∧
      (r.2.asks = [] → 0 < r.1.1 → r.1.1 < 256 → ∃ t, exec (.walkComplete k i) s = .next t ∧ (t.strm k i).state = .faulted ∧
        (t.strm k i).emitted = [] ∧ t.fld (Reg.STRM_STAT k i) F.STRM_STAT_STATUS = r.1.1 ∧ (t.slot k).ts = (s.slot k).ts)) ∧
    (s.flag Reg.XL_INV F.XL_INV_BUSY = false → ∃ t, exec (.xlInv v) s = .next t ∧ t.flag Reg.XL_INV F.XL_INV_BUSY = true ∧
      (∀ a, (getF v F.XL_INV_ALL = 1 ∨ getF v F.XL_INV_VA * 2 ^ 16 ≤ a ∧
          a < getF v F.XL_INV_VA * 2 ^ 16 + (getF v F.XL_INV_COUNT + 1) * 2 ^ 16) →
        (∀ n, tlbFind (t.sector n).tlb secSets (getF v F.XL_INV_FLEET) a = none) ∧
        tlbFind t.haTlb haSets (getF v F.XL_INV_FLEET) a = none) ∧
      (getF v F.XL_INV_ALL = 1 → (∀ j, ∀ o ∈ (t.slot j).outs, o.xl ≠ 0 → o.fleet = getF v F.XL_INV_FLEET → o.inv = true) ∧
        (∀ x ∈ t.hm, x.xl.size ≠ 0 → x.xl.fleet = getF v F.XL_INV_FLEET → x.inv = true)) ∧
      (∀ o, o ≠ Reg.XL_INV → t.rd o = s.rd o) ∧ (∀ j, (t.slot j).ts = (s.slot j).ts) ∧ t.em = s.em) ∧
    (s.flag Reg.XL_INV F.XL_INV_BUSY = true → exec (.xlInv v) s = .next s) ∧
    ((∀ x ∈ s.slots, ∀ o ∈ x.2.outs, o.inv = false) → (∀ x ∈ s.hm, x.inv = false) → (∀ x ∈ s.remote, x.inv = false) →
      (∀ x ∈ s.xlNet, x ∉ s.net) → (∀ x ∈ s.nmus, x.2.preAsked = []) →
      exec .invalidationDone s = .next ({ s with xlNet := [] }.setFld Reg.XL_INV F.XL_INV_BUSY 0)) ∧
    (((∃ x ∈ s.slots, ∃ o ∈ x.2.outs, o.inv = true) ∨ (∃ x ∈ s.hm, x.inv = true) ∨ (∃ x ∈ s.remote, x.inv = true) ∨
      (∃ x ∈ s.xlNet, x ∈ s.net)) → exec .invalidationDone s = .next s) ∧
    (s.flag Reg.XF_RING F.XF_RING_EN = false → getF v F.XF_RING_SIZE ≤ 8 → s.xfHeld = [] →
      ∃ t, exec (.xfRingEnable v) s = .next t ∧ t.fld Reg.XF_RING F.XF_RING_BASE = getF v F.XF_RING_BASE ∧
        t.fld Reg.XF_RING F.XF_RING_SIZE = getF v F.XF_RING_SIZE ∧
        (t.flag Reg.XF_RING F.XF_RING_EN = true ↔ getF v F.XF_RING_EN = 1 ∧
          (s.regionFor (getF v F.XF_RING_BASE * 4096) (4096 * 2 ^ getF v F.XF_RING_SIZE)).isSome = true) ∧
        (∀ o, o ≠ Reg.XF_RING → t.rd o = s.rd o) ∧ t = { s with drs := t.drs }) ∧
    (rp < 2 ^ 32 →
      ((rp + 2 ^ 32 - s.fld Reg.XF_PTR F.XF_PTR_RP) % 2 ^ 32 ≤ s.xfUsed → s.xfHeld = [] → ∃ t, exec (.xfRp rp) s = .next t ∧
        t.fld Reg.XF_PTR F.XF_PTR_RP = rp ∧ t.fld Reg.XF_PTR F.XF_PTR_WP = s.fld Reg.XF_PTR F.XF_PTR_WP ∧
        (∀ o, o ≠ Reg.XF_PTR → t.rd o = s.rd o) ∧ t = { s with drs := t.drs }) ∧
      (s.xfUsed < (rp + 2 ^ 32 - s.fld Reg.XF_PTR F.XF_PTR_RP) % 2 ^ 32 → exec (.xfRp rp) s = .next s))

/-! ## Near-Memory Units and the reduction directory (12, 13 R360 to R367) -/

/-- The operation engine of an NMU, at rest, takes its next command, which leaves the intake and wakes the senders that wait: one that
fails its checks ends with their status, any other that takes part in no scale collection stands at its first unit. Running, it makes
one unit and stands at the next, or ends with the unit's status. What a unit does: STAGE puts its 16 bytes into staging, and NMU_ARRIVE
counts them; a row of an MV of one vector, its bytes read, gives the sum of its products modulo 2^32; GATHER delivers the bytes it read
at its place; SCATTER is done once its bytes are stored; and a unit whose loads or stores fail gives its status and delivers nothing.
The command of an operation engine that is over, with nothing left to deliver, completes: the engine is at rest, the tally it names has
counted what it delivered, and the completion record goes to the sender that asked for one. An abort of its fleet ends it with 0x02 at
any time before that record, which is its commit point (10 R285), and withdraws a scout report that is still on its way; a tag whose blocks are
complete, sent and acknowledged, and whose finish is made, ends likewise, and ABORT_TAG ends one whose last block is not complete with
0x02. A unit whose blocks have not come from their ports asks for them, and is still to be made.
Forms shown to complete: stage, mv, sgd, emb, scan, cvt, ired, gather, scatter, nmuComplete, abortFleet, abortTag.
The model's readings: log entries 17, 46 and 50. -/
def Obligations.NmuCommandsRun : Prop :=
  (∀ (n : Fin 20) (s : State), s.stopped = false → s.asks = [] →
     ∀ x ∈ nmuCommands,
     (∀ c, (s.nmu n).run = none → (s.nmu n).headOp = some c → c.nop = x.2 →
       (∀ st, st ≠ 0 → s.nmuCheck n c = some st → ∃ t, exec (x.1 n 0 .none) s = .next t ∧
         ((t.nmu n).run.map (fun r => (r.msg, r.status, r.next, r.doneU))) = some (c, st, 0, 0) ∧
         (t.nmu n).intake = (s.nmu n).intake.erase c ∧
         t.net = s.net ++ (s.nmu n).wait.map (fun w => ⟨.reply, .nmu n, senderEnd w.1 w.2, .wake 0⟩) ∧
         t = { s with nmus := t.nmus, net := t.net, got := t.got } ∧ (∀ j, j ≠ n.val → t.nmu j = s.nmu j)) ∧
       (s.nmuCheck n c = none → collects c.nop (s.pblkOf n c) = false → ∃ t, exec (x.1 n 0 .none) s = .next t ∧
         (t.nmu n).run = some (Run.start c (s.pblkOf n c) 0) ∧ (t.nmu n).intake = (s.nmu n).intake.erase c ∧
         (t.nmu n).staging = (s.nmu n).staging ∧ t.em = s.em ∧ t.slots = s.slots)) ∧
     (∀ r v, (s.nmu n).run = some r → r.msg.nop = x.2 → r.over = false → s.nmuWaits n r = false → s.walkerFull r.fleet = false →
       s.stalled (84 + n / 2) = false → v = s.nmuUnit n r →
       (v.1.asks = [] → exec (x.1 n 1 .none) s = .next (s.leaves ((v.1.modNmu n (fun c => { c with
         run := some (if v.2.status = 0 then { v.2 with next := v.2.next + 1 } else v.2) })).blocksUsed.prefetch n 1))) ∧
       (v.1.asks ≠ [] → exec (x.1 n 1 .none) s = .next (s.leaves ((v.1.asks.foldl State.postAsk s).prefetch n 1))))) ∧
  (∀ (n : Nat) (r : Run) (u : State) (bs : List Byte) (b : PBlk) (s : State), b = r.blk →
     (r.msg.nop = 0x01 → r.msg.pblk + 16 ≤ 0x100000 →
       (s.nmuUnit n r).1.stRead n r.msg.pblk 16 = natLE 8 (r.msg.pay.getD 1 0).toNat ++ natLE 8 (r.msg.pay.getD 2 0).toNat ∧
       (s.nmuUnit n r).1.rd (Reg.NMU_ARRIVE n) = s.rd (Reg.NMU_ARRIVE n) + 16 ∧
       (s.nmuUnit n r).2 = { r with doneU := r.doneU + 1 }) ∧
     (r.msg.nop = 0x10 → b.cols = false → b.nv = 1 → b.dkind = 3 → b.daddr + 4 * r.next + 4 ≤ 0x100000 → r.status = 0 →
       s.mvRow n r r.next = (0, bs, u) → (u.nmu n).staging = (s.nmu n).staging →
       (s.nmuUnit n r).1.stRead n (b.daddr + 4 * r.next) 4 =
         natLE 4 (wrapInt 32 (((List.range b.k).map (fun j => b.weight bs j * s.nmuVec n b 0 j)).sum)) ∧
       (s.nmuUnit n r).2.doneU = r.doneU + 1 ∧ (s.nmuUnit n r).2.status = 0) ∧
     (r.msg.nop = 0x40 → b.dkind = 3 → s.nmuLoad n r.msg.nmuCls r.fleet (b.opa + leNat (s.stRead n (b.x + 4 * r.next) 4) * b.str * 16) b.k =
         (0, bs, u) →
       b.daddr + r.next * b.k + bs.length ≤ 0x100000 →
       (s.nmuUnit n r).1.stRead n (b.daddr + r.next * b.k) bs.length = bs ∧ (s.nmuUnit n r).2.doneU = r.doneU + 1) ∧
     (∀ st ent, r.msg.nop = 0x41 → ent = s.stRead n (b.x + r.next * b.scatEntry) (16 + b.k) →
       s.nmuStores n r.msg.nmuCls r.fleet [(b.opa + leNat (ent.take 4) * b.str * 16, ent.drop 16)] = (st, u) →
       s.nmuUnit n r = (u, if st = 0 then { r with doneU := r.doneU + 1 } else { r with status := st }))) ∧
  (∀ (n : Fin 20) (s : State), s.stopped = false → n.val < s.opts.memPorts → s.asks = [] →
     (∀ r, (s.nmu n).run = some r → r.already = false → r.over = true → r.hold = [] → collects r.msg.nop r.blk = false → s.nmuLanded n r = true →
       r.status ≠ 0x03 → r.status ≠ 0x04 → r.status ≠ 0x0B → r.status ≠ 0x90 → ∃ t, exec (.nmuComplete n none) s = .next t ∧
         (t.nmu n).run = none ∧
         t.net = s.net ++ (if r.msg.rq then [⟨.reply, .nmu n, senderEnd r.msg.kind r.msg.sid, .msg r.msg.rch
           ⟨2, r.record r.doneU r.nextOf, false, 0, 2, n, 0, r.msg.nmuFleet, r.status, r.msg.tag, r.msg.user, 0, 0, false⟩⟩] else []) ∧
         (∀ k, r.blk.dkind = 1 → delivers r.msg.nop = true → bit r.blk.dgen 4 = true → r.sent ≠ 0 → s.slotOf r.blk.did = some k →
           s.closed k = false → t.rd (Reg.TALLY k (r.blk.dgen % 16)) = s.rd (Reg.TALLY k (r.blk.dgen % 16)) + BitVec.ofNat 64 r.sent) ∧
         (t.nmu n).staging = (s.nmu n).staging ∧ t.em = s.em ∧ (∀ j, j ≠ n.val → t.nmu j = s.nmu j)) ∧
     (∀ (fleet : Fin 16) r, s.reach (Reg.NMU_CTL n) = .ok → (s.nmu n).run = some r → r.fleet = fleet → (s.nmu n).intake = [] →
       ∃ t, exec (.abortFleet n fleet) s = .next t ∧ (t.nmu n).run = none ∧
         (collects r.msg.nop r.blk = true →
           (t.nmu n).collects = (s.nmu n).collects.filter (fun x => !(x.fleet == r.fleet && x.tag == r.msg.tag && x.par == r.blk.par))) ∧
         t.net = (if collects r.msg.nop r.blk then s.net.filter (fun p => !r.scoutOf n p) else s.net) ++ (if r.msg.rq then [⟨.reply, .nmu n, senderEnd r.msg.kind r.msg.sid, .msg r.msg.rch
           ⟨2, { r with status := 0x02 }.record r.doneU r.nextOf, false, 0, 2, n, 0, r.msg.nmuFleet, 0x02, r.msg.tag, r.msg.user, 0, 0,
             false⟩⟩] else []) ∧ t.fld (Reg.NMU_CTL n) F.NMU_CTL_FLEET = fleet ∧ (∀ o, o ≠ Reg.NMU_CTL n → t.rd o = s.rd o) ∧
         t.em = s.em ∧ t.slots = s.slots) ∧
     (∀ tag g, s.reach (Reg.NMU_CTL n) = .ok → s.tagOf n tag = some g → g.ended = false →
       (g.full = true → ∃ t, exec (.abortTag n tag) s = .next t ∧ t.tagOf n tag = some { g with already := true } ∧ t.net = s.net ∧
         t.em = s.em ∧ t.slots = s.slots) ∧
       (g.full = false → g.waiters = [] → ∃ t h, exec (.abortTag n tag) s = .next t ∧ t.tagOf n tag = some h ∧ h.ended = true ∧
         h.status = 0x02 ∧ h.moor = [] ∧ h.sent = [] ∧ t.net.length = s.net.length + b01 g.msg.rq ∧ t.em = s.em ∧ t.slots = s.slots)) ∧
     (∀ e g r, tfind (s.nmu n).tags e = some g → e = g.tag % 64 → g.ended = false → g.status = 0 → g.ready = true → g.fin = some r →
       (r.status ≠ 0 ∨ g.finUnits ≤ r.next) → s.walkerFull g.fleet = false → collects 0x50 g.blk = false →
       ∃ t h, exec (.nmuComplete n (some e)) s = .next t ∧ tfind (t.nmu n).tags e = some h ∧
         h.ended = true ∧ h.status = (if r.status = 0 ∧ g.already = true then 0x01 else r.status) ∧ t.net.length = s.net.length + b01 g.msg.rq ∧ t.em = s.em ∧ t.slots = s.slots))

/-- TAGRES: one that fails its checks completes with their status; an admitted one stands in its tag slot with its share of the bucket,
NMU_TAG shows it as the last, and the directory holds the tag; one whose bucket cannot be translated completes with 0x09. TAGRET of the
oldest tag, ended, frees its slot, and of any other, or of one still in progress, completes with 0x09. Reduction traffic at an NMU. A contribution that is due is added in rank order, a RESULT completes its block, each
acknowledged by CACK; a duplicate adds nothing, is counted and acknowledged; one outside the window, and one of an unknown tag, is
refused, the former's node waiting for a wake. The engine sends the next block of its share to the rank that owns it, and passes over
its own. A RESULT in the window is written though its block is complete already. A scout report at its home joins its collection; with the report of the last NMU the home writes the next entry of the scale
record, from the largest value reported, and the collection is over.
Forms shown to complete: tagres, tagret, scoutReport, contribSend, contrib, result. The model's readings: log entries 16, 17 and 46. -/
def Obligations.ReductionsCollected : Prop :=
  (∀ (n : Fin 20) (m : Msg) (s : State), s.stopped = false → n.val < s.opts.memPorts → m.tag < 2 ^ 16 → m.fleet < 16 →
     ((s.nmu n).headRed 0x50 = some m → s.asks = [] → s.walkerFull m.nmuFleet = false →
       (∀ st, s.tagCheck n m = some st → ∃ t, exec (.tagres n) s = .next t ∧ (t.nmu n).intake = (s.nmu n).intake.erase m ∧
         (t.nmu n).tags = (s.nmu n).tags ∧ t.em = s.em ∧ t.recorded n m st ∧ t.slots = s.slots) ∧
       (∀ ps u, s.tagCheck n m = none → s.bucketPages n m.nmuFleet (s.pblkOf n m) = (some ps, u) → u.asks = [] →
         ∃ t g, exec (.tagres n) s = .next t ∧ t.tagOf n m.tag = some g ∧ g.wb = 0 ∧ g.status = 0 ∧
         g.ended = false ∧ g.blk = s.pblkOf n m ∧ g.share = u.shareOf n (s.pblkOf n m) ps ∧
         (t.nmu n).intake = (u.nmu n).intake.erase m ∧
         t.fld (Reg.NMU_TAG n) F.NMU_TAG_LAST = m.tag ∧ t.flag (Reg.NMU_TAG n) F.NMU_TAG_ANY = true ∧
         t.rdHolds m.tag = true ∧ t.em = u.em ∧ t.slots = u.slots) ∧
       (∀ u, s.tagCheck n m = none → s.bucketPages n m.nmuFleet (s.pblkOf n m) = (none, u) → u.asks = [] →
         ∃ t, exec (.tagres n) s = .next t ∧ (t.nmu n).tags = (u.nmu n).tags ∧ (t.nmu n).intake = (u.nmu n).intake.erase m ∧
           t.recorded n m 0x09 ∧ t.em = u.em ∧ t.slots = u.slots)) ∧
     ((s.nmu n).headRed 0x51 = some m →
       (∀ g, s.tagOf n m.tag = some g → g.ended = true → s.fld (Reg.NMU_TAG n) F.NMU_TAG_OLDEST = m.tag →
         ∃ t, exec (.tagret n) s = .next t ∧ t.tagOf n m.tag = none ∧ (t.nmu n).intake = (s.nmu n).intake.erase m ∧ t.em = s.em ∧
           t.slots = s.slots ∧ t.recorded n m 0 ∧ ((∀ o, o < s.opts.memPorts → o ≠ n.val → s.tagOf o m.tag = none) → t.rdHolds m.tag = false)) ∧
       (s.tagOf n m.tag = none ∨ s.fld (Reg.NMU_TAG n) F.NMU_TAG_OLDEST ≠ m.tag ∨ (∃ g, s.tagOf n m.tag = some g ∧ g.ended = false) →
         ∃ t, exec (.tagret n) s = .next t ∧ t.recorded n m 0x09 ∧ (t.nmu n).tags = (s.nmu n).tags ∧ (t.nmu n).intake = (s.nmu n).intake.erase m ∧ t.em = s.em ∧ t.slots = s.slots))) ∧
  (∀ (n : Fin 20) (i snode tag g pa l : Nat) (pl : Plane) (src : Endpoint) (bs : List Byte) (s : State), s.stopped = false →
     s.routeTo snode = some l → s.flLost l = false → s.asks = [] → s.redWaits n tag = false →
     (∀ res, s.arrival i = some ⟨pl, src, .nmu n, .red res snode tag g pa bs⟩ →
       (s.tagLive n tag = none → s.fld (Reg.RD_STAT (tag % 64)) F.RD_STAT_REFUSALS < 0xFFFF →
         ∃ t, exec (if res then .result i else .contrib i) s = .next t ∧
         (t.link l).ctl = (s.link l).ctl ++ [(snode, BitVec.ofNat 64 (ctlCref tag g 0))] ∧ t.net = s.net.eraseIdx i ∧
         snode ∈ tget [] t.rdWait (tag % 64) ∧
         t.fld (Reg.RD_STAT (tag % 64)) F.RD_STAT_REFUSALS = s.fld (Reg.RD_STAT (tag % 64)) F.RD_STAT_REFUSALS + 1 ∧
         t = { s with links := t.links, net := t.net, drs := t.drs, rdWait := t.rdWait, got := t.got }) ∧
       (∀ a b r, s.tagOf n tag = some a → a.ended = false → a.status = 0 → a.share.findIdx? (fun x => x == g) = some b →
         (res = false → s.rankAt a.fleet snode = some r) → a.inWindow b = false → a.wb ≤ b → a.doneB = [] → a.nextR b ≤ r → a.moor = [] →
         ∃ t h, exec (if res then .result i else .contrib i) s = .next t ∧ t.tagOf n tag = some h ∧ snode ∈ h.waiters ∧
           (t.link l).ctl = (s.link l).ctl ++ [(snode, BitVec.ofNat 64 (ctlCref tag g 1))] ∧ h.sums = a.sums ∧
           t = { s with nmus := t.nmus, links := t.links, net := s.net.eraseIdx i, got := t.got })) ∧
     (∀ a b r u, s.arrival i = some ⟨pl, src, .nmu n, .red false snode tag g pa bs⟩ → s.tagOf n tag = some a → a.ended = false →
       a.status = 0 → a.share.findIdx? (fun x => x == g) = some b → s.rankAt a.fleet snode = some r → u = s.takePacket i →
       (b < a.wb ∨ b ∈ a.doneB ∨ r < a.nextR b ∨ (∃ m ∈ a.moor, m.b = b ∧ m.r = r) → s.fld (Reg.NMU_ERR n) F.NMU_ERR_DUPS < 0xFFFF →
         ∃ t, exec (.contrib i) s = .next t ∧ t.fld (Reg.NMU_ERR n) F.NMU_ERR_DUPS = s.fld (Reg.NMU_ERR n) F.NMU_ERR_DUPS + 1 ∧
           t.nmu n = s.nmu n ∧ (t.link l).ctl = (s.link l).ctl ++ [(snode, BitVec.ofNat 64 (ctlCack tag g))] ∧ t.em = s.em) ∧
       (∀ v, a.inWindow b = true → b ∉ a.doneB → r = a.nextR b → (∀ m ∈ a.moor, m.b ≠ b ∨ m.r ≠ r) →
         v = (u.tagPass n { a with
           sums := tput a.sums b (if r = 0 then bs else addByType a.type (tget [] a.sums b) bs)
           nexts := tput a.nexts b (r + 1) }).ctlTo snode (ctlCack tag g) → v.asks = [] →
         exec (.contrib i) s = .next (s.leaves v.blocksUsed))) ∧
     (∀ a b x v, s.arrival i = some ⟨pl, src, .nmu n, .red true snode tag g pa bs⟩ → s.tagOf n tag = some a → a.ended = false →
       a.status = 0 → a.share.findIdx? (fun x => x == g) = some b → a.inWindow b = true →
       x = (s.takePacket i).finishBlock n b a bs → v = (if x.1.status = 0 then (x.2.tagPass n x.1).ctlTo snode (ctlCack tag g)
         else (x.2.setTag n x.1).rdRefuse snode tag g 2) → v.asks = [] → exec (.result i) s = .next (s.leaves v.blocksUsed)) ∧
     (∀ e a v c, tfind (s.nmu n).tags e = some a → a.ended = false → a.status = 0 → s.walkerFull a.fleet = false →
       s.stalled (84 + n / 2) = false → v = s.tagPass n a → tfind (v.nmu n).tags e = some c → c.status = 0 → (v.nmu n).unacked < 256 →
       c.again = none → c.results = [] → c.sendPos < c.share.length → ∀ w, w = (if c.owner (c.g c.sendPos) = c.ownRank
         then v.setTag n { c with sendPos := c.sendPos + 1 }
         else v.redRead n { c with sendPos := c.sendPos + 1 } (c.g c.sendPos) (c.owner (c.g c.sendPos)) false) → w.asks = [] →
       exec (.contribSend n e) s = .next (s.leaves w.blocksUsed))) ∧
  (∀ (i h fleet tag par scale v : Nat) (pl : Plane) (src : Endpoint) (c : Collect) (s : State), s.stopped = false → s.asks = [] →
     s.arrival i = some ⟨pl, src, .nmu h, .scout fleet tag par scale v⟩ → (s.nmu h).collects = [c] → c.fleet = fleet → c.tag = tag →
     c.par = par →
     (c.got + 1 < s.opts.memPorts → ∃ t, exec (.scoutReport i) s = .next t ∧ (t.nmu h).collects = [{ c with
       got := c.got + 1
       max := max c.max v }] ∧ t = { s with nmus := t.nmus, net := s.net.eraseIdx i, got := t.got } ∧ (∀ j, j ≠ h → t.nmu j = s.nmu j)) ∧
     (∀ e w, s.opts.memPorts ≤ c.got + 1 → e = scaleFrom (max c.max v) 127 →
       w = ((s.takePacket i).modNmu h (fun x => { x with collects := [{ c with
         got := c.got + 1
         max := max c.max v }] })).nmuStores h (clsPrio 0) fleet [(scale + 8 * (1 - par), natLE 4 e.1 ++ natLE 4 e.2)] → w.2.asks = [] →
       ∃ t, exec (.scoutReport i) s = .next t ∧ (t.nmu h).collects = [] ∧ t.em = w.2.em ∧ t.slots = w.2.slots))

/-! ## Filic links (13) -/

/-- A frame from a Filic peer, as the lanes carried it (`wire`: its 3968 bytes, then its FEC) and after FEC decoding. One that is good and
in order: RXSEQ is its SEQ, frames it acknowledges are kept no longer, and the credits of the channel it names grow by what it returns, at most to the size of the buffer; a
slot with read data for this node goes to the core that asked, one for another node to the queue of the port that leads there. One that
is not is discarded, with NAK and its counters, and RXSEQ stays; one with a TYPE not listed is discarded so and the port trains. At a
frame boundary a Filic port in service sends the frame that is to be sent again, as it was, or a new one while fewer than 512 are kept:
3968 bytes with a good CRC, its SEQ the next number, its ACK that of the last frame received in order, carried by the working lanes as
4096 bytes with FEC parity and scrambled. A Filic port's states: a training that the right node answers makes it ACTIVE, or HALF where a
direction lacks lanes, with the lane map, in which lanes replaced before stay so; the wrong node leaves it DOWN with MISWIRE; a
failure that names crossed lanes sets MISWIRE too (19 R495); while PHY_REFCLK is absent no training ends (19 R492); a third failure in a row
loses it, as FL_CTL.LOSE does, which ends the accesses that left by it with 0x91 and leaves the port as at reset;
FL_CTL.RETRAIN trains it again: frames not acknowledged are sent again as they were and counted; frame numbers, queues and credits stay. A bad lane is
reported to the sender, and with the spare in use the port trains again, that direction at half width. RD_STAT.WAKE wakes the nodes that
wait for the tag.
Forms shown to complete: laneSwap, filicFrame, rdWake, flTrainingDone, flLose, flRetrain, flTxFrame, frameDiscarded.
The model's readings: log entries 16, 41 and 42. -/
def Obligations.LinksServed : Prop :=
  (∀ (l : Fin 8) (wire f : List Byte) (corr : Bool) (c : Link) (s : State), s.stopped = false → s.flUp l = true → c = s.link l →
     s.asks = [] → fromWire c.rxLanes wire = (f, corr) → s.fld (Reg.FL_ERR l) F.FL_ERR_CORR < 0xFFFF →
     (s.flInOrder l f = true → ctrlNak (fCtrl f) = false →
       ((∀ i, i < 15 → descType (fDesc f i) = 0) → (∀ w ∈ c.moves, w.tx = true ∨ w.atSeq ≠ ctrlSeq (fCtrl f)) →
         ∃ t, exec (.filicFrame l (wire.drop 3968) (wire.take 3968)) s = .next t ∧ t.link l = { c with
           rxSeq := ctrlSeq (fCtrl f)
           kept := dropAcked c.kept (ctrlAck (fCtrl f))
           resend := c.resend.filter (fun n => (dropAcked c.kept (ctrlAck (fCtrl f))).any (fun x => x.1 == n))
           fresh := false } ∧
         t.credits l (bits (fCtrl f) 9 2) = min (vcBuf (bits (fCtrl f) 9 2)) (s.credits l (bits (fCtrl f) 9 2) + bits (fCtrl f) 4 5) ∧
         t.fld (Reg.FL_ERR l) F.FL_ERR_CORR = s.fld (Reg.FL_ERR l) F.FL_ERR_CORR + b01 corr ∧
         t = { s with links := t.links, drs := t.drs, got := t.got } ∧
         (∀ o, o ≠ Reg.FL_CRED l → o ≠ Reg.FL_ERR l → t.rd o = s.rd o) ∧ (∀ j, j ≠ l.val → t.link j = s.link j)) ∧
       (∀ x, x = frameSlot f 0 → (∀ i, 0 < i → i < 15 → descType (fDesc f i) = 0) →
         (∀ r, x.type = 3 → x.dnode = s.cfg.ownNode → s.remote.find? (fun y => y.sent && !y.write && y.node == x.snode &&
             y.tag == bits x.low 26 10) = some r → r.fill = none → ∃ t, exec (.filicFrame l (wire.drop 3968) (wire.take 3968)) s = .next t ∧
           t.remote = s.remote.erase r ∧ t.net = s.net ++ [⟨.data, .link l, .core r.core,
             .xferData r.xid 0 ((x.data.drop (r.pa % 256)).take r.len)⟩] ∧ (t.link l).rxSeq = ctrlSeq (fCtrl f) ∧ t.em = s.em ∧
           t.slots = s.slots) ∧
         (∀ o, x.type = 3 → x.dnode ≠ s.cfg.ownNode → s.routeTo x.dnode = some o → s.flLost o = false → o < 8 →
           ∃ t, exec (.filicFrame l (wire.drop 3968) (wire.take 3968)) s = .next t ∧ tget [] (t.link o).queue 1 = tget [] (s.link o).queue 1 ++
             [{ x with via := some l.val }] ∧ t.remote = s.remote ∧ t.net = s.net ∧ t.em = s.em ∧ t.slots = s.slots))) ∧
     (s.flInOrder l f = false → s.fld (Reg.FL_ERR l) F.FL_ERR_REPLAY < 0xFFFF → s.fld (Reg.FL_ERR l) F.FL_ERR_CRC < 0xFFFF →
       ∃ t, exec (.frameDiscarded l (wire.drop 3968) (wire.take 3968)) s = .next t ∧ t.link l = { c with nak := true } ∧
         t.fld (Reg.FL_ERR l) F.FL_ERR_REPLAY = s.fld (Reg.FL_ERR l) F.FL_ERR_REPLAY + 1 ∧
         t.fld (Reg.FL_ERR l) F.FL_ERR_CRC = s.fld (Reg.FL_ERR l) F.FL_ERR_CRC + b01 (!fCrcOk f) ∧
         t.fld (Reg.FL_ERR l) F.FL_ERR_CORR = s.fld (Reg.FL_ERR l) F.FL_ERR_CORR + b01 corr ∧
         t = { s with links := t.links, drs := t.drs } ∧ (∀ j, j ≠ l.val → t.link j = s.link j)) ∧
     (s.flInOrder l f = true → protoBad f = true → s.fld (Reg.FL_ERR l) F.FL_ERR_PROTO < 0xFFFF →
       ∃ t, exec (.frameDiscarded l (wire.drop 3968) (wire.take 3968)) s = .next t ∧ t.flState l = 1 ∧ (t.link l).nak = true ∧
         t.fld (Reg.FL_ERR l) F.FL_ERR_PROTO = s.fld (Reg.FL_ERR l) F.FL_ERR_PROTO + 1 ∧ t.em = s.em ∧ t.net = s.net)) ∧
  (∀ (l : Fin 8) (s : State), s.stopped = false → s.flUp l = true →
     ((s.link l).resend = [] → (s.link l).kept.length < 512 → (s.link l).txSeq < 1024 → (s.link l).rxSeq < 1024 →
       ∃ t f, exec (.flTxFrame l) s = .next t ∧ (t.link l).wire = toWire (s.link l).txLanes f ∧ f.length = 3968 ∧ fCrcOk f = true ∧
         ctrlSeq (fCtrl f) = (s.link l).txSeq ∧ ctrlAck (fCtrl f) = (s.link l).rxSeq ∧ ctrlNak (fCtrl f) = (s.link l).nak ∧
         (t.link l).txSeq = ((s.link l).txSeq + 1) % 1024 ∧ (t.link l).rxSeq = (s.link l).rxSeq ∧ (t.link l).nak = false ∧
         (t.link l).kept = (s.link l).kept ++ [((s.link l).txSeq, f)] ∧ t.net = s.net ∧ t.em = s.em ∧ t.slots = s.slots) ∧
     (∀ n rest f, (s.link l).resend = n :: rest → (s.link l).kept.find? (fun x => x.1 == n) = some (n, f) →
       ∃ t, exec (.flTxFrame l) s = .next t ∧ t.link l = { s.link l with
         resend := rest
         wire := toWire (s.link l).txLanes f } ∧ t = { s with links := t.links } ∧ (∀ j, j ≠ l.val → t.link j = s.link j))) ∧
  (∀ (l : Fin 8) (node : Nat) (badRx badTx : List Nat) (s : State), s.stopped = false → l.val < s.opts.linkPorts →
     (s.phyOff = true → ∀ ok, exec (.flTrainingDone l ok node badRx badTx) s = .next s) ∧
     (s.phyOff = false → s.flState l = 1 →
       (∀ rx tx, (∀ n, tfind s.cfg.peers l = some n → n = node) →
         assignLanes 16 1 (lanesOf [s.fld (Reg.FL_LANES l) F.FL_LANES_RXS]) badRx = some rx →
         assignLanes 16 1 (lanesOf [s.fld (Reg.FL_LANES l) F.FL_LANES_TXS]) badTx = some tx →
         node < 2 ^ 12 → ∃ t, exec (.flTrainingDone l true node badRx badTx) s = .next t ∧
           (t.link l).halfRx = (rx.2 || (s.link l).halfRx) ∧ (t.link l).halfTx = (tx.2 || (s.link l).halfTx) ∧
           t.flState l = (if (t.link l).halfRx || (t.link l).halfTx then 3 else 2) ∧
           t.fld (Reg.FL_STAT l) F.FL_STAT_PEER = node ∧ t.rd (Reg.FL_LANES l) = BitVec.ofNat 64 (laneByte tx.1 0 * 2 ^ 8 + laneByte rx.1 0) ∧
           (t.link l).fails = 0 ∧ t.em = s.em ∧ t.slots = s.slots ∧ t.net = s.net) ∧
       (∀ n, tfind s.cfg.peers l = some n → n ≠ node → ∃ t, exec (.flTrainingDone l true node badRx badTx) s = .next t ∧
         t.flState l = 0 ∧ t.flag (Reg.FL_STAT l) F.FL_STAT_MISWIRE = true ∧ t.reports.length = s.reports.length + 1 ∧
         t = { s with drs := t.drs, reports := t.reports }) ∧
       (∃ t, exec (.flTrainingDone l false node badRx badTx) s = .next t ∧ t.flState l = (if 2 ≤ (s.link l).fails then 4 else 1) ∧
         t.flag (Reg.FL_STAT l) F.FL_STAT_MISWIRE = (s.flag (Reg.FL_STAT l) F.FL_STAT_MISWIRE || !badRx.isEmpty || !badTx.isEmpty) ∧
         ((s.link l).fails < 2 → t.link l = { s.link l with
           fails := (s.link l).fails + 1
           halfRx := false
           halfTx := false }))) ∧
     (s.reach (Reg.FL_CTL l) = .ok →
       (s.flLost l = false → ∃ t, exec (.flLose l) s = .next t ∧ t.flLost l = true ∧
         t.remote = s.remote.filter (fun r => !(s.routeTo r.node == some l.val || (r.sent && r.link == l.val))) ∧
         (∀ r ∈ s.remote, (s.routeTo r.node = some l.val ∨ (r.sent = true ∧ r.link = l.val)) →
           (if r.write then (⟨.reply, .link l, .core r.core, .xferAck r.xid 0x91⟩ : Packet)
             else ⟨.data, .link l, .core r.core, .xferData r.xid 0x91 []⟩) ∈ t.net) ∧
         t.link l = Link.reset ∧ t.em = s.em ∧ t.slots = s.slots) ∧
       (∀ n, s.flLost l = false → n = (s.link l).kept.length → ∃ t, exec (.flRetrain l) s = .next t ∧ t.flState l = 1 ∧
         t.link l = { s.link l with
           resend := (s.link l).kept.map (fun x => x.1)
           swaps := []
           moves := []
           halfRx := false
           halfTx := false } ∧ (∀ j, j ≠ l.val → t.link j = s.link j) ∧ (∀ vc, t.credits l vc = s.credits l vc) ∧
         (s.fld (Reg.FL_ERR l) F.FL_ERR_REPLAY + n ≤ 0xFFFF →
           t.fld (Reg.FL_ERR l) F.FL_ERR_REPLAY = s.fld (Reg.FL_ERR l) F.FL_ERR_REPLAY + n) ∧
         t = { s with drs := t.drs, links := t.links, reports := t.reports }) ∧
       (s.flLost l = true → exec (.flRetrain l) s = .next s)) ∧
     (∀ lane tx, lane < 16 → s.flUp l = true →
       (bit (s.fld (Reg.FL_LANES l) F.FL_LANES_RXS) 7 = false → ∃ t, exec (.laneSwap (.link l) tx lane) s = .next t ∧
         t.link l = { s.link l with swaps := (s.link l).swaps ++ [⟨false, 0, lane, 0⟩] } ∧ t = { s with links := t.links }) ∧
       (bit (s.fld (Reg.FL_LANES l) F.FL_LANES_RXS) 7 = true → ∃ t, exec (.laneSwap (.link l) tx lane) s = .next t ∧ t.flState l = 1 ∧
         (t.link l).halfRx = true)) ∧
     (∀ (e : Fin 64) w o, s.reach (Reg.RD_STAT e) = .ok → tget [] s.rdWait e = [w] → s.routeTo w = some o → s.flLost o = false →
       ∃ t, exec (.rdWake e) s = .next t ∧ tget [] t.rdWait e = [] ∧
         (t.link o).ctl = (s.link o).ctl ++ [(w, BitVec.ofNat 64 (ctlWake (s.fld (Reg.RD_CFG e) F.RD_CFG_TAG)))] ∧
         t = { s with links := t.links, rdWait := t.rdWait }))

/-! ## Passages and deadlines (14 R377 to R393) -/

/-- RK_CMD ADMIT answers in RK_RESULT: 0x82 for a description that is not well-formed; 0x09 with REASON and SEG of the first check that
fails; else the description is held in the lowest free entry under an identity that is not 0 and that no held passage has, with its
cores, ports, reservations, power, deadline and bound. RK_CMD RELEASE frees the entry of a HELD passage, with its reservations and what
polders had drawn on them; of a RUNNING passage, or an identity that is not held, it answers 0x09. At T0 + DEADLINE a run that has not
ended has missed: RK_STAT.MISSES counts it, a record tells of it and the PACE class is set; a run that has ended, or has missed before,
is untouched. RK_CTL.RT takes effect at once where no passage is RUNNING. A command written while the Reckoner is BUSY with the last one,
for a free time within 40 us, is lost and sets CMD_LOST.
Forms shown to complete: admitPassage, release, runDeadline, rt. The model's readings: log entries 18 and 45. -/
def Obligations.PassagesHeld : Prop :=
  (∀ (d : List Byte) (pid : Nat) (u s : State), s.stopped = false → d = s.descBytes → (∀ x ∈ s.passages, x.1 < 32) →
     u = { s.draw.2 with rkDue := s.time + s.draw.1.toNat % 40001 } →
     (s.time < s.rkDue → ∀ c ∈ [Instr.admitPassage, .release pid],
       exec c s = .next (s.leaves (s.setFld Reg.RK_STAT F.RK_STAT_CMD_LOST 1))) ∧
     (s.rkDue ≤ s.time → descOk d = false → exec .admitPassage s = .next (s.leaves (u.rkResult 0x82 0 0))) ∧
     (∀ r g, s.rkDue ≤ s.time → descOk d = true → s.admitCheck d = some (r, g) →
       exec .admitPassage s = .next (s.leaves (u.rkResult 0x09 r g))) ∧
     (∀ q, s.rkDue ≤ s.time → descOk d = true → s.admitCheck d = none →
       (List.range 32).find? (fun x => (tfind s.passages x).isNone) = some q →
       ∃ t pid p, exec .admitPassage s = .next t ∧ 0 < pid ∧ pid < 2 ^ 32 ∧ s.pidAt pid = none ∧
         t.fld Reg.RK_RESULT F.RK_RESULT_STATUS = 0 ∧ t.fld Reg.RK_RESULT F.RK_RESULT_PID = pid ∧ t.ptPid q = pid ∧ t.ptState q ≠ 0 ∧
         t.fld (Reg.PT_ID q) F.PT_ID_FLEET = dsc d 0 1 ∧ t.fld (Reg.PT_TIME q) F.PT_TIME_BOUND = (s.boundSums d).getLastD 0 ∧
         tfind t.passages q = some p ∧ p.cores = setBits 64 (dsc d 8 8) ∧ p.ports = setBits 20 (dsc d 16 4) ∧ p.rdRes = dsc d 20 2 ∧
         p.wrRes = dsc d 22 2 ∧ p.power = dsc d 24 4 ∧ p.deadline = dsc d 4 4 ∧
         t = { u with passages := t.passages, nextPid := t.nextPid, drs := t.drs, rises := t.rises })) ∧
  (∀ (pid : Nat) (u s : State), s.stopped = false → (∀ x ∈ s.drawn, x.2.1 < 100) → s.rkDue ≤ s.time →
     u = { s.draw.2 with rkDue := s.time + s.draw.1.toNat % 40001 } →
     (∀ q, q < 32 → s.pidAt pid = some q → s.ptState q = 1 → ∃ t, exec (.release pid) s = .next t ∧
       tfind t.passages q = none ∧ (∀ j, j ≠ q → tfind t.passages j = tfind s.passages j) ∧ t.ptState q = 0 ∧ t.ptPid q = 0 ∧
       t.drawn = s.drawn.filter (fun x => x.1 != q) ∧ t.fld Reg.RK_RESULT F.RK_RESULT_STATUS = 0 ∧
       t = { u with passages := t.passages, drawn := t.drawn, drs := t.drs, rtMode := t.rtMode }) ∧
     ((s.pidAt pid = none ∨ ∃ q, s.pidAt pid = some q ∧ s.ptState q ≠ 1) →
       exec (.release pid) s = .next (s.leaves (u.rkResult 0x09 0 0)))) ∧
  (∀ (q : Fin 32) (on : Bool) (s : State), s.stopped = false →
     (∀ p, tfind s.passages q = some p → s.ptState q = 2 → p.missed = false → s.fld Reg.RK_STAT F.RK_STAT_MISSES < 0xFFFF →
       ∃ t, exec (.runDeadline q) s = .next t ∧ tfind t.passages q = some { p with missed := true } ∧
         (∀ j, j ≠ q.val → tfind t.passages j = tfind s.passages j) ∧ t.ptState q = 2 ∧
         t.time = max s.time ((s.rd (Reg.PT_START q)).toNat + p.deadline) ∧
         t.fld Reg.RK_STAT F.RK_STAT_MISSES = s.fld Reg.RK_STAT F.RK_STAT_MISSES + 1 ∧
         t.reports = s.reports ++ [⟨0x23, 2, 99, 7, s.ptPid q, s.fld (Reg.PT_ID q) F.PT_ID_FLEET, 0x05,
           [s.rd (Reg.PT_ID q), s.rd (Reg.PT_TIME q), s.rd (Reg.PT_START q)]⟩] ∧
         bit (t.fld Reg.AL_STAT F.AL_STAT_CLASS) 10 = true ∧ t.slots = s.slots ∧ t.em = s.em ∧ t.net = s.net) ∧
     ((tfind s.passages q = none ∨ s.ptState q ≠ 2 ∨ ∃ p, tfind s.passages q = some p ∧ p.missed = true) →
       exec (.runDeadline q) s = .next s) ∧
     (∃ t, exec (.rt on) s = .next t ∧ t.flag Reg.RK_CTL F.RK_CTL_RT = on ∧
       ((∀ x ∈ s.passages, s.ptState x.1 ≠ 2) → t.rtMode = on) ∧
       t = { s with drs := t.drs, rtMode := t.rtMode } ∧ (∀ o, o ≠ Reg.RK_CTL → t.rd o = s.rd o)))

/-! ## Pace and power (14 R371 to R376, 15 R394 to R403) -/

/-- A pace window of an open polder: MEAS is the pace of the steps counted, in 0.01 G steps/s rounded down, over 1024 ns, or 256 ns in
real-time mode (at most what its field holds, log entry 45), TJ what was measured, MIN the least since SAG was cleared; SAG rises where the count is
below the certified pace, HOT where the temperature is above the limit of the class, with the arbitrated grant cut to what HOT allows;
each with the PACE class. Writing 1 to SAG clears it and sets MIN to MEAS. Compass: a governor whose floor and grant do not cover what
its engine set needs asks for the rest, once (whether it is THROTTLED meanwhile is a free value, log entry 45); a request that fits the
reserve of a held passage of its polder is granted from that reserve first, where share and heat allow it; the head of the queue is
granted where pool, share, ramp and heat allow what the reserve does not cover; while granting is frozen nothing is. Classes that stay
idle give back what the others do not need.
Forms shown to complete: paceWindow, sagClear, grantRequest, grant, grantRelease. The model's readings: log entries 19 and 45. -/
def Obligations.PaceAndPower : Prop :=
  (∀ (n : Fin 100) (steps meas tj : Nat) (s : State), s.stopped = false → (∀ x ∈ s.passages, x.1 < 32) →
     meas = min 1023 (100 * steps / (if s.rtMode then 256 else 1024)) →
     (s.present n = true → s.closed n = false → tj < 256 →
       ∃ t, exec (.paceWindow n steps tj) s = .next t ∧ t.fld (Reg.PACE_P n) F.PACE_P_MEAS = meas ∧
         t.fld (Reg.PACE_P n) F.PACE_P_TJ = tj ∧
         t.fld (Reg.PACE_P n) F.PACE_P_MIN =
           (if s.windowed.contains n.val then min (s.fld (Reg.PACE_P n) F.PACE_P_MIN) meas else meas) ∧
         t.flag (Reg.PACE_P n) F.PACE_P_SAG = (s.flag (Reg.PACE_P n) F.PACE_P_SAG || decide (meas < s.cert n)) ∧
         t.flag (Reg.PACE_P n) F.PACE_P_HOT =
           (s.flag (Reg.PACE_P n) F.PACE_P_HOT || decide (classLimit (s.fld (Reg.PACE_P n) F.PACE_P_CLASS) < tj)) ∧
         t.vset n = s.vset n ∧ t.cert n = s.cert n ∧
         (classLimit (s.fld (Reg.PACE_P n) F.PACE_P_CLASS) < tj → t.granted n = min (s.granted n) (s.hotLimit n)) ∧
         ((meas < s.cert n ∨ classLimit (s.fld (Reg.PACE_P n) F.PACE_P_CLASS) < tj) →
           bit (t.fld Reg.AL_STAT F.AL_STAT_CLASS) 7 = true) ∧ t.slots = s.slots ∧ t.em = s.em) ∧
     ((s.present n = false ∨ s.closed n = true) → exec (.paceWindow n steps tj) s = .next s) ∧
     (∃ t, exec (.sagClear n) s = .next t ∧ t.flag (Reg.PACE_P n) F.PACE_P_SAG = false ∧
       t.fld (Reg.PACE_P n) F.PACE_P_MIN = s.fld (Reg.PACE_P n) F.PACE_P_MEAS ∧
       t.flag (Reg.PACE_P n) F.PACE_P_HOT = s.flag (Reg.PACE_P n) F.PACE_P_HOT ∧ t = { s with drs := t.drs } ∧
       (∀ o, o ≠ Reg.PACE_P n → t.rd o = s.rd o))) ∧
  (∀ (n : Fin 100) (classes : Nat) (s : State), s.stopped = false →
     (∀ q, q = s.need n classes - (s.floor n + s.granted n) →
       (q = 0 ∨ s.closed n = true ∨ s.grantQ.any (fun r => r.polder == n.val) = true → exec (.grantRequest n classes) s = .next s) ∧
       (q ≠ 0 → s.closed n = false → s.grantQ.any (fun r => r.polder == n.val) = false →
         ∃ t, exec (.grantRequest n classes) s = .next t ∧ t.grantQ = s.grantQ ++ [⟨n, q⟩] ∧ t.granted n = s.granted n ∧
           t.floor n = s.floor n ∧ t = { s.draw.2 with grantQ := t.grantQ, drs := t.drs } ∧
           (∀ o, o ≠ Reg.CP_P n → t.rd o = s.rd o))) ∧
     (s.frozen = true → exec .grant s = .next s) ∧
     (s.frozen = false →
       ∀ may, may = (fun (x : GrantReq) => s.hotAllows x.polder x.quanta && s.shareAllows x.polder x.quanta) →
       (∀ r q, s.grantQ.find? (fun x => s.reserveFits x && may x) = some r → s.reserveFor r = some (q, r.quanta) →
         s.granted r.polder + r.quanta < 256 → ∃ t, exec .grant s = .next t ∧ t.granted r.polder = s.granted r.polder + r.quanta ∧
           t.grantQ = s.grantQ.erase r ∧ t.drawn = s.drawn ++ [(q, r.polder, r.quanta)] ∧
           t = { s with drs := t.drs, grantQ := t.grantQ, drawn := t.drawn, rises := t.rises } ∧
           (∀ o, o ≠ Reg.CP_P r.polder → t.rd o = s.rd o)) ∧
       (∀ r rs rest, s.grantQ.find? (fun x => s.reserveFits x && may x) = none → s.grantQ = r :: rs →
         rest = r.quanta - ((s.reserveFor r).map (fun x => x.2)).getD 0 →
         (rest ≤ s.poolRoom ∧ s.rampAllows rest = true ∧ may r = true → s.granted r.polder + r.quanta < 256 →
           ∃ t, exec .grant s = .next t ∧ t.granted r.polder = s.granted r.polder + r.quanta ∧ t.grantQ = rs ∧
             (rest ≠ 0 → t.rises.getLast? = some (s.time, rest)) ∧
             t.drawn = s.drawn ++ ((s.reserveFor r).map (fun x => (x.1, r.polder, x.2))).toList ∧
             t = { s with drs := t.drs, grantQ := t.grantQ, drawn := t.drawn, rises := t.rises } ∧
             (∀ o, o ≠ Reg.CP_P r.polder → t.rd o = s.rd o)) ∧
         (s.poolRoom < rest ∨ s.rampAllows rest = false ∨ may r = false → exec .grant s = .next s))) ∧
     (∃ t, exec (.grantRelease n classes) s = .next t ∧ t.granted n = min (s.granted n) (s.need n classes - s.floor n) ∧
       t = { s with drs := t.drs, drawn := t.drawn } ∧ (∀ o, o ≠ Reg.CP_P n → t.rd o = s.rd o)))

/-! ## Live configuration (16 R413 to R431) -/

/-- ZN_CMD LOAD in EMPTY or READY begins to load; when the image has been read it is checked, and ZN_STAT shows READY, or EMPTY with
STATUS, REASON and SECTION of the first check that fails; while its blocks have not come from their ports, loading goes on. The other
commands of ZN_CMD. APPLY takes a READY delta: the plan of its
changes begins, with the first closure still to be made. STAGE_WARM takes a READY full image: STAGED. Each refuses the other kind with
0x09, REASON 5. ABORT of a change of which nothing is made yet ends it with 0x02, later it has no effect and reports 0x01. DISCARD of a
READY or STAGED image leaves EMPTY. While a change is made, LOAD, APPLY and STAGE_WARM answer 0x09, REASON 7; a code that does not
match STATE sets CMD_LOST.
Forms shown to complete: load, loadComplete, apply, stageWarm, znAbort, discard. The model's readings: log entry 20. -/
def Obligations.ImagesLoadedAndCommanded : Prop :=
  (∀ (src b : Option (List Byte)) (u s : State), s.stopped = false → s.asks = [] → s.znSource src = (b, u) →
     ((s.znState = 0 ∨ s.znState = 2) → ∃ t, exec .load s = .next t ∧ t.znState = 1 ∧ t.zen.buf = [] ∧
       t = { s with drs := t.drs, zen := { s.zen with buf := [] } } ∧ (∀ o, o ≠ Reg.ZN_STAT → t.rd o = s.rd o)) ∧
     (s.znState = 1 →
       (∀ st r id, u.asks = [] → u.imageCheck b = some (st, r, id) → st < 256 → r < 16 → id < 256 →
         ∃ t, exec (.loadComplete src) s = .next t ∧ t.znState = 0 ∧ t.fld Reg.ZN_STAT F.ZN_STAT_STATUS = st ∧
           t.fld Reg.ZN_STAT F.ZN_STAT_REASON = r ∧ t.fld Reg.ZN_STAT F.ZN_STAT_SECTION = id ∧
           t = s.leaves { u.blocksUsed with drs := t.drs } ∧ (∀ o, o ≠ Reg.ZN_STAT → t.rd o = u.rd o)) ∧
       (∀ x, u.asks = [] → u.imageCheck b = none → b = some x →
         ∃ t, exec (.loadComplete src) s = .next t ∧ t.znState = 2 ∧ t.fld Reg.ZN_STAT F.ZN_STAT_STATUS = 0 ∧ t.zen.buf = x ∧
           t.zen.signer = (u.keySlot x).getD 4 ∧ t.zen.force = u.zen.force ∧ t = s.leaves { u.blocksUsed with drs := t.drs, zen := t.zen } ∧
           (∀ o, o ≠ Reg.ZN_STAT → t.rd o = u.rd o)) ∧
       (u.asks ≠ [] → exec (.loadComplete src) s = .next (s.leaves (u.asks.foldl State.postAsk s)))) ∧
     (s.znState ≠ 1 → exec (.loadComplete src) s = .next s)) ∧
  (∀ s : State, s.stopped = false →
     (s.znState = 2 →
       (imDelta s.zen.buf = true → ∀ p ps, s.planOf s.zen.buf = p :: ps → s.stepClose p ≠ [] →
         ∃ t, exec .apply s = .next t ∧ t.znState = 3 ∧ t.zen.plan = p :: ps ∧ t.zen.committed = false ∧ t.zen.buf = s.zen.buf ∧
           t = { s with drs := t.drs, zen := t.zen } ∧ (∀ o, o ≠ Reg.ZN_STAT → t.rd o = s.rd o)) ∧
       (imDelta s.zen.buf = false → exec .apply s = .next (s.leaves (s.znResult 2 0x09 5 0 0)) ∧
         ∃ t, exec .stageWarm s = .next t ∧ t.znState = 5 ∧ t = { s with drs := t.drs } ∧ (∀ o, o ≠ Reg.ZN_STAT → t.rd o = s.rd o)) ∧
       (imDelta s.zen.buf = true → exec .stageWarm s = .next (s.leaves (s.znResult 2 0x09 5 0 0)))) ∧
     ((s.znState = 3 ∨ s.znState = 4) →
       (∀ c ∈ [Instr.load, Instr.apply, Instr.stageWarm], ∃ t, exec c s = .next t ∧ t.znState = s.znState ∧
         t.fld Reg.ZN_STAT F.ZN_STAT_STATUS = 0x09 ∧ t.fld Reg.ZN_STAT F.ZN_STAT_REASON = 7 ∧ t = { s with drs := t.drs }) ∧
       (s.zen.committed = false → s.zen.closing = [] → ∃ t, exec .znAbort s = .next t ∧ t.znState = 2 ∧ t.zen.plan = [] ∧
         t.fld Reg.ZN_STAT F.ZN_STAT_STATUS = 0x02 ∧ t.zen.buf = s.zen.buf ∧ t = { s with drs := t.drs, zen := t.zen }) ∧
       ((s.zen.committed = true ∨ s.zen.closing ≠ []) → ∃ t, exec .znAbort s = .next t ∧ t.znState = s.znState ∧
         t.fld Reg.ZN_STAT F.ZN_STAT_STATUS = 0x01 ∧ t = { s with drs := t.drs })) ∧
     ((s.znState = 2 ∨ s.znState = 5) → ∃ t, exec .discard s = .next t ∧ t.znState = 0 ∧ t.zen.buf = [] ∧
       t.zen.force = s.zen.force ∧ t = { s with drs := t.drs, zen := t.zen } ∧ (∀ o, o ≠ Reg.ZN_STAT → t.rd o = s.rd o)) ∧
     (∀ x ∈ [(Instr.load, [1, 5]), (.apply, [0, 1, 5]), (.stageWarm, [0, 1, 5]), (.znAbort, [0, 1, 2, 5]), (.discard, [0, 1, 3, 4])],
       s.znState ∈ x.2 → ∃ t, exec x.1 s = .next t ∧ t.znState = s.znState ∧ t.flag Reg.ZN_STAT F.ZN_STAT_CMD_LOST = true ∧
         t = { s with drs := t.drs } ∧ (∀ o, o ≠ Reg.ZN_STAT → t.rd o = s.rd o)))

/-- A change at its next closure: where nothing keeps it waiting the polders close, and their time is charged to the RUNNING passages they
concern; else it is DEFERRED, and goes on once nothing does. At the sluice: when the closed polder of a change's last step has drained,
it takes its setpoint, class and certified pace, its epoch and its open dike, and the configuration epoch advances; a polder that has
not drained stays closed, and after 1.0 us its charged passages are AT_RISK, with a record. Where a passage held since the closure
began forbids the change, the dike opens with nothing applied, and the change is DEFERRED.
Forms shown to complete: sluiceClosure, sluice, drainOverrun, deferredChangeResume. The model's readings: log entries 20 and 48. -/
def Obligations.SluicesCloseAndApply : Prop :=
  (∀ (p : PlanStep) (ps : List PlanStep) (s : State), s.stopped = false → s.zen.plan = p :: ps →
     s.stepClose p ≠ [] → (∀ n ∈ s.stepClose p, n < 100) → (∀ x ∈ s.passages, x.1 < 32) →
     (s.znState = 3 → s.zen.closing = [] →
       (s.stepWait p = .no → ∃ t, exec .sluiceClosure s = .next t ∧ t.zen.closing = s.stepClose p ∧ t.zen.committed = true ∧
         t.zen.plan = s.zen.plan ∧ t.zen.charged = s.chargeable (s.stepClose p) ∧
         (∀ n ∈ s.stepClose p, t.fld (Reg.DK_P n) F.DK_P_STATE = 2) ∧
         (∀ n, n ∉ s.stepClose p → n < 100 → t.rd (Reg.DK_P n) = s.rd (Reg.DK_P n)) ∧ t = { s with drs := t.drs, zen := t.zen }) ∧
       (∀ w, s.stepWait p = w → w ≠ .no → ∃ t, exec .sluiceClosure s = .next t ∧ t.znState = 4 ∧
         t.fld Reg.ZN_STAT F.ZN_STAT_STATUS = 0x08 ∧
         (∀ q, w = .passage q → t.fld Reg.ZN_STAT F.ZN_STAT_REASON = 9 ∧ t.fld Reg.ZN_STAT F.ZN_STAT_DEFER_PID = s.ptPid q) ∧
         (w = .object → t.fld Reg.ZN_STAT F.ZN_STAT_REASON = 0xA) ∧
         t = { s with drs := t.drs } ∧ (∀ o, o ≠ Reg.ZN_STAT → t.rd o = s.rd o))) ∧
     (s.znState = 4 →
       (s.stepWait p = .no → ∃ t, exec .deferredChangeResume s = .next t ∧ t.znState = 3 ∧ t.zen = s.zen ∧
         t = { s with drs := t.drs } ∧ (∀ o, o ≠ Reg.ZN_STAT → t.rd o = s.rd o)) ∧
       (s.stepWait p ≠ .no → exec .deferredChangeResume s = .next s))) ∧
  (∀ (n ph v c : Nat) (s : State), s.stopped = false → n < 100 → v < 256 → c < 3 → s.zen.closing = [n] → s.closed n = false →
     s.zen.plan = [⟨ph, [.setpoint n v c]⟩] →
     (∀ w, s.drained [n] n = true → s.changeWait (.setpoint n v c) = w → w ≠ .no → ∃ t, exec .sluice s = .next t ∧ t.znState = 4 ∧
       t.fld Reg.ZN_STAT F.ZN_STAT_STATUS = 0x08 ∧ t.fld (Reg.DK_P n) F.DK_P_STATE = 1 ∧ t.zen.closing = [] ∧ t.zen.charged = [] ∧
       t.zen.plan = s.zen.plan ∧ t.zen.buf = s.zen.buf ∧ t = { s with drs := t.drs, zen := t.zen } ∧
       (∀ o, o ≠ Reg.ZN_STAT → o ≠ Reg.DK_P n → t.rd o = s.rd o)) ∧
     (s.drained [n] n = true → s.changeWait (.setpoint n v c) = .no → ∃ t, exec .sluice s = .next t ∧ t.vset n = v ∧ t.fld (Reg.PACE_P n) F.PACE_P_CLASS = c ∧
       t.cert n = certPace v c ∧ t.fld (Reg.DK_P n) F.DK_P_STATE = 1 ∧ t.rd (Reg.ZN_PEP n) = s.rd Reg.ZN_EPOCH + 1 ∧
       t.rd Reg.ZN_EPOCH = s.rd Reg.ZN_EPOCH + 1 ∧ t.znState = 0 ∧ t.zen.closing = [] ∧ t.zen.plan = [] ∧ t.zen.buf = [] ∧
       bit (t.fld Reg.AL_STAT F.AL_STAT_CLASS) 2 = true ∧ t.slots = s.slots ∧ t.em = s.em ∧ t.net = s.net) ∧
     (s.drained [n] n = false → exec .sluice s = .next s ∧
       ∃ t, exec .drainOverrun s = .next t ∧ (∀ q ∈ s.zen.charged, t.flag (Reg.PT_ID q) F.PT_ID_AT_RISK = true) ∧
         t.reports.getLast? = some ⟨0x11, 1, n, 0, 0, 0xFF, 0, [BitVec.ofNat 64 s.zen.cost]⟩ ∧
         t = { s with drs := t.drs, reports := t.reports }))

/-! ## Relief and soundings (17 R434 to R446) -/

/-- RP_CTL RELIEVE: with a SPARE slot that is free the relief starts, and the spare takes the setpoint, class and floor of the core's slot;
without a SPARE slot it answers 0x92; where it must wait, 0x08. A pass that leaves few dirty lines stops the slot, one that leaves many
is followed by another, and at PASSES the relief is abandoned with 0x93. The relief commits once slot X has stopped: the logical core
is bound to slot Y, which has the Tile Store, the contexts and the tallies that X had; the passages that counted on X count on Y. A
slot that still runs keeps it waiting.
Forms shown to complete: relieve, copyPassDone, reliefCommit. The model's readings: log entry 22. -/
def Obligations.ReliefMovesTheCore : Prop :=
  (∀ (id : Fin 64) (x : Nat) (s : State), s.stopped = false →
     (s.slotOf id = some x →
       (s.rpBusy = false → s.hasSpare (x / 9) = true →
         (∀ y ys, s.reliefWaits x = false → s.spares (x / 9) = y :: ys → ∃ t, exec (.relieve id) s = .next t ∧
           t.repair.relief = some ⟨id, x, y, 0, [], false, false, s.time⟩ ∧ t.vset y = s.vset x ∧ t.floor y = s.floor x ∧
           t.fld (Reg.PACE_P y) F.PACE_P_CLASS = s.fld (Reg.PACE_P x) F.PACE_P_CLASS ∧ t.fld Reg.RP_STAT F.RP_STAT_STATUS = 0 ∧
           t = { s with drs := t.drs, repair := t.repair, rises := t.rises }) ∧
         (s.reliefWaits x = true → ∃ t, exec (.relieve id) s = .next t ∧
           t.repair.waiting = s.repair.waiting ++ [⟨true, id, s.time, false⟩] ∧ t.fld Reg.RP_STAT F.RP_STAT_STATUS = 0x08 ∧
           t = { s with drs := t.drs, repair := t.repair })) ∧
       (s.rpBusy = false → s.hasSpare (x / 9) = false → exec (.relieve id) s = .next (s.leaves (s.rpStatus 0x92))) ∧
       (s.rpBusy = true → exec (.relieve id) s = .next (s.leaves s.rpLost))) ∧
     (s.slotOf id = none → exec (.relieve id) s = .next (s.leaves s.rpLost)) ∧
     (∀ r, s.repair.relief = some r → r.pause = false →
       (r.dirty.length ≤ s.dirtyLimit →
         (s.blocker [r.x] s.reliefTime = none → ∃ t, exec .copyPassDone s = .next t ∧
           t.repair.relief = some { r with
             pause := true
             was := s.flag (Reg.TILE_CTL r.x) F.TILE_CTL_HALT
             since := s.time } ∧
           ((s.slot r.x).halt = .running → (t.slot r.x).halt = .halting) ∧ t = { s with drs := t.drs, slots := t.slots, repair := t.repair }) ∧
         (∀ q, s.blocker [r.x] s.reliefTime = some q → ∃ t, exec .copyPassDone s = .next t ∧ t.fld Reg.RP_STAT F.RP_STAT_STATUS = 0x08 ∧
           t.repair = { s.repair with
             waiting := if s.repair.waiting.any (fun w => w.relief && w.what == r.lid) then s.repair.waiting
               else s.repair.waiting ++ [⟨true, r.lid, s.time, false⟩] } ∧
           t = { s with drs := t.drs, repair := t.repair })) ∧
       (s.dirtyLimit < r.dirty.length →
         (r.passes + 1 < s.passLimit → exec .copyPassDone s = .next { s with
           repair := { s.repair with relief := some { r with
             passes := r.passes + 1
             dirty := [] } } }) ∧
         (s.passLimit ≤ r.passes + 1 → ∃ t, exec .copyPassDone s = .next t ∧ t.repair.relief = none ∧
           t.fld Reg.RP_STAT F.RP_STAT_STATUS = 0x93 ∧ t.reports.length = s.reports.length + 1 ∧ t.slots = s.slots ∧ t.bind = s.bind)))) ∧
  (∀ (r : Relief) (s : State), s.stopped = false → s.repair.relief = some r →
     (r.pause = true → (s.slot r.x).halt = .halted → r.lid < 64 → r.y / 9 = r.lid / 8 → r.x < 72 → r.x ≠ r.y →
       swf resetWord s.drs = true →
       ∃ t, exec .reliefCommit s = .next t ∧ t.slotOf r.lid = some r.y ∧ (t.slot r.y).ts = (s.slot r.x).ts ∧
         (t.slot r.y).main = (s.slot r.x).main ∧ (t.slot r.y).hand = (s.slot r.x).hand ∧ (t.slot r.y).imem = (s.slot r.x).imem ∧
         (t.slot r.x).ts = [] ∧ (∀ j, j < 16 → t.rd (Reg.TALLY r.y j) = s.rd (Reg.TALLY r.x j)) ∧ t.repair.relief = none ∧
         t.passages = s.passages.map (fun q => (q.1, { q.2 with
           paces := q.2.paces.map (fun z => if z.1 = r.x then (r.y, z.2) else z) })) ∧
         t.leases = s.leases.map (fun l => if l.polder = r.x then { l with polder := r.y } else l) ∧
         t.drsHeld = s.drsHeld.map (heldMoved r.x r.y) ∧
         (∀ j, j ≠ r.x → j ≠ r.y → t.slot j = s.slot j) ∧ t.em = s.em ∧ t.net = s.net) ∧
     ((r.pause = false ∨ (s.slot r.x).halt ≠ .halted) → exec .reliefCommit s = .next s))

/-- Soundings. RP_CTL SOUND of a polder that may be tested begins one: a slot is set to 0.68 V, a sector or memory polder closes at its
sluice; it waits with 0x08 where it must. The rotation begins with the SPARE slot, and what waits is tried again. A sounding ends:
DK_P.SOUND says PASS, REPAIRED or FAIL, the rows queued for the polder are dealt with, and a slot's Tile Store is zero. RP_CTL
UNQUARANTINE of a quarantined polder begins one; the polder opens its dikes if it passes, and else stays quarantined. A sounding of the
rotation that must wait is reported as DEFERRED likewise, and STATUS is 0 again once it begins; a relief whose pause waited is tried
again in the same way.
Forms shown to complete: sound, soundingRotation, soundingRetry, soundingDone, unquarantine. The model's readings: log entry 22. -/
def Obligations.SoundingsMade : Prop :=
  (∀ (n : Fin 100) (sec : Fin 8) (i : Nat) (s : State), s.stopped = false → (∀ x ∈ s.passages, x.1 < 32) →
     (s.rpBusy = false → s.soundable n = true →
       (s.soundWaits n = false → ∃ t, exec (.sound n) s = .next t ∧ t.repair = { s.repair with soundings := [⟨n, s.time, false⟩] } ∧
         t.fld Reg.RP_STAT F.RP_STAT_STATUS = 0 ∧ (n.val < 72 → t.vset n = 16) ∧
         (soundCloses n = true → t.fld (Reg.DK_P n) F.DK_P_STATE = 2) ∧ t = { s with drs := t.drs, repair := t.repair }) ∧
       (s.soundWaits n = true → ∃ t, exec (.sound n) s = .next t ∧
         t.repair = { s.repair with waiting := s.repair.waiting ++ [⟨false, n, s.time, false⟩] } ∧
         t.fld Reg.RP_STAT F.RP_STAT_STATUS = 0x08 ∧ t = { s with drs := t.drs, repair := t.repair })) ∧
     ((s.rpBusy = true ∨ s.soundable n = false) → exec (.sound n) s = .next (s.leaves s.rpLost)) ∧
     (∀ k w, s.periodH ≠ 0 → s.hasSpare sec = true → tget (0, 9) s.repair.turn sec = (0, w) →
       (List.range' (9 * sec.val) 9).find? (fun k => (s.coreOf k).isNone && !s.isRetired k && !s.closed k) = some k →
       s.soundable k = true →
       (s.soundWaits k = false → ∃ t, exec (.soundingRotation sec false) s = .next t ∧ t.vset k = 16 ∧
         t.repair = { s.repair with
           turn := tput s.repair.turn sec (1, k % 9)
           soundings := s.repair.soundings ++ [⟨k, s.time, false⟩] } ∧ t = { s with drs := t.drs, repair := t.repair }) ∧
       (s.soundWaits k = true → ∃ t, exec (.soundingRotation sec false) s = .next t ∧ t.fld Reg.RP_STAT F.RP_STAT_STATUS = 0x08 ∧
         t.repair = { s.repair with
           turn := tput s.repair.turn sec (1, k % 9)
           waiting := s.repair.waiting ++ [⟨false, k, s.time, false⟩] } ∧ t = { s with drs := t.drs, repair := t.repair })) ∧
     (s.periodH = 0 → ∀ b, exec (.soundingRotation sec b) s = .next s) ∧
     (∀ p since late, s.repair.waiting[i]? = some ⟨false, p, since, late⟩ → s.soundable p = true → s.soundWaits p = false →
       ∃ t, exec (.soundingRetry i) s = .next t ∧ t.repair = { s.repair with
         waiting := s.repair.waiting.eraseIdx i
         soundings := s.repair.soundings ++ [⟨p, s.time, false⟩] } ∧ t.fld Reg.RP_STAT F.RP_STAT_STATUS = 0 ∧
         t = { s with drs := t.drs, repair := t.repair, reports := t.reports }) ∧
     (∀ id since late r, s.repair.waiting[i]? = some ⟨true, id, since, late⟩ → s.reliefOf id = some r → r.dirty.length ≤ s.dirtyLimit →
       s.blocker [r.x] s.reliefTime = none → ∃ t, exec (.soundingRetry i) s = .next t ∧ t.fld Reg.RP_STAT F.RP_STAT_STATUS = 0 ∧
         (∀ w ∈ t.repair.waiting, w.relief = true → w.what ≠ id) ∧ t.repair.relief = some { r with
           pause := true
           was := s.flag (Reg.TILE_CTL r.x) F.TILE_CTL_HALT
           since := s.time } ∧
         t = { s with drs := t.drs, slots := t.slots, repair := t.repair, reports := t.reports })) ∧
  (∀ (n : Fin 100) (f : Found) (s : State), s.stopped = false →
     (∀ b, s.repair.soundings.find? (fun x => x.polder == n.val) = some b →
       (b.unq = false → (soundCloses n = true → s.drained [n.val] n = true) → ∃ t, exec (.soundingDone n f) s = .next t ∧
         t.fld (Reg.DK_P n) F.DK_P_SOUND = (s.judge n f).result ∧ (∀ x ∈ t.repair.soundings, x.polder ≠ n.val) ∧
         (∀ w ∈ t.repair.queued, sramPolder w ≠ n.val) ∧ t.repair.srams = (s.judge n f).srams ∧ (n.val < 72 → (t.slot n).ts = []) ∧
         (soundCloses n = true → t.fld (Reg.DK_P n) F.DK_P_STATE = 1) ∧ t.em = s.em) ∧
       (b.unq = true → s.fld (Reg.DK_P n) F.DK_P_STATE = 4 → ∃ t, exec (.soundingDone n f) s = .next t ∧
         t.fld (Reg.DK_P n) F.DK_P_STATE = (if (s.judge n f).result = 3 ∨ (s.judge n f).retire = true then 4 else 1) ∧
         t.fld (Reg.DK_P n) F.DK_P_SOUND = (s.judge n f).result ∧ t.em = s.em)) ∧
     (s.repair.soundings.find? (fun x => x.polder == n.val) = none → exec (.soundingDone n f) s = .next s) ∧
     (s.rpBusy = false → s.present n = true → s.fld (Reg.DK_P n) F.DK_P_STATE = 4 → ∃ t, exec (.unquarantine n) s = .next t ∧
       t.repair = { s.repair with soundings := [⟨n, s.time, true⟩] } ∧ t.fld (Reg.DK_P n) F.DK_P_STATE = 4 ∧
       (n.val < 72 → t.vset n = 16) ∧
       t.fld Reg.RP_STAT F.RP_STAT_STATUS = 0 ∧ t = { s with drs := t.drs, repair := t.repair }) ∧
     ((s.rpBusy = true ∨ s.present n = false ∨ s.fld (Reg.DK_P n) F.DK_P_STATE ≠ 4) →
       exec (.unquarantine n) s = .next (s.leaves s.rpLost)))

/-! ## Quarantine (17 R447 to R451) -/

/-- A polder is quarantined by RP_CTL QUARANTINE, an unanswered dike handshake or lost pace reports: its dikes are closed, DK_P names the
cause, it has no setpoint, no grant and no floor, and two records tell the cause and the leases; with a sector polder its nine slots are
closed. The keep polder, a polder the macro lacks and one that is quarantined are not.
Forms shown to complete: paceLost, quarantine, dikeTimeout. The model's readings: log entry 23. -/
def Obligations.PoldersQuarantined : Prop :=
  ∀ (n : Fin 100) (s : State), s.stopped = false →
    (s.present n = true → n.val ≠ 99 → s.closed n = false →
      ∀ x ∈ [(Instr.quarantine n, 4), (.dikeTimeout n, 2), (.paceLost n, 3)], (x.2 = 4 → s.rpBusy = false) →
        ∃ (t : State) (w : Word) (leases : Nat), exec x.1 s = .next t ∧
          t.fld (Reg.DK_P n) F.DK_P_STATE = 4 ∧ t.fld (Reg.DK_P n) F.DK_P_CAUSE = x.2 ∧ t.closed n = true ∧
          t.vset n = 0 ∧ t.granted n = 0 ∧ t.floor n = 0 ∧ (∀ r ∈ t.grantQ, r.polder ≠ n.val) ∧
          (72 ≤ n.val → n.val < 80 → ∀ k ∈ List.range' (9 * (n.val - 72)) 9, t.closed k = true) ∧
          (x.2 = 4 → t.fld Reg.RP_STAT F.RP_STAT_STATUS = 0) ∧
          ∃ before after, t.reports = before ++ [⟨0x70, 3, n, 0, 0, 0xFF, 0, [BitVec.ofNat 64 x.2, w]⟩,
            ⟨0x71, 2, n, 0, 0, 0xFF, 0, [BitVec.ofNat 64 leases]⟩] ++ after) ∧
    ((s.present n = false ∨ n.val = 99 ∨ s.closed n = true) → exec (.dikeTimeout n) s = .next s ∧ exec (.paceLost n) s = .next s) ∧
    ((s.rpBusy = true ∨ s.present n = false ∨ n.val = 99 ∨ s.closed n = true) →
      exec (.quarantine n) s = .next (s.leaves s.rpLost))

/-! ## The non-volatile store and the Logbook (15 R406 to R409, 17 R435, R456 to R458) -/

/-- A repair map that differs from the stored one is written as one record, which is then the newest valid one of its area, and a record
tells of it; where nothing has changed nothing is written. The wear ledger's record is written likewise. A report enters the Logbook
with the next number, or merges into an open record of its kind; SEV 2 and 3 raise the RAS class where no other class counts the event.
A batch persists up to 64 records that wait, oldest first, as one record of the store at its place in the ring.
Forms shown to complete: repairMapWrite, wearLedger, logbookRecord, logbookBatch. The model's readings: log entries 2 and 21. -/
def Obligations.RecordsKept : Prop :=
  (∀ s : State, s.stopped = false →
     (s.repairBody ≠ s.storedMap → s.repair.srams.length ≤ 4000 → (s.nvNext .repair).2 < 2 ^ 64 →
       ∃ t, exec .repairMapWrite s = .next t ∧ t.storedMap = s.repairBody ∧ t.reports = s.reports ++
         [⟨0x62, 0, 99, 0, 0, 0xFF, 0, [BitVec.ofNat 64 (s.nvNext .repair).2]⟩] ∧ t = { s with nv := t.nv, reports := t.reports }) ∧
     (s.repairBody = s.storedMap → exec .repairMapWrite s = .next s) ∧
     ((s.nvNext .ledger).2 < 2 ^ 64 → ∃ t i body, exec .wearLedger s = .next t ∧
       t.nvNewest .ledger = some (i, (s.nvNext .ledger).2, body) ∧ body.length = 32768 ∧ body = t.ledgerBody ∧ t.lifeKept = s.life ∧
       t = { s with nv := t.nv, ledger := t.ledger, lifeKept := t.lifeKept })) ∧
  (∀ (i : Nat) (s : State), s.stopped = false →
     (∀ e, s.reports[i]? = some e →
       (s.log.findIdx? (fun r => r.merges e s.time) = none → s.log.length < 65536 → ∃ t, exec (.logbookRecord i) s = .next t ∧
         t.log = s.log ++ [⟨(s.rd Reg.LB_NEXT).toNat, s.time, e, 0, if 1024 ≤ s.unkept.length then 2 else 0⟩] ∧
         t.rd Reg.LB_NEXT = s.rd Reg.LB_NEXT + 1 ∧ t.reports = s.reports.eraseIdx i ∧
         t.lostTail = s.lostTail + (if 1024 ≤ s.unkept.length then 1 else 0) ∧
         (2 ≤ e.sev → otherClass e.code = false → bit (t.fld Reg.AL_STAT F.AL_STAT_CLASS) 9 = true) ∧
         (e.sev < 2 → t = { s with log := t.log, reports := t.reports, drs := t.drs, lostTail := t.lostTail } ∧
           ∀ o, o ≠ Reg.LB_NEXT → t.rd o = s.rd o)) ∧
       (∀ j r, s.log.findIdx? (fun r => r.merges e s.time) = some j → s.log[j]? = some r → ∃ t, exec (.logbookRecord i) s = .next t ∧
         t.log = s.log.set j { r with again := min 0xFFFF (r.again + 1) } ∧ t.reports = s.reports.eraseIdx i ∧
         t = { s with log := t.log, reports := t.reports })) ∧
     (s.reports[i]? = none → exec (.logbookRecord i) s = .next s) ∧
     (s.unkept ≠ [] → s.batchSeq + 1 < 2 ^ 64 → ∃ t, exec .logbookBatch s = .next t ∧ t.batchSeq = s.batchSeq + 1 ∧
       t.nvValid 4 (batchPos t.batchSeq) batchBytes = some (t.batchSeq, batchBody (s.unkept.take 64)) ∧
       t.log = s.log.map (fun r => if (s.unkept.take 64).contains r then { r with kept := 1 } else r) ∧
       t = { s with time := t.time, nv := t.nv, log := t.log, batchSeq := t.batchSeq, keptSeq := t.keptSeq, batchAt := t.batchAt }) ∧
     (s.unkept = [] → exec .logbookBatch s = .next s))

/-! ## Semaphores (17 R452, R453) -/

/-- DOWN, UP and INIT on a semaphore, completed in SEM_RES of the agent with STATUS and the value after: DOWN takes one, and the last one
owned by its polder, or answers 0x09 at 0 and 0x07 where the semaphore is ABANDONED, which gives it to the polder; UP adds one and ends
the ownership, or answers 0x06 at the largest value and 0x09 where it is ABANDONED; INIT sets the value and clears both. An owner that
is the keep polder or absent is answered 0x82.
Forms shown to complete: down, up, init. The model's readings: log entry 37. -/
def Obligations.SemaphoresServed : Prop :=
  ∀ (a : Fin 9) (owner : Nat) (n : Fin 256) (x v : Nat) (s : State), s.stopped = false →
    v = s.semValue n →
    (∀ c st w, owner < 99 → s.present owner = true → (c, st, w) ∈ ([
        (Instr.down a owner n, if s.semAbandoned n then 0x07 else if v = 0 then 0x09 else 0x00,
          if s.semAbandoned n then (0, 1, owner, v) else if v = 0 then (0, b01 (s.semOwned n), s.fld (Reg.SEM_V n) F.SEM_V_OWNER, 0)
          else if v = 1 then (0, 1, owner, 0) else (0, b01 (s.semOwned n), s.fld (Reg.SEM_V n) F.SEM_V_OWNER, v - 1)),
        (.up a owner n, if s.semAbandoned n then 0x09 else if v = 2 ^ 32 - 1 then 0x06 else 0x00,
          if s.semAbandoned n then (1, b01 (s.semOwned n), s.fld (Reg.SEM_V n) F.SEM_V_OWNER, v)
          else if v = 2 ^ 32 - 1 then (0, b01 (s.semOwned n), s.fld (Reg.SEM_V n) F.SEM_V_OWNER, v) else (0, 0, 0, v + 1)),
        (.init a n (x % 2 ^ 32), 0x00, (0, 0, 0, x % 2 ^ 32))] : List (Instr × Nat × Nat × Nat × Nat × Nat)) →
      ∃ t, exec c s = .next t ∧ b01 (t.semAbandoned n) = w.1 ∧ b01 (t.semOwned n) = w.2.1 ∧
        t.fld (Reg.SEM_V n) F.SEM_V_OWNER = w.2.2.1 ∧ t.semValue n = w.2.2.2 ∧ t.flag (Reg.SEM_RES a) F.SEM_RES_DONE = true ∧
        t.fld (Reg.SEM_RES a) F.SEM_RES_STATUS = st ∧ t.fld (Reg.SEM_RES a) F.SEM_RES_VALUE = t.semValue n ∧
        t = { s with drs := t.drs } ∧ (∀ o, o ≠ Reg.SEM_V n → o ≠ Reg.SEM_RES a → t.rd o = s.rd o)) ∧
    ((owner = 99 ∨ s.present owner = false) → ∀ c ∈ [Instr.down a owner n, .up a owner n], ∃ t, exec c s = .next t ∧
      t.fld (Reg.SEM_RES a) F.SEM_RES_STATUS = 0x82 ∧ t.flag (Reg.SEM_RES a) F.SEM_RES_DONE = true ∧ t = { s with drs := t.drs } ∧
      (∀ o, o ≠ Reg.SEM_RES a → t.rd o = s.rd o))

/-! ## Host attach port and host complex (18 R460 to R484) -/

/-- DRS_RD answers a completion with the bytes of the registers, as they show, for OWNER and for a fleet within its rights; else with 0x82,
0x04 or 0x0E and no data. DRS_WR acts as a register write of the port's; one that is refused is counted as DENIED, with the HOST class.
Either is held where its unit is at a sluice or frozen by a relief.
EM_RD answers the bytes of External Memory, at a physical address for OWNER and through the fleet's translation for one with the right;
else 0x82, 0x04 or the status of the failing access. EM_WR writes them, or is counted as DENIED. An access whose blocks have not come
from their ports asks for them, and is still to be made.
Forms shown to complete: drsRd, drsWr, emRd, emWr. The model's readings: log entries 27, 28 and 46. -/
def Obligations.HostReachesTheBlock : Prop :=
  (∀ (owner : Bool) (fleet tag off n : Nat) (bs : List Byte) (b : BootIn) (s : State), s.stopped = false → s.haReady = true →
     (s.haOut = [] →
       (drsShape off n = true → (owner = true ∨ s.drsRight fleet off true n = true) →
         (s.drsReach (some .attach) off = .ok → ∃ t bytes, exec (.drsRd owner fleet tag off n) s = .next t ∧
           t.haWire = s.haWire ++ [⟨0x08, 0, bytes.length, bytes, tag, 0⟩] ∧
           (∀ o r, n = 8 → s.physOf off = some o → regAt o = some r → bytes = natLE 8 (s.regShown o).toNat) ∧
           t = { s with drs := t.drs, haWire := t.haWire }) ∧
         (s.drsReach (some .attach) off = .closed → exec (.drsRd owner fleet tag off n) s = .next { s with
           haWire := s.haWire ++ [⟨0x08, 0, 0, [], tag, 0x0E⟩] }) ∧
         (s.drsReach (some .attach) off = .wait → exec (.drsRd owner fleet tag off n) s = .next { s with
           drsHeld := s.drsHeld ++ [(off, .drsRd owner fleet tag off n)] })) ∧
       (drsShape off n = true → owner = false → s.drsRight fleet off true n = false →
         exec (.drsRd owner fleet tag off n) s = .next { s with haWire := s.haWire ++ [⟨0x08, 0, 0, [], tag, 0x04⟩] }) ∧
       (drsShape off n = false →
         exec (.drsRd owner fleet tag off n) s = .next { s with haWire := s.haWire ++ [⟨0x08, 0, 0, [], tag, 0x82⟩] })) ∧
     (drsShape off bs.length = true → (owner = true ∨ s.drsRight fleet off false bs.length = true) → s.drsReach (some .attach) off ≠ .closed →
       ∃ t, exec (.drsWr owner fleet off bs b) s = .next t ∧
         (s.drsReach (some .attach) off = .ok → exec (.registerWrite 8 off bs b) s = .next t) ∧
         (s.drsReach (some .attach) off = .wait → t = { s with drsHeld := s.drsHeld ++ [(off, .drsWr owner fleet off bs b)] })) ∧
     ((drsShape off bs.length = false ∨ (owner = false ∧ s.drsRight fleet off false bs.length = false) ∨ s.drsReach (some .attach) off = .closed) →
       s.fld Reg.HA_ERR F.HA_ERR_DENIED < 0xFFFF → ∃ t, exec (.drsWr owner fleet off bs b) s = .next t ∧
         t.fld Reg.HA_ERR F.HA_ERR_DENIED = s.fld Reg.HA_ERR F.HA_ERR_DENIED + 1 ∧
         bit (t.fld Reg.AL_STAT F.AL_STAT_CLASS) 11 = true ∧ t.slots = s.slots ∧ t.em = s.em ∧ t.net = s.net)) ∧
  (∀ (owner : Bool) (fleet tag addr n : Nat) (bs : List Byte) (s : State), s.stopped = false → s.haReady = true → s.asks = [] →
     (s.haOut = [] →
       (emShape addr n = true →
         (∀ st data u, s.emLoadBy .attach (clsPrio 0) addr n = (st, data, u) →
           (u.asks = [] → u.haReady = true → u.haOut = [] →
             exec (.emRd true fleet tag addr n) s = .next (s.leaves { u.blocksUsed with haWire := u.haWire ++
               [⟨0x08, 0, (if st = 0 then data else []).length, if st = 0 then data else [], tag, st⟩] })) ∧
           (u.asks ≠ [] → exec (.emRd true fleet tag addr n) s = .next (s.leaves (u.asks.foldl State.postAsk s)))) ∧
         (s.haRight fleet F.HA_RIGHTS_EM = false →
           exec (.emRd false fleet tag addr n) s = .next { s with haWire := s.haWire ++ [⟨0x08, 0, 0, [], tag, 0x04⟩] }) ∧
         (s.haRight fleet F.HA_RIGHTS_EM = true → s.walkerFull fleet = false →
           (∀ st l u, s.haXlate fleet false (piecesOf addr n) = (st, l, u) → st ≠ 0 → u.asks = [] → u.haReady = true → u.haOut = [] →
             exec (.emRd false fleet tag addr n) s = .next (s.leaves { u.blocksUsed with
               haWire := u.haWire ++ [⟨0x08, 0, 0, [], tag, st⟩] })) ∧
           (∀ pa xl data u v, s.haXlate fleet false (piecesOf addr n) = (0, [(.em pa, n, xl)], u) →
             u.emLoadBy .attach (clsPrio 0) pa n = (0, data, v) → v.asks = [] → v.haReady = true → v.haOut = [] →
             exec (.emRd false fleet tag addr n) s = .next (s.leaves { v.blocksUsed with
               haWire := v.haWire ++ [⟨0x08, 0, data.length, data, tag, 0⟩] })))) ∧
       (emShape addr n = false →
         exec (.emRd owner fleet tag addr n) s = .next { s with haWire := s.haWire ++ [⟨0x08, 0, 0, [], tag, 0x82⟩] })) ∧
     (emShape addr bs.length = true →
       (∀ w old u, s.place addr = some w → addr % 256 + bs.length ≤ 256 → w.loc % 256 = addr % 256 → s.emWay .attach addr bs.length = .ok →
         s.behind (.port w.stack) = false → s.mpLost w.stack = false → s.protectedAt w.loc = none → s.blockRead (clsPrio 0) w.stack (w.loc / 256) = (0, old, u) →
         old.length = 256 →
         (bs.length = 256 ∨ u.asks = [] → ∃ t, exec (.emWr true fleet addr bs) s = .next t ∧
           t.emBytes w.stack (256 * (w.loc / 256)) 256 = mergeBytes old (w.loc % 256) bs ∧
           (∀ a, a < emKey w.stack (256 * (w.loc / 256)) ∨ emKey w.stack (256 * (w.loc / 256)) + 256 ≤ a →
             sget zeroByte t.em a = sget zeroByte s.em a) ∧ t.slots = s.slots) ∧
         (bs.length < 256 → u.asks ≠ [] → exec (.emWr true fleet addr bs) s = .next (s.leaves (u.asks.foldl State.postAsk s)))) ∧
       (s.haRight fleet F.HA_RIGHTS_EM = true → s.walkerFull fleet = false →
         ∀ pa xl u v st, s.haXlate fleet true (piecesOf addr bs.length) = (0, [(.em pa, bs.length, xl)], u) →
           u.emStoreBy .attach (clsPrio 0) pa bs = (st, v) → v.asks = [] →
           exec (.emWr false fleet addr bs) s = .next (s.leaves v.blocksUsed))) ∧
     ((emShape addr bs.length = false ∨ (owner = false ∧ s.haRight fleet F.HA_RIGHTS_EM = false)) →
       s.fld Reg.HA_ERR F.HA_ERR_DENIED < 0xFFFF → ∃ t, exec (.emWr owner fleet addr bs) s = .next t ∧
         t.fld Reg.HA_ERR F.HA_ERR_DENIED = s.fld Reg.HA_ERR F.HA_ERR_DENIED + 1 ∧
         bit (t.fld Reg.AL_STAT F.AL_STAT_CLASS) 11 = true ∧ t.slots = s.slots ∧ t.em = s.em ∧ t.net = s.net))

/-- HPUT to an open core that nothing stands in the way of: the bytes land in its Tile Store, its tally counts them, and the put is
outstanding until its acknowledgement arrives. FLUSH completes at once where none is outstanding, and else with the last of them. The
host's completion of an access to host memory ends it: a write is acknowledged with its status, a read gives the data asked for, or its
status; one that matches no access is counted as LATE. An access without a completion for HA_CFG.TIMEOUT ends with 0x94. Credits that
the wrapper returns are added; a waiting alert packet goes once its beats are covered. A packet with an OP that its channel does not
carry is answered 0x82 on the NPR channel and counted as DENIED on the others; one with a parity error is counted as PARITY, and
answered 0x95 where its header is good and it is an NPR.
Forms shown to complete: transferAck, hput, flush, cpl, hostTimeout, outboundCreditReturn, malformedPacket.
The model's readings: log entry 28. -/
def Obligations.HostPortServed : Prop :=
  (∀ (owner : Bool) (fleet tag core a k : Nat) (ta : Option Nat) (bs : List Byte) (s : State), s.stopped = false → s.haReady = true →
     (s.slotOf core = some k → s.closed k = false → bs ≠ [] → bs.length ≤ 4096 → a + bs.length ≤ 0x800000 → (∀ x, ta = some x → x < 16) →
       (owner = true ∨ (s.haRight fleet F.HA_RIGHTS_HPUT = true ∧ s.fleetOf core = some fleet)) →
       s.held ⟨.data, .attach, .core core, .deliver s.nextPut a bs ta⟩ = false →
       (∀ p ∈ s.net, ¬(p.plane = .data ∧ p.src = .attach ∧ p.dst = .core core)) →
       ∃ t, exec (.hput owner fleet core a ta bs) s = .next t ∧ t.tsRead k a bs.length = bs ∧
         (∀ b, b < a ∨ a + bs.length ≤ b → t.tsRead k b 1 = s.tsRead k b 1) ∧
         (∀ n, n < 16 → t.rd (Reg.TALLY k n) = s.rd (Reg.TALLY k n) + BitVec.ofNat 64 (if ta = some n then bs.length else 0)) ∧
         t.puts = s.puts ++ [s.nextPut] ∧ t.net.getLast? = some ⟨.reply, .core core, .attach, .deliverAck s.nextPut 0 bs.length⟩ ∧
         t.em = s.em ∧ (∀ j, j ≠ k → t.slot j = s.slot j)) ∧
     (owner = false → (s.haRight fleet F.HA_RIGHTS_HPUT = false ∨ s.fleetOf core ≠ some fleet) →
       s.fld Reg.HA_ERR F.HA_ERR_DENIED < 0xFFFF → ∃ t, exec (.hput owner fleet core a ta bs) s = .next t ∧
         t.fld Reg.HA_ERR F.HA_ERR_DENIED = s.fld Reg.HA_ERR F.HA_ERR_DENIED + 1 ∧ t.slots = s.slots ∧ t.net = s.net) ∧
     (s.haOut = [] → s.puts = [] → exec (.flush tag) s = .next { s with haWire := s.haWire ++ [⟨0x08, 0, 0, [], tag, 0⟩] }) ∧
     (s.puts ≠ [] → exec (.flush tag) s = .next { s with nprIn := s.nprIn ++ [⟨7, tag, s.puts.map (fun n => (n, 0, 0)), [], 0⟩] }) ∧
     (∀ i pl src n len, s.arrival i = some ⟨pl, src, .attach, .deliverAck n 0 len⟩ → s.haOut = [] → s.puts = [n] →
       s.nprIn = [⟨7, tag, [(n, 0, 0)], [], 0⟩] → exec (.transferAck i) s = .next { s with
         net := s.net.eraseIdx i
         puts := []
         nprIn := []
         haWire := s.haWire ++ [⟨0x08, 0, 0, [], tag, 0⟩] })) ∧
  (∀ (tag st : Nat) (bs : List Byte) (s : State), s.stopped = false →
     (∀ r back, s.hm.find? (fun x => x.sent && x.tag == tag) = some r → back = (fun (st : Nat) => (if r.write then
         ⟨.reply, .attach, .core r.core, .xferAck r.xid st⟩
       else ⟨.data, .attach, .core r.core, .xferData r.xid st (if st = 0 then (bs.drop r.lo).take r.want else [])⟩ : Packet)) →
       (s.haReady = true → (r.fill = none ∨ st ≠ 0) → exec (.cpl tag st bs) s = .next { s with
         hm := s.hm.erase r
         net := s.net ++ [back st] }) ∧
       (∀ sec fleet va, s.haReady = true → r.fill = some (sec, fleet, va) → st = 0 → ∃ t, exec (.cpl tag st bs) s = .next t ∧
         t.hm = s.hm.erase r ∧ t.net = s.net ++ [back st] ∧ t = { s with hm := t.hm, net := t.net, sectors := t.sectors } ∧
         (∀ n, n ≠ sec → t.sector n = s.sector n)) ∧
       (s.fld Reg.HA_ERR F.HA_ERR_TIMEOUT < 0xFFFF → ∃ t, exec (.hostTimeout tag) s = .next t ∧ t.net = s.net ++ [back 0x94] ∧
         t.time = max s.time r.due ∧ t.fld Reg.HA_ERR F.HA_ERR_TIMEOUT = s.fld Reg.HA_ERR F.HA_ERR_TIMEOUT + 1 ∧
         bit (t.fld Reg.AL_STAT F.AL_STAT_CLASS) 11 = true ∧ t.slots = s.slots ∧ t.em = s.em)) ∧
     (s.hm.find? (fun x => x.sent && x.tag == tag) = none → exec (.hostTimeout tag) s = .next s ∧
       (s.haReady = true → s.fld Reg.HA_ERR F.HA_ERR_LATE < 0xFFFF → ∃ t, exec (.cpl tag st bs) s = .next t ∧
         t.fld Reg.HA_ERR F.HA_ERR_LATE = s.fld Reg.HA_ERR F.HA_ERR_LATE + 1 ∧ bit (t.fld Reg.AL_STAT F.AL_STAT_CLASS) 11 = true ∧
         t.slots = s.slots ∧ t.em = s.em ∧ t.net = s.net))) ∧
  (∀ (pw npr ch op tag : Nat) (parity hdr : Bool) (s : State), s.stopped = false → s.haReady = true →
     (s.haOut = [] → exec (.outboundCreditReturn pw npr) s = .next { s with haCredits := (s.haCredits.1 + pw, s.haCredits.2 + npr) }) ∧
     (∀ p, s.haOut = [p] → p.op = 0x13 → p.beats ≤ s.haCredits.1 + pw → exec (.outboundCreditReturn pw npr) s = .next { s with
       haOut := []
       haWire := s.haWire ++ [p]
       haCredits := (s.haCredits.1 + pw - p.beats, s.haCredits.2 + npr) }) ∧
     (op ∉ chanOps ch → s.haOut = [] → ch = 1 → exec (.malformedPacket ch op tag false hdr) s = .next { s with
       haWire := s.haWire ++ [⟨0x08, 0, 0, [], tag, 0x82⟩] }) ∧
     (op ∉ chanOps ch → ch ≠ 1 → s.fld Reg.HA_ERR F.HA_ERR_DENIED < 0xFFFF → ∃ t, exec (.malformedPacket ch op tag false hdr) s = .next t ∧
       t.fld Reg.HA_ERR F.HA_ERR_DENIED = s.fld Reg.HA_ERR F.HA_ERR_DENIED + 1 ∧ bit (t.fld Reg.AL_STAT F.AL_STAT_CLASS) 11 = true) ∧
     (s.haOut = [] → bit (s.fld Reg.AL_ROUTE F.AL_ROUTE_HA) 11 = false → s.fld Reg.HA_ERR F.HA_ERR_PARITY < 0xFFFF → parity = true →
       ∃ t, exec (.malformedPacket ch op tag parity hdr) s = .next t ∧
         t.fld Reg.HA_ERR F.HA_ERR_PARITY = s.fld Reg.HA_ERR F.HA_ERR_PARITY + 1 ∧ bit (t.fld Reg.AL_STAT F.AL_STAT_CLASS) 11 = true ∧
         t.haWire = s.haWire ++ (if hdr = false ∧ ch = 1 then [⟨0x08, 0, 0, [], tag, 0x95⟩] else []) ∧ t.slots = s.slots ∧ t.em = s.em))

/-- The send block of a host core that is not busy. SEND: a failing check stands in STATUS; else the message goes to its destinations, and
the block is busy with a request until it is settled. PUT: bytes of External Memory go to the core, or STATUS says what fails; the
block is busy until they have landed. A request that finds no room for its reply, or a request or PUT that finds its own polder stopped at
a sluice, keeps the block busy and waits. Accesses of a host core that runs, by address: the register space by loads and stores of 4 or 8
aligned bytes, where a fetch faults and so does a unit behind a closed dike, and one at a sluice is held; External Memory through the shared caches, a store making
its line dirty and leaving memory as it is; host memory through the host attach port, with a fault where its dike is closed; any other address faults. A core that is stopped
makes none.
Forms shown to complete: transferAck, send, put, hostCoreAccess. The model's readings: log entry 29. -/
def Obligations.HostCoresServed : Prop :=
  (∀ (a : Fin 8) (w : Cmd) (s : State), s.stopped = false → w = s.hcsWord a →
     (s.hcsFree a = false → exec (.send a) s = .next s ∧ exec (.put a) s = .next s) ∧
     (s.hcsFree a = true →
       (opcode w ≠ 0xA0 → opcode w ≠ 0xA1 → exec (.send a) s = .next (s.leaves (s.hcsStatus a 0x80))) ∧
       (opcode w = 0xA0 ∨ opcode w = 0xA1 →
         (∀ st, s.msgCheck (.host a) w = some st → exec (.send a) s = .next (s.leaves (s.hcsStatus a st))) ∧
         (s.msgCheck (.host a) w = none → opcode w = 0xA0 →
           (s.stalled (hartPolder a) = true ∨ cb w 107 = true ∧ s.canReserve ((Sender.host a).replyHome (cf w 106 103)) = false) →
           ∃ t, exec (.send a) s = .next t ∧ t.fld (Reg.HCS_GO a) F.HCS_GO_STATUS = 0 ∧ t.flag (Reg.HCS_GO a) F.HCS_GO_BUSY = true ∧
             tfind t.hostWaits a = some 1 ∧ t = { s with drs := t.drs, hostWaits := t.hostWaits } ∧
             (∀ o, o ≠ Reg.HCS_GO a → t.rd o = s.rd o)) ∧
         (s.msgCheck (.host a) w = none → s.sendBuf (.host a) = [] →
           (opcode w = 0xA0 → s.stalled (hartPolder a) = false ∧
             (cb w 107 = true → s.canReserve ((Sender.host a).replyHome (cf w 106 103)) = true)) →
           ∀ m, m = s.msgOf (.host a) w ((List.range (msgPw w)).map (fun i => s.rd (Reg.HCS_PAY0 a + 8 * i)))
               (if opcode w = 0xA1 then 0 else s.nextEntry) →
           ∃ t, exec (.send a) s = .next t ∧ t.fld (Reg.HCS_GO a) F.HCS_GO_STATUS = 0 ∧
             t.flag (Reg.HCS_GO a) F.HCS_GO_BUSY = decide (opcode w = 0xA0) ∧
             t.net = s.net ++ (s.msgDests w).map (fun e =>
               ⟨if opcode w = 0xA1 then .reply else .request, .host a, e, .msg (s.msgChan w) m⟩) ∧
             t.slots = s.slots ∧ t.em = s.em)) ∧
       (∀ len dst core, len = bits (s.rd (Reg.HCS_LO a)).toNat 0 17 → dst = bits (s.rd (Reg.HCS_HI a)).toNat 0 32 →
         core = bits (s.rd (Reg.HCS_HI a)).toNat 48 6 →
         ((len < 1 ∨ 65536 < len) → exec (.put a) s = .next (s.leaves (s.hcsStatus a 0x82))) ∧
         (1 ≤ len → len ≤ 65536 →
           ((0x800000 < dst + len ∨ s.slotOf core = none) → exec (.put a) s = .next (s.leaves (s.hcsStatus a 0x04))) ∧
           (dst + len ≤ 0x800000 → (s.slotOf core).isSome = true →
             (s.behind (.core core) = true → exec (.put a) s = .next (s.leaves (s.hcsStatus a 0x0E))) ∧
             (s.behind (.core core) = false → s.stalled (hartPolder a) = true → ∃ t, exec (.put a) s = .next t ∧
               t.fld (Reg.HCS_GO a) F.HCS_GO_STATUS = 0 ∧ t.flag (Reg.HCS_GO a) F.HCS_GO_BUSY = true ∧ tfind t.hostWaits a = some 2 ∧
               t = { s with drs := t.drs, hostWaits := t.hostWaits } ∧ (∀ o, o ≠ Reg.HCS_GO a → t.rd o = s.rd o)) ∧
             (s.behind (.core core) = false → s.stalled (hartPolder a) = false → s.asks = [] →
               ∀ (data : List Byte) (u : State), s.emLoadBy (.host a) (clsPrio 0) (s.rd (Reg.HCS_SRC a)).toNat len = (0, data, u) → u.asks = [] → ∃ t, exec (.put a) s = .next t ∧
                 t.fld (Reg.HCS_GO a) F.HCS_GO_STATUS = 0 ∧ t.flag (Reg.HCS_GO a) F.HCS_GO_BUSY = true ∧
                 t.net = u.net ++ [⟨.data, .host a, .core core, .deliver 0 dst data
                   (if bit (s.rd (Reg.HCS_HI a)).toNat 44 then some (bits (s.rd (Reg.HCS_HI a)).toNat 40 4) else none)⟩] ∧
                 t.slots = u.slots ∧ t.em = u.em))))) ∧
     (∀ i pl src n st len, s.arrival i = some ⟨pl, src, .host a, .deliverAck n st len⟩ → st < 256 → ∃ t, exec (.transferAck i) s = .next t ∧
       t.flag (Reg.HCS_GO a) F.HCS_GO_BUSY = false ∧ t.fld (Reg.HCS_GO a) F.HCS_GO_STATUS = st ∧
       t = { s with drs := t.drs, net := s.net.eraseIdx i } ∧ (∀ o, o ≠ Reg.HCS_GO a → t.rd o = s.rd o))) ∧
  (∀ (a : Fin 8) (addr n : Nat) (b : BootIn) (bs : List Byte) (s : State), s.stopped = false →
     (bit (s.fld Reg.HC_CTL F.HC_CTL_RUN) a = false → ∀ op ev, exec (.hostCoreAccess a addr op ev b) s = .next s) ∧
     (bit (s.fld Reg.HC_CTL F.HC_CTL_RUN) a = true → a.val < s.opts.hostCores → s.closed (hartPolder a) = false →
       (addr < 0x4000000 → (n = 4 ∨ n = 8) →
         (addr % n = 0 → s.drsReach (some (.host a)) addr = .ok → ∃ t, exec (.hostCoreAccess a addr (.load n) [] b) s = .next t ∧
           tfind t.hostRes a = some ⟨false, BitVec.ofNat 64 (leNat (s.drsRead addr n).1)⟩ ∧
           t = { s with drs := t.drs, hostRes := t.hostRes }) ∧
         ((addr % n ≠ 0 ∨ s.drsReach (some (.host a)) addr = .closed) →
           exec (.hostCoreAccess a addr (.load n) [] b) s = .next { s with hostRes := tput s.hostRes a ⟨true, 0⟩ }) ∧
         (addr % n = 0 → s.drsReach (some (.host a)) addr = .wait → exec (.hostCoreAccess a addr (.load n) [] b) s = .next { s with
           drsHeld := s.drsHeld ++ [(addr, .hostCoreAccess a addr (.load n) [] b)] }) ∧
         (exec (.hostCoreAccess a addr (.fetch 4) [] b) s = .next { s with hostRes := tput s.hostRes a ⟨true, 0⟩ })) ∧
       (∀ pa l, s.asks = [] → addr = 2 ^ 48 + pa → pa < 2 ^ 48 → s.hcache.find? (fun x => x.line == pa / 64) = some l →
         (n = 1 ∨ n = 2 ∨ n = 4 ∨ n = 8 → pa % 64 + n ≤ 64 → exec (.hostCoreAccess a addr (.load n) [] b) s = .next { s with
           got := s.got.filter (fun (g : Got) => !g.used)
           hostRes := tput s.hostRes a ⟨false, BitVec.ofNat 64 (leNat (s.hostPeek pa n))⟩ }) ∧
         (bs.length = 1 ∨ bs.length = 2 ∨ bs.length = 4 ∨ bs.length = 8 → pa % 64 + bs.length ≤ 64 →
           ∃ t, exec (.hostCoreAccess a addr (.store bs) [] b) s = .next t ∧
             (∀ x ∈ t.hcache, x.line = pa / 64 → x.dirty = true ∧ x.hart = a ∧ ∀ i, i < bs.length → x.bytes.getD (pa % 64 + i) 0 = bs.getD i 0) ∧
             (∀ x ∈ s.hcache, x.line ≠ pa / 64 → x.bytes.length = 64 → x ∈ t.hcache) ∧ tfind t.hostRes a = some ⟨false, 0⟩ ∧ t.em = s.em ∧ t.slots = s.slots) ∧
         (exec (.hostCoreAccess a addr .inval [] b) s = .next { s with
           got := s.got.filter (fun (g : Got) => !g.used)
           hcache := s.hcache.filter (fun x => x.line != pa / 64)
           hostRes := tput s.hostRes a ⟨false, 0⟩ })) ∧
       (∀ pa, addr = 2 ^ 55 + pa → pa < 2 ^ 55 → s.closed 98 = true → (n = 1 ∨ n = 2 ∨ n = 4 ∨ n = 8) →
         exec (.hostCoreAccess a addr (.load n) [] b) s = .next { s with hostRes := tput s.hostRes a ⟨true, 0⟩ }) ∧
       (∀ pa, addr = 2 ^ 55 + pa → pa < 2 ^ 55 → s.haReady = false → s.closed 98 = false → s.path (.host a) .attach = .ok →
         (n = 1 ∨ n = 2 ∨ n = 4 ∨ n = 8) →
         ∃ r, exec (.hostCoreAccess a addr (.load n) [] b) s = .next { s with
           hm := s.hm ++ [r]
           haOut := s.haOut ++ [⟨0x11, pa, n, [], 0, 0⟩] } ∧ r.write = false ∧ r.addr = pa ∧ r.len = n ∧ r.core = 64 + a.val ∧ r.sent = false) ∧
       ((0x4000000 ≤ addr ∧ addr < 2 ^ 48 ∨ 2 ^ 49 ≤ addr ∧ addr < 2 ^ 55 ∨ 2 ^ 56 ≤ addr) → (n = 1 ∨ n = 2 ∨ n = 4 ∨ n = 8) →
         exec (.hostCoreAccess a addr (.load n) [] b) s = .next { s with hostRes := tput s.hostRes a ⟨true, 0⟩ })))

/-- HC_FWCMD.VERIFY checks the image at HC_FWADDR: STATUS 0 where it passes, and it is what RESTART may enter; else STATUS and REASON
of the first check that fails. HC_CTL.RESTART runs the named host cores that are present and open from HC_ENTRY where it lies in that
image, and is refused with 0x09 where it does not. The commands of OTP: a slot that is not programmed takes the staged digest; a slot is
revoked unless it signed what is in force or is the last that is not revoked; else both answer 0x09 and program nothing. DEBUG_OPEN is
set for good, and MFR takes its value. While OTP is busy a command has no effect.
Forms shown to complete: verify, restart, progKey, revokeKey, setDebug, setMfr. The model's readings: log entries 25 and 30. -/
def Obligations.PilotAndOtp : Prop :=
  (∀ (mask : Nat) (s : State), s.stopped = false → s.opts.hostCores ≤ 8 → s.asks = [] →
     (∀ (hb data : List Byte) (u v : State), s.emLoadBy .keep (clsPrio 0) (s.fld Reg.HC_FWADDR F.HC_FWADDR_PA) 128 = (0, hb, u) →
       u.emLoadBy .keep (clsPrio 0) (s.fld Reg.HC_FWADDR F.HC_FWADDR_PA) (min (max (imLen hb) 128) pilotMax) = (0, data, v) → v.asks = [] →
       (v.pilotCheck (some data) = none → ∃ t, exec .verify s = .next t ∧ t.fld Reg.HC_FWCMD F.HC_FWCMD_STATUS = 0 ∧
         t.fld Reg.HC_FWCMD F.HC_FWCMD_REASON = 0 ∧
         t.zen.fw = some (s.fld Reg.HC_FWADDR F.HC_FWADDR_PA, imLen data) ∧ t.slots = v.slots ∧ t.em = v.em) ∧
       (∀ st r, v.pilotCheck (some data) = some (st, r) → st < 256 → r < 16 → ∃ t, exec .verify s = .next t ∧
         t.fld Reg.HC_FWCMD F.HC_FWCMD_STATUS = st ∧ t.fld Reg.HC_FWCMD F.HC_FWCMD_REASON = r ∧ t.zen.fw = v.zen.fw ∧
         t.slots = v.slots ∧ t.em = v.em)) ∧
     (∀ base len, s.zen.fw = some (base, len) →
       (base ≤ s.fld Reg.HC_ENTRY F.HC_ENTRY_PA → s.fld Reg.HC_ENTRY F.HC_ENTRY_PA < base + len → (∀ l ∈ s.hcache, l.dirty = false) →
         ∃ t, exec (.restart mask) s = .next t ∧ t.fld Reg.HC_CTL F.HC_CTL_STATUS = 0 ∧
           (∀ a, a < 8 → bit (t.fld Reg.HC_CTL F.HC_CTL_RUN) a = (bit (s.fld Reg.HC_CTL F.HC_CTL_RUN) a ||
             (bit mask a && decide (a < s.opts.hostCores) && !s.closed (hartPolder a)))) ∧
           (∀ a, a < 8 → bit mask a = true → a < s.opts.hostCores → s.closed (hartPolder a) = false →
             tfind t.hostStart a = some (s.fld Reg.HC_ENTRY F.HC_ENTRY_PA)) ∧
           t = { s with drs := t.drs, hostStart := t.hostStart, got := t.got } ∧ (∀ o, o ≠ Reg.HC_CTL → t.rd o = s.rd o)) ∧
       ((s.fld Reg.HC_ENTRY F.HC_ENTRY_PA < base ∨ base + len ≤ s.fld Reg.HC_ENTRY F.HC_ENTRY_PA) →
         exec (.restart mask) s = .next (s.leaves (s.setFld Reg.HC_CTL F.HC_CTL_STATUS 0x09)))) ∧
     (s.zen.fw = none → exec (.restart mask) s = .next (s.leaves (s.setFld Reg.HC_CTL F.HC_CTL_STATUS 0x09)))) ∧
  (∀ (k : Fin 4) (v : Nat) (s : State), s.stopped = false →
     (s.flag Reg.OTP_STAT F.OTP_STAT_BUSY = true →
       ∀ c ∈ [Instr.progKey k, .revokeKey k, .setDebug, .setMfr v], exec c s = .next s) ∧
     (s.flag Reg.OTP_STAT F.OTP_STAT_BUSY = false →
       (bit (s.fld Reg.OTP_STAT F.OTP_STAT_PROGRAMMED) k = false → ∃ t, exec (.progKey k) s = .next t ∧
         (∀ j, j < 6 → t.rd (Reg.OTP_KEY k j) = s.rd (Reg.OTP_STAGE j)) ∧
         t.fld Reg.OTP_STAT F.OTP_STAT_PROGRAMMED = s.fld Reg.OTP_STAT F.OTP_STAT_PROGRAMMED + 2 ^ k.val ∧
         t.fld Reg.OTP_STAT F.OTP_STAT_STATUS = 0 ∧ t = { s with drs := t.drs } ∧
         (∀ o, o ≠ Reg.OTP_STAT → (∀ j, j < 6 → o ≠ Reg.OTP_KEY k j) → t.rd o = s.rd o)) ∧
       (s.zen.signers.contains k.val = false → (∃ i, i < 4 ∧ i ≠ k.val ∧ bit (s.fld Reg.OTP_STAT F.OTP_STAT_REVOKED) i = false) →
         ∃ t, exec (.revokeKey k) s = .next t ∧ bit (t.fld Reg.OTP_STAT F.OTP_STAT_REVOKED) k = true ∧
           (∀ i, i ≠ k.val → bit (t.fld Reg.OTP_STAT F.OTP_STAT_REVOKED) i = bit (s.fld Reg.OTP_STAT F.OTP_STAT_REVOKED) i) ∧
           t.fld Reg.OTP_STAT F.OTP_STAT_STATUS = 0 ∧ t = { s with drs := t.drs } ∧ (∀ o, o ≠ Reg.OTP_STAT → t.rd o = s.rd o)) ∧
       (∀ c, (c = .progKey k ∧ bit (s.fld Reg.OTP_STAT F.OTP_STAT_PROGRAMMED) k = true ∨
           c = .revokeKey k ∧ (s.zen.signers.contains k.val = true ∨
             ∀ i, i < 4 → i ≠ k.val → bit (s.fld Reg.OTP_STAT F.OTP_STAT_REVOKED) i = true)) →
         ∃ t, exec c s = .next t ∧ t.fld Reg.OTP_STAT F.OTP_STAT_STATUS = 0x09 ∧
           t.fld Reg.OTP_STAT F.OTP_STAT_PROGRAMMED = s.fld Reg.OTP_STAT F.OTP_STAT_PROGRAMMED ∧
           t.fld Reg.OTP_STAT F.OTP_STAT_REVOKED = s.fld Reg.OTP_STAT F.OTP_STAT_REVOKED ∧
           t = { s with drs := t.drs } ∧ (∀ o, o ≠ Reg.OTP_STAT → t.rd o = s.rd o)) ∧
       (∃ t, exec .setDebug s = .next t ∧ t.fld Reg.OTP_STAT F.OTP_STAT_DEBUG_OPEN = 1 ∧
         t.fld Reg.OTP_STAT F.OTP_STAT_STATUS = 0 ∧ t = { s with drs := t.drs } ∧ (∀ o, o ≠ Reg.OTP_STAT → t.rd o = s.rd o)) ∧
       (v < 2 ^ 11 → ∃ t, exec (.setMfr v) s = .next t ∧ t.fld Reg.OTP_STAT F.OTP_STAT_MFR = v ∧
         t.fld Reg.OTP_STAT F.OTP_STAT_STATUS = 0 ∧ t = { s with drs := t.drs } ∧ (∀ o, o ≠ Reg.OTP_STAT → t.rd o = s.rd o))))

/-! ## Alerts and error counters (17 R455, 18 R478, R479) -/

/-- A class's bit that is set stays set, and its event is delivered no second time; one that goes from 0 to 1 is delivered to each
destination AL_ROUTE gives it: the interrupt of the host core it names, where that core enables it, and ALERT_N among them. An error counter stops at 0xFFFF with its SAT bit set; the event that finds it full sets the bit, with a
record and the COUNTER class, and later ones do nothing. -/
def Obligations.AlertsAndCounters : Prop :=
  ∀ s : State,
    (∀ c, bit (s.fld Reg.AL_STAT F.AL_STAT_CLASS) c = true → s.alert c = s) ∧
    (∀ c, c < 13 → bit (s.fld Reg.AL_STAT F.AL_STAT_CLASS) c = false →
      (s.alert c).fld Reg.AL_STAT F.AL_STAT_CLASS = s.fld Reg.AL_STAT F.AL_STAT_CLASS + 2 ^ c ∧
      (s.alert c).i3cIbi = s.i3cIbi ++ (if bit (s.fld Reg.AL_ROUTE F.AL_ROUTE_MGMT) c then [c] else []) ∧
      (bit (s.fld Reg.AL_ROUTE F.AL_ROUTE_HC) c = true →
        bit ((s.alert c).rd (Reg.HC_IP (s.fld Reg.AL_ROUTE F.AL_ROUTE_HART))).toNat (32 + c) = true ∧
        (bit (s.rd (Reg.HC_IE (s.fld Reg.AL_ROUTE F.AL_ROUTE_HART))).toNat (32 + c) = true →
          (s.alert c).hostMeip (s.fld Reg.AL_ROUTE F.AL_ROUTE_HART) = true)) ∧
      (bit (s.fld Reg.AL_ROUTE F.AL_ROUTE_PIN) c = true → s.inReset = false → (s.alert c).outputs.alertN = false) ∧
      (bit (s.fld Reg.AL_ROUTE F.AL_ROUTE_HA) c = true → s.haReady = false →
        (s.alert c).haOut = s.haOut ++ [⟨0x13, (s.rd Reg.AL_HA_ADDR).toNat, 8, natLE 8 c, 0, 0⟩])) ∧
    (∀ x ∈ [(Reg.RK_STAT, F.RK_STAT_MISSES, Reg.RK_STAT, F.RK_STAT_MISS_SAT, 0), (Reg.HA_ERR, F.HA_ERR_LATE, Reg.HA_STAT, F.HA_STAT_SAT, 0),
        (Reg.HA_ERR, F.HA_ERR_TIMEOUT, Reg.HA_STAT, F.HA_STAT_SAT, 1), (Reg.HA_ERR, F.HA_ERR_DENIED, Reg.HA_STAT, F.HA_STAT_SAT, 2),
        (Reg.HA_ERR, F.HA_ERR_PARITY, Reg.HA_STAT, F.HA_STAT_SAT, 3)], ∀ src t, t = s.errCount x.1 x.2.1 x.2.2.1 x.2.2.2.1 x.2.2.2.2 src →
      t.fld x.1 x.2.1 = min 0xFFFF (s.fld x.1 x.2.1 + 1) ∧
      (s.fld x.1 x.2.1 < 0xFFFF → t.reports = s.reports ∧ t = { s with drs := t.drs }) ∧
      (s.fld x.1 x.2.1 = 0xFFFF → bit (s.fld x.2.2.1 x.2.2.2.1) x.2.2.2.2 = true → t = s) ∧
      (s.fld x.1 x.2.1 = 0xFFFF → bit (s.fld x.2.2.1 x.2.2.2.1) x.2.2.2.2 = false → bit (t.fld x.2.2.1 x.2.2.2.1) x.2.2.2.2 = true ∧
        bit (t.fld Reg.AL_STAT F.AL_STAT_CLASS) 6 = true ∧ t.reports.length = s.reports.length + 1))
end

