-- ==== Sys2Proof/Laws/Fields.lean ====
section
/-!
SUPPORT. Laws/Fields.lean: a field read after a field was replaced in a word.
-/

namespace Sys2Proof.Machine

/-- A number taken apart at the two ends of a field. -/
theorem field_split (x lo len : Nat) :
    x = x % 2 ^ lo + bits x lo len * 2 ^ lo + x / 2 ^ (lo + len) * 2 ^ (lo + len) := by
  have h1 := Nat.div_add_mod x (2 ^ lo)
  have h2 := Nat.div_add_mod (x / 2 ^ lo) (2 ^ len)
  have h3 : x / 2 ^ (lo + len) = x / 2 ^ lo / 2 ^ len := by rw [Nat.div_div_eq_div_mul, Nat.pow_add]
  have h4 : bits x lo len = x / 2 ^ lo % 2 ^ len := rfl
  rw [h3, h4, Nat.pow_add]
  generalize x / 2 ^ lo = q at *
  generalize q / 2 ^ len = r at *
  generalize q % 2 ^ len = t at *
  generalize x % 2 ^ lo = u at *
  subst h2
  rw [← h1]
  ring

theorem bits_lt (x lo len : Nat) : bits x lo len < 2 ^ len := Nat.mod_lt _ (Nat.two_pow_pos _)

/-- Replacing a field of a number. -/
theorem field_put (x lo len v : Nat) :
    x - bits x lo len * 2 ^ lo + v * 2 ^ lo = x % 2 ^ lo + v * 2 ^ lo + x / 2 ^ (lo + len) * 2 ^ (lo + len) := by
  have h := field_split x lo len
  generalize bits x lo len * 2 ^ lo = b at *
  generalize x / 2 ^ (lo + len) * 2 ^ (lo + len) = c at *
  generalize x % 2 ^ lo = a at *
  omega

/-- A field of a number built of three parts. -/
theorem bits_mid (a v c lo len : Nat) (ha : a < 2 ^ lo) (hv : v < 2 ^ len) :
    bits (a + v * 2 ^ lo + c * 2 ^ (lo + len)) lo len = v := by
  unfold bits
  have : a + v * 2 ^ lo + c * 2 ^ (lo + len) = a + (v + c * 2 ^ len) * 2 ^ lo := by rw [Nat.pow_add]; ring
  rw [this, Nat.add_mul_div_right _ _ (Nat.two_pow_pos lo), Nat.div_eq_of_lt ha]
  simp [Nat.mod_eq_of_lt hv]

theorem put_lt (w : Word) (f : Fld) (v : Nat) (h : f.lo + f.len ≤ 64) :
    w.toNat - bits w.toNat f.lo f.len * 2 ^ f.lo + v % 2 ^ f.len * 2 ^ f.lo < 2 ^ 64 := by
  rw [field_put]
  have h1 : w.toNat % 2 ^ f.lo < 2 ^ f.lo := Nat.mod_lt _ (Nat.two_pow_pos _)
  have h2 : v % 2 ^ f.len < 2 ^ f.len := Nat.mod_lt _ (Nat.two_pow_pos _)
  have h3 : w.toNat / 2 ^ (f.lo + f.len) < 2 ^ (64 - (f.lo + f.len)) := by
    apply Nat.div_lt_of_lt_mul
    rw [← Nat.pow_add, show f.lo + f.len + (64 - (f.lo + f.len)) = 64 by omega]
    exact w.isLt
  have e : 2 ^ f.lo * 2 ^ f.len = 2 ^ (f.lo + f.len) := (Nat.pow_add ..).symm
  have e2 : 2 ^ (f.lo + f.len) * 2 ^ (64 - (f.lo + f.len)) = 2 ^ 64 := by
    rw [← Nat.pow_add, show f.lo + f.len + (64 - (f.lo + f.len)) = 64 by omega]
  calc w.toNat % 2 ^ f.lo + v % 2 ^ f.len * 2 ^ f.lo + w.toNat / 2 ^ (f.lo + f.len) * 2 ^ (f.lo + f.len)
      < 2 ^ f.lo + (2 ^ f.len - 1) * 2 ^ f.lo + w.toNat / 2 ^ (f.lo + f.len) * 2 ^ (f.lo + f.len) := by
        have := Nat.mul_le_mul_right (2 ^ f.lo) (Nat.le_sub_one_of_lt h2)
        omega
    _ = 2 ^ (f.lo + f.len) + w.toNat / 2 ^ (f.lo + f.len) * 2 ^ (f.lo + f.len) := by
        congr 1
        rw [← e]
        have := Nat.two_pow_pos f.len
        obtain ⟨n, hn⟩ : ∃ n, 2 ^ f.len = n + 1 := ⟨2 ^ f.len - 1, by omega⟩
        rw [hn]; simp; ring
    _ = (w.toNat / 2 ^ (f.lo + f.len) + 1) * 2 ^ (f.lo + f.len) := by ring
    _ ≤ 2 ^ (64 - (f.lo + f.len)) * 2 ^ (f.lo + f.len) := Nat.mul_le_mul_right _ h3
    _ = 2 ^ 64 := by rw [Nat.mul_comm]; exact e2

theorem putF_toNat (w : Word) (f : Fld) (v : Nat) (h : f.lo + f.len ≤ 64) :
    (putF w f v).toNat = w.toNat % 2 ^ f.lo + v % 2 ^ f.len * 2 ^ f.lo + w.toNat / 2 ^ (f.lo + f.len) * 2 ^ (f.lo + f.len) := by
  unfold putF
  rw [BitVec.toNat_ofNat, Nat.mod_eq_of_lt (put_lt w f v h), field_put]

/-- A field reads as the low bits written to it. -/
theorem getF_putF (w : Word) (f : Fld) (v : Nat) (h : f.lo + f.len ≤ 64) : getF (putF w f v) f = v % 2 ^ f.len := by
  unfold getF
  rw [putF_toNat w f v h]
  exact bits_mid _ _ _ _ _ (Nat.mod_lt _ (Nat.two_pow_pos _)) (Nat.mod_lt _ (Nat.two_pow_pos _))

/-- A field below the one replaced. -/
theorem getF_putF_below (w : Word) (f g : Fld) (v : Nat) (h : f.lo + f.len ≤ 64) (hg : g.lo + g.len ≤ f.lo) :
    getF (putF w f v) g = getF w g := by
  have key : ∀ x y : Nat, x % 2 ^ f.lo = y % 2 ^ f.lo → bits x g.lo g.len = bits y g.lo g.len := by
    intro x y hxy
    have mm : ∀ z : Nat, bits z g.lo g.len = bits (z % 2 ^ f.lo) g.lo g.len := by
      intro z
      unfold bits
      apply Nat.eq_of_testBit_eq
      intro i
      simp only [Nat.testBit_mod_two_pow, Nat.testBit_div_two_pow]
      by_cases hi : i < g.len
      · simp [hi]
        intro _
        omega
      · simp [hi]
    rw [mm x, mm y, hxy]
  unfold getF
  apply key
  rw [putF_toNat w f v h]
  have e1 : 2 ^ (f.lo + f.len) = 2 ^ f.lo * 2 ^ f.len := Nat.pow_add ..
  rw [show w.toNat % 2 ^ f.lo + v % 2 ^ f.len * 2 ^ f.lo + w.toNat / 2 ^ (f.lo + f.len) * 2 ^ (f.lo + f.len) =
    w.toNat % 2 ^ f.lo + (v % 2 ^ f.len + w.toNat / 2 ^ (f.lo + f.len) * 2 ^ f.len) * 2 ^ f.lo by rw [e1]; ring]
  simp

/-- A field above the one replaced. -/
theorem getF_putF_above (w : Word) (f g : Fld) (v : Nat) (h : f.lo + f.len ≤ 64) (hg : f.lo + f.len ≤ g.lo) :
    getF (putF w f v) g = getF w g := by
  have key : ∀ x y : Nat, x / 2 ^ (f.lo + f.len) = y / 2 ^ (f.lo + f.len) → bits x g.lo g.len = bits y g.lo g.len := by
    intro x y hxy
    have mm : ∀ z : Nat, z / 2 ^ g.lo = z / 2 ^ (f.lo + f.len) / 2 ^ (g.lo - (f.lo + f.len)) := by
      intro z
      rw [Nat.div_div_eq_div_mul, ← Nat.pow_add, show f.lo + f.len + (g.lo - (f.lo + f.len)) = g.lo by omega]
    unfold bits
    rw [mm x, mm y, hxy]
  unfold getF
  apply key
  rw [putF_toNat w f v h]
  have h1 : w.toNat % 2 ^ f.lo < 2 ^ f.lo := Nat.mod_lt _ (Nat.two_pow_pos _)
  have h2 : v % 2 ^ f.len < 2 ^ f.len := Nat.mod_lt _ (Nat.two_pow_pos _)
  have h3 : w.toNat % 2 ^ f.lo + v % 2 ^ f.len * 2 ^ f.lo < 2 ^ (f.lo + f.len) := by
    rw [Nat.pow_add, Nat.mul_comm (2 ^ f.lo)]
    calc _ < (v % 2 ^ f.len + 1) * 2 ^ f.lo := by ring_nf; omega
      _ ≤ 2 ^ f.len * 2 ^ f.lo := Nat.mul_le_mul_right _ h2
  rw [Nat.add_mul_div_right _ _ (Nat.two_pow_pos _), Nat.div_eq_of_lt h3, Nat.zero_add]

/-- Two fields that do not overlap. -/
def Fld.apart (f g : Fld) : Bool := decide (f.lo + f.len ≤ g.lo) || decide (g.lo + g.len ≤ f.lo)

/-- A field apart from the one replaced reads as before. -/
theorem getF_putF_apart (w : Word) (f g : Fld) (v : Nat) (h : f.lo + f.len ≤ 64) (hg : f.apart g = true) :
    getF (putF w f v) g = getF w g := by
  simp only [Fld.apart, Bool.or_eq_true, decide_eq_true_eq] at hg
  rcases hg with hg | hg
  · exact getF_putF_above w f g v h hg
  · exact getF_putF_below w f g v h hg

end Sys2Proof.Machine
end

