-- ==== Sys2Proof/Laws/Frames.lean ====
section
/-!
SUPPORT. Laws/Frames.lean: the fields of a frame read back (11 R288, R291; 13 R346): its CRC is good, its CTRL is the one put in, and the
descriptors above its slots are empty; and that lanes which lose nothing carry a frame (11 R289).
-/

namespace Sys2Proof.Machine

theorem length_natLE (n w : Nat) : (natLE n w).length = n := by
  induction n generalizing w with
  | zero => rfl
  | succ n ih => simp [natLE, ih]

theorem leNat_natLE (n w : Nat) : leNat (natLE n w) = w % 256 ^ n := by
  induction n generalizing w with
  | zero => simp [natLE, leNat, Nat.mod_one]
  | succ n ih =>
    have e : 256 ^ (n + 1) = 256 * 256 ^ n := by rw [Nat.pow_succ, Nat.mul_comm]
    have b : (BitVec.ofNat 8 w).toNat = w % 256 := BitVec.toNat_ofNat ..
    rw [natLE, leNat, ih, e, Nat.mod_mul, b]

theorem leNat_replicate (n : Nat) : leNat (List.replicate n 0) = 0 := by
  induction n with
  | zero => rfl
  | succ n ih =>
    have z : (0 : Byte).toNat = 0 := rfl
    rw [List.replicate_succ, leNat, ih, z]

theorem crcBits_lt (n c : Nat) (h : c < 2 ^ 32) : crcBits n c < 2 ^ 32 := by
  induction n generalizing c with
  | zero => exact h
  | succ n ih =>
    unfold crcBits
    split
    · exact ih _ (Nat.xor_lt_two_pow (by omega) (by decide))
    · exact ih _ (by omega)

theorem crc32c_lt (bs : List Byte) : crc32c bs < 2 ^ 32 := by
  have h : ∀ (bs : List Byte) (c : Nat), c < 2 ^ 32 →
      bs.foldl (fun c b => crcBits 8 (c ^^^ b.toNat)) c < 2 ^ 32 := by
    intro bs
    induction bs with
    | nil => exact fun c hc => hc
    | cons b bs ih =>
      exact fun c hc => ih _ (crcBits_lt 8 _ (Nat.xor_lt_two_pow hc (by have := b.isLt; omega)))
  exact Nat.xor_lt_two_pow (h bs _ (by decide)) (by decide)

/-- Slots of 256 bytes take 256 bytes each. -/
theorem length_slots (slots : List (List Byte × Nat)) (h : ∀ p ∈ slots, p.1.length = 256) :
    (slots.flatMap (fun p => p.1)).length = 256 * slots.length := by
  induction slots with
  | nil => rfl
  | cons p l ih =>
    simp only [List.flatMap_cons, List.length_append, List.length_cons, h p (by simp), ih (fun q hq => h q (by simp [hq]))]
    omega

theorem length_descs (slots : List (List Byte × Nat)) : (slots.flatMap (fun p => natLE 8 p.2)).length = 8 * slots.length := by
  induction slots with
  | nil => rfl
  | cons p l ih =>
    simp only [List.flatMap_cons, List.length_append, List.length_cons, length_natLE, ih]
    omega

/-- The bytes of a frame before its CRC, with the length of each part. -/
theorem mkFrame_parts (slots : List (List Byte × Nat)) (c : Nat) (hn : slots.length ≤ 15) (h : ∀ p ∈ slots, p.1.length = 256) :
    ∃ a z : List Byte, a.length = 3840 ∧ z.length = 8 * slots.length ∧ mkFrame slots c =
      a ++ (z ++ (List.replicate (8 * (15 - slots.length)) 0 ++ (natLE 4 c ++
        natLE 4 (crc32c (a ++ (z ++ (List.replicate (8 * (15 - slots.length)) 0 ++ natLE 4 c))))))) := by
  refine ⟨slots.flatMap (fun p => p.1) ++ List.replicate (256 * (15 - slots.length)) 0, slots.flatMap (fun p => natLE 8 p.2), ?_,
    length_descs slots, ?_⟩
  · simp only [List.length_append, List.length_replicate, length_slots slots h]
    omega
  · simp only [mkFrame, List.append_assoc]

theorem fCrcOk_mkFrame (slots : List (List Byte × Nat)) (c : Nat) (hn : slots.length ≤ 15) (h : ∀ p ∈ slots, p.1.length = 256) :
    fCrcOk (mkFrame slots c) = true := by
  obtain ⟨a, z, ha, hz, e⟩ := mkFrame_parts slots c hn h
  generalize hb : a ++ (z ++ (List.replicate (8 * (15 - slots.length)) 0 ++ natLE 4 c)) = body at e
  have hl : body.length = 3964 := by
    rw [← hb]
    simp only [List.length_append, List.length_replicate, length_natLE, ha, hz]
    omega
  have e' : mkFrame slots c = body ++ natLE 4 (crc32c body) := by rw [e, ← hb]; simp only [List.append_assoc]
  have hc := crc32c_lt body
  simp only [fCrcOk, e', List.take_left' hl, List.drop_left' hl, Bool.and_eq_true, beq_iff_eq, List.length_append, hl, length_natLE,
    frameBytes, true_and]
  rw [List.take_of_length_le (by simp [length_natLE]), leNat_natLE]
  exact (Nat.mod_eq_of_lt hc).symm

theorem fCtrl_mkFrame (slots : List (List Byte × Nat)) (c : Nat) (hn : slots.length ≤ 15) (h : ∀ p ∈ slots, p.1.length = 256) :
    fCtrl (mkFrame slots c) = c % 2 ^ 32 := by
  obtain ⟨a, z, ha, hz, e⟩ := mkFrame_parts slots c hn h
  generalize natLE 4 (crc32c _) = tail at e
  have hl : (a ++ (z ++ List.replicate (8 * (15 - slots.length)) 0)).length = 3960 := by
    simp only [List.length_append, List.length_replicate, ha, hz]
    omega
  have e' : mkFrame slots c = (a ++ (z ++ List.replicate (8 * (15 - slots.length)) 0)) ++ (natLE 4 c ++ tail) := by
    rw [e]; simp only [List.append_assoc]
  rw [fCtrl, e', List.drop_left' hl, List.take_left' (length_natLE 4 c), leNat_natLE, show (256 : Nat) ^ 4 = 2 ^ 32 from rfl]

/-- The descriptors of the slots a frame does not fill are 0. -/
theorem fDesc_mkFrame_empty (slots : List (List Byte × Nat)) (c : Nat) (hn : slots.length ≤ 15) (h : ∀ p ∈ slots, p.1.length = 256)
    (i : Nat) (hi : slots.length ≤ i) (hi' : i < 15) : fDesc (mkFrame slots c) i = 0 := by
  obtain ⟨a, z, ha, hz, e⟩ := mkFrame_parts slots c hn h
  generalize natLE 4 (crc32c _) = tail at e
  have hr : List.replicate (8 * (15 - slots.length)) (0 : Byte) =
      List.replicate (8 * (i - slots.length)) 0 ++ (List.replicate 8 0 ++ List.replicate (8 * (14 - i)) 0) := by
    rw [List.replicate_append_replicate, List.replicate_append_replicate]
    congr 1
    omega
  have hl : (a ++ (z ++ List.replicate (8 * (i - slots.length)) (0 : Byte))).length = 3840 + 8 * i := by
    simp only [List.length_append, List.length_replicate, ha, hz]
    omega
  have e' : mkFrame slots c = (a ++ (z ++ List.replicate (8 * (i - slots.length)) 0)) ++
      (List.replicate 8 0 ++ (List.replicate (8 * (14 - i)) 0 ++ (natLE 4 c ++ tail))) := by
    rw [e, hr]; simp only [List.append_assoc]
  rw [fDesc, e', List.drop_left' hl, List.take_left' (List.length_replicate ..), leNat_replicate]

/-- Slot 0 of a frame that has one, and its descriptor. -/
theorem fSlot_mkFrame_head (b : List Byte) (d : Nat) (l : List (List Byte × Nat)) (c : Nat) (h : b.length = 256) :
    fSlot (mkFrame ((b, d) :: l) c) 0 = b := by
  simp only [fSlot, mkFrame, Nat.mul_zero, List.drop_zero, List.flatMap_cons, List.append_assoc]
  exact List.take_left' h

theorem fDesc_mkFrame_head (b : List Byte) (d : Nat) (l : List (List Byte × Nat)) (c : Nat) (hn : l.length < 15)
    (h : ∀ p ∈ (b, d) :: l, p.1.length = 256) : fDesc (mkFrame ((b, d) :: l) c) 0 = d % 2 ^ 64 := by
  have hl := length_slots _ h
  have e : (((b, d) :: l).flatMap (fun p => p.1) ++ List.replicate (256 * (15 - ((b, d) :: l).length)) (0 : Byte)).length = 3840 := by
    simp only [List.length_append, List.length_replicate, hl, List.length_cons]
    omega
  simp only [fDesc, mkFrame, Nat.mul_zero, Nat.add_zero, List.append_assoc]
  rw [← List.append_assoc, List.drop_left' e, List.flatMap_cons (f := fun p : List Byte × Nat => natLE 8 p.2), List.append_assoc,
    List.take_left' (length_natLE 8 d), leNat_natLE, show (256 : Nat) ^ 8 = 2 ^ 64 from rfl]

/-! ## On the lanes -/

theorem length_mkFrame (slots : List (List Byte × Nat)) (c : Nat) (hn : slots.length ≤ 15) (h : ∀ p ∈ slots, p.1.length = 256) :
    (mkFrame slots c).length = frameBytes := by
  obtain ⟨a, z, ha, hz, e⟩ := mkFrame_parts slots c hn h
  simp only [e, List.length_append, List.length_replicate, length_natLE, ha, hz, frameBytes]
  omega

/-- What is scrambled twice is as it was. -/
theorem zipWith_xor_twice (f p : List Byte) (h : f.length ≤ p.length) :
    List.zipWith (· ^^^ ·) (List.zipWith (· ^^^ ·) f p) p = f := by
  induction f generalizing p with
  | nil => simp
  | cons b f ih =>
    cases p with
    | nil => simp at h
    | cons q p =>
      simp only [List.zipWith_cons_cons, BitVec.xor_assoc, BitVec.xor_self, BitVec.xor_zero]
      rw [ih p (by simpa using h)]

/-- A frame whose codewords have no error comes off the lanes as it went on, uncorrected. -/
theorem fromWire_toWire (l : Nat) (f : List Byte) (hl : f.length = frameBytes) (hs : (withParity f).length ≤ (scrambler l).length)
    (he : frameErrors (withParity f) = []) : fromWire l (toWire l f) = (f, false) := by
  simp only [fromWire, toWire, scramble, zipWith_xor_twice _ _ hs, fecDecode, he]
  rw [withParity, List.take_left' hl]

end Sys2Proof.Machine
end

