-- ==== Sys2Proof/Laws/Sparse.lean ====
section
/-!
SUPPORT. Laws/Sparse.lean: reads after writes of a sparse store, and that every write keeps the canonical form.
-/

namespace Sys2Proof.Machine

variable {β : Type}

theorem sget_serase (d : Nat → β) (m : Sparse β) (a b : Nat) :
    sget d (serase a m) b = if b = a then d b else sget d m b := by
  induction m with
  | nil => simp [serase, sget]
  | cons p m ih =>
    obtain ⟨k, w⟩ := p
    by_cases h : k = a
    · simp only [serase, h, if_true, ih, sget]
      by_cases hb : b = a
      · simp [hb]
      · simp [hb, Ne.symm hb]
    · simp only [serase, h, if_false, sget, ih]
      by_cases hb : k = b
      · simp [hb, show b ≠ a from hb ▸ h]
      · simp [hb]

theorem sget_sinsert (d : Nat → β) (m : Sparse β) (a : Nat) (v : β) (b : Nat) (h : ∀ p ∈ m, p.1 ≠ a) :
    sget d (sinsert a v m) b = if b = a then v else sget d m b := by
  induction m with
  | nil =>
    simp only [sinsert, sget]
    by_cases hb : b = a
    · simp [hb]
    · simp [hb, Ne.symm hb]
  | cons p m ih =>
    obtain ⟨k, w⟩ := p
    have hk : k ≠ a := h (k, w) (by simp)
    simp only [sinsert]
    split
    · simp only [sget]
      by_cases hb : b = a
      · simp [hb]
      · simp [hb, Ne.symm hb]
    · simp only [sget, ih (fun p hp => h p (by simp [hp]))]
      by_cases hb : k = b
      · simp [hb, show b ≠ a from hb ▸ hk]
      · simp [hb]

theorem mem_serase {a : Nat} {m : Sparse β} {p : Nat × β} (h : p ∈ serase a m) : p ∈ m ∧ p.1 ≠ a := by
  induction m with
  | nil => simp [serase] at h
  | cons q m ih =>
    obtain ⟨k, w⟩ := q
    simp only [serase] at h
    split at h
    · exact ⟨by simp [(ih h).1], (ih h).2⟩
    · rcases List.mem_cons.mp h with rfl | h
      · exact ⟨by simp, by assumption⟩
      · exact ⟨by simp [(ih h).1], (ih h).2⟩

/-- A read after a write: the value written at its address, what was there elsewhere. -/
theorem sget_sset [DecidableEq β] (d : Nat → β) (m : Sparse β) (a : Nat) (v : β) (b : Nat) :
    sget d (sset d m a v) b = if b = a then v else sget d m b := by
  unfold sset
  split
  · rename_i h
    rw [sget_serase]
    by_cases hb : b = a <;> simp [hb, h]
  · rw [sget_sinsert _ _ _ _ _ (fun p hp => (mem_serase hp).2), sget_serase]
    by_cases hb : b = a <;> simp [hb]

@[simp] theorem sget_sset_same [DecidableEq β] (d : Nat → β) (m : Sparse β) (a : Nat) (v : β) :
    sget d (sset d m a v) a = v := by simp [sget_sset]

theorem sget_sset_ne [DecidableEq β] (d : Nat → β) (m : Sparse β) {a b : Nat} (v : β) (h : b ≠ a) :
    sget d (sset d m a v) b = sget d m b := by simp [sget_sset, h]

theorem mem_sinsert {a : Nat} {v : β} {m : Sparse β} {p : Nat × β} (h : p ∈ sinsert a v m) : p = (a, v) ∨ p ∈ m := by
  induction m with
  | nil => simpa [sinsert] using h
  | cons q m ih =>
    obtain ⟨k, w⟩ := q
    simp only [sinsert] at h
    split at h
    · simpa using h
    · rcases List.mem_cons.mp h with rfl | h
      · simp
      · rcases ih h with rfl | h <;> simp [*]

theorem swf_cons [DecidableEq β] {d : Nat → β} {k : Nat} {v : β} {m : Sparse β} :
    swf d ((k, v) :: m) = true ↔ v ≠ d k ∧ (∀ p ∈ m, k < p.1) ∧ swf d m = true := by
  simp [swf, and_assoc]

theorem swf_serase [DecidableEq β] {d : Nat → β} (a : Nat) {m : Sparse β} (h : swf d m = true) : swf d (serase a m) = true := by
  induction m with
  | nil => simpa [serase] using h
  | cons q m ih =>
    obtain ⟨k, w⟩ := q
    obtain ⟨h1, h2, h3⟩ := swf_cons.mp h
    simp only [serase]
    split
    · exact ih h3
    · exact swf_cons.mpr ⟨h1, fun p hp => h2 p (mem_serase hp).1, ih h3⟩

theorem swf_sinsert [DecidableEq β] {d : Nat → β} {a : Nat} {v : β} {m : Sparse β} (hv : v ≠ d a) (hn : ∀ p ∈ m, p.1 ≠ a)
    (h : swf d m = true) : swf d (sinsert a v m) = true := by
  induction m with
  | nil => simp [sinsert, swf, hv]
  | cons q m ih =>
    obtain ⟨k, w⟩ := q
    obtain ⟨h1, h2, h3⟩ := swf_cons.mp h
    have hk : k ≠ a := hn (k, w) (by simp)
    simp only [sinsert]
    split
    · rename_i hlt
      refine swf_cons.mpr ⟨hv, ?_, h⟩
      intro p hp
      rcases List.mem_cons.mp hp with rfl | hp
      · exact hlt
      · exact Nat.lt_trans hlt (h2 p hp)
    · refine swf_cons.mpr ⟨h1, ?_, ih (fun p hp => hn p (by simp [hp])) h3⟩
      intro p hp
      rcases mem_sinsert hp with rfl | hp
      · show k < a; omega
      · exact h2 p hp

/-- A write keeps the canonical form. -/
theorem swf_sset [DecidableEq β] {d : Nat → β} {m : Sparse β} (a : Nat) (v : β) (h : swf d m = true) :
    swf d (sset d m a v) = true := by
  unfold sset
  split
  · exact swf_serase a h
  · rename_i hv
    exact swf_sinsert hv (fun p hp => (mem_serase hp).2) (swf_serase a h)

theorem swf_writeBytes (d : Nat → Byte) (bs : List Byte) (m : Sparse Byte) (a : Nat) (h : swf d m = true) :
    swf d (writeBytes d m a bs) = true := by
  induction bs generalizing m a with
  | nil => exact h
  | cons b bs ih => exact ih _ _ (swf_sset a b h)

theorem tget_sinsert (d : β) (m : Sparse β) (a : Nat) (v : β) (b : Nat) (h : ∀ p ∈ m, p.1 ≠ a) :
    tget d (sinsert a v m) b = if b = a then v else tget d m b := by
  induction m with
  | nil =>
    simp only [sinsert, tget]
    by_cases hb : b = a
    · simp [hb]
    · simp [hb, Ne.symm hb]
  | cons p m ih =>
    obtain ⟨k, w⟩ := p
    have hk : k ≠ a := h (k, w) (by simp)
    simp only [sinsert]
    split
    · simp only [tget]
      by_cases hb : b = a
      · simp [hb]
      · simp [hb, Ne.symm hb]
    · simp only [tget, ih (fun p hp => h p (by simp [hp]))]
      by_cases hb : k = b
      · simp [hb, show b ≠ a from hb ▸ hk]
      · simp [hb]

theorem tget_serase (d : β) (m : Sparse β) (a b : Nat) (h : b ≠ a) : tget d (serase a m) b = tget d m b := by
  induction m with
  | nil => rfl
  | cons p m ih =>
    obtain ⟨k, w⟩ := p
    simp only [serase]
    split
    · rename_i hk
      simp only [ih, tget]
      rw [if_neg (by omega)]
    · simp only [tget, ih]

/-- A read of a table after a write. -/
theorem tget_tput (d : β) (m : Sparse β) (a : Nat) (v : β) (b : Nat) :
    tget d (tput m a v) b = if b = a then v else tget d m b := by
  unfold tput
  rw [tget_sinsert _ _ _ _ _ (fun p hp => (mem_serase hp).2)]
  by_cases hb : b = a
  · simp [hb]
  · simp [hb, tget_serase d m a b hb]

/-- A byte after bytes were written. -/
theorem sget_writeBytes (d : Nat → Byte) (bs : List Byte) (m : Sparse Byte) (a b : Nat) :
    sget d (writeBytes d m a bs) b = if h : a ≤ b ∧ b < a + bs.length then bs[b - a]'(by omega) else sget d m b := by
  induction bs generalizing m a with
  | nil => simp only [writeBytes]; rw [dif_neg (by simp)]
  | cons x bs ih =>
    simp only [writeBytes, ih]
    by_cases h1 : a + 1 ≤ b ∧ b < a + 1 + bs.length
    · have h2 : a ≤ b ∧ b < a + (x :: bs).length := by simp; omega
      rw [dif_pos h1, dif_pos h2]
      have : b - a = (b - (a + 1)) + 1 := by omega
      simp [this]
    · rw [dif_neg h1, sget_sset]
      by_cases h2 : b = a
      · subst h2; simp
      · rw [if_neg h2, dif_neg (by simp; omega)]

end Sys2Proof.Machine
end

