-- ==== Sys2Proof/Laws/State.lean ====
section
/-!
SUPPORT. Laws/State.lean: what each update of the state leaves, field by field, and reads after writes of registers and units.
-/

namespace Sys2Proof.Machine

variable (s : State)

@[simp] theorem State.wr_pending (off : Nat) (v : Word) : (s.wr off v).pending = s.pending := rfl
@[simp] theorem State.wr_free (off : Nat) (v : Word) : (s.wr off v).free = s.free := rfl
@[simp] theorem State.wr_opts (off : Nat) (v : Word) : (s.wr off v).opts = s.opts := rfl
@[simp] theorem State.wr_time (off : Nat) (v : Word) : (s.wr off v).time = s.time := rfl
@[simp] theorem State.wr_drsHeld (off : Nat) (v : Word) : (s.wr off v).drsHeld = s.drsHeld := rfl
@[simp] theorem State.wr_inReset (off : Nat) (v : Word) : (s.wr off v).inReset = s.inReset := rfl
@[simp] theorem State.wr_phyOff (off : Nat) (v : Word) : (s.wr off v).phyOff = s.phyOff := rfl
@[simp] theorem State.wr_em (off : Nat) (v : Word) : (s.wr off v).em = s.em := rfl
@[simp] theorem State.wr_badBlocks (off : Nat) (v : Word) : (s.wr off v).badBlocks = s.badBlocks := rfl
@[simp] theorem State.wr_slots (off : Nat) (v : Word) : (s.wr off v).slots = s.slots := rfl
@[simp] theorem State.wr_sectors (off : Nat) (v : Word) : (s.wr off v).sectors = s.sectors := rfl
@[simp] theorem State.wr_cns (off : Nat) (v : Word) : (s.wr off v).cns = s.cns := rfl
@[simp] theorem State.wr_net (off : Nat) (v : Word) : (s.wr off v).net = s.net := rfl
@[simp] theorem State.wr_bind (off : Nat) (v : Word) : (s.wr off v).bind = s.bind := rfl
@[simp] theorem State.wr_cfg (off : Nat) (v : Word) : (s.wr off v).cfg = s.cfg := rfl
@[simp] theorem State.wr_ports (off : Nat) (v : Word) : (s.wr off v).ports = s.ports := rfl
@[simp] theorem State.wr_links (off : Nat) (v : Word) : (s.wr off v).links = s.links := rfl
@[simp] theorem State.wr_nmus (off : Nat) (v : Word) : (s.wr off v).nmus = s.nmus := rfl
@[simp] theorem State.wr_rdWait (off : Nat) (v : Word) : (s.wr off v).rdWait = s.rdWait := rfl
@[simp] theorem State.wr_hostWait (off : Nat) (v : Word) : (s.wr off v).hostWait = s.hostWait := rfl
@[simp] theorem State.wr_hostSend (off : Nat) (v : Word) : (s.wr off v).hostSend = s.hostSend := rfl
@[simp] theorem State.wr_hostWaits (off : Nat) (v : Word) : (s.wr off v).hostWaits = s.hostWaits := rfl
@[simp] theorem State.wr_nextEntry (off : Nat) (v : Word) : (s.wr off v).nextEntry = s.nextEntry := rfl
@[simp] theorem State.wr_haTlb (off : Nat) (v : Word) : (s.wr off v).haTlb = s.haTlb := rfl
@[simp] theorem State.wr_linkTlb (off : Nat) (v : Word) : (s.wr off v).linkTlb = s.linkTlb := rfl
@[simp] theorem State.wr_xfSeq (off : Nat) (v : Word) : (s.wr off v).xfSeq = s.xfSeq := rfl
@[simp] theorem State.wr_xfHeld (off : Nat) (v : Word) : (s.wr off v).xfHeld = s.xfHeld := rfl
@[simp] theorem State.wr_hm (off : Nat) (v : Word) : (s.wr off v).hm = s.hm := rfl
@[simp] theorem State.wr_remote (off : Nat) (v : Word) : (s.wr off v).remote = s.remote := rfl
@[simp] theorem State.wr_asks (off : Nat) (v : Word) : (s.wr off v).asks = s.asks := rfl
@[simp] theorem State.wr_got (off : Nat) (v : Word) : (s.wr off v).got = s.got := rfl
@[simp] theorem State.wr_xlNet (off : Nat) (v : Word) : (s.wr off v).xlNet = s.xlNet := rfl
@[simp] theorem State.wr_missReports (off : Nat) (v : Word) : (s.wr off v).missReports = s.missReports := rfl
@[simp] theorem State.wr_leases (off : Nat) (v : Word) : (s.wr off v).leases = s.leases := rfl
@[simp] theorem State.wr_reports (off : Nat) (v : Word) : (s.wr off v).reports = s.reports := rfl
@[simp] theorem State.wr_haOut (off : Nat) (v : Word) : (s.wr off v).haOut = s.haOut := rfl
@[simp] theorem State.wr_i3cIbi (off : Nat) (v : Word) : (s.wr off v).i3cIbi = s.i3cIbi := rfl
@[simp] theorem State.wr_passages (off : Nat) (v : Word) : (s.wr off v).passages = s.passages := rfl
@[simp] theorem State.wr_nextPid (off : Nat) (v : Word) : (s.wr off v).nextPid = s.nextPid := rfl
@[simp] theorem State.wr_rkDue (off : Nat) (v : Word) : (s.wr off v).rkDue = s.rkDue := rfl
@[simp] theorem State.wr_rtMode (off : Nat) (v : Word) : (s.wr off v).rtMode = s.rtMode := rfl
@[simp] theorem State.wr_windowed (off : Nat) (v : Word) : (s.wr off v).windowed = s.windowed := rfl
@[simp] theorem State.wr_grantQ (off : Nat) (v : Word) : (s.wr off v).grantQ = s.grantQ := rfl
@[simp] theorem State.wr_rises (off : Nat) (v : Word) : (s.wr off v).rises = s.rises := rfl
@[simp] theorem State.wr_drawn (off : Nat) (v : Word) : (s.wr off v).drawn = s.drawn := rfl
@[simp] theorem State.wr_zen (off : Nat) (v : Word) : (s.wr off v).zen = s.zen := rfl
@[simp] theorem State.wr_repair (off : Nat) (v : Word) : (s.wr off v).repair = s.repair := rfl
@[simp] theorem State.wr_log (off : Nat) (v : Word) : (s.wr off v).log = s.log := rfl
@[simp] theorem State.wr_nv (off : Nat) (v : Word) : (s.wr off v).nv = s.nv := rfl
@[simp] theorem State.wr_ledger (off : Nat) (v : Word) : (s.wr off v).ledger = s.ledger := rfl
@[simp] theorem State.wr_life (off : Nat) (v : Word) : (s.wr off v).life = s.life := rfl
@[simp] theorem State.wr_lifeKept (off : Nat) (v : Word) : (s.wr off v).lifeKept = s.lifeKept := rfl
@[simp] theorem State.wr_batchAt (off : Nat) (v : Word) : (s.wr off v).batchAt = s.batchAt := rfl
@[simp] theorem State.wr_batchSeq (off : Nat) (v : Word) : (s.wr off v).batchSeq = s.batchSeq := rfl
@[simp] theorem State.wr_keptSeq (off : Nat) (v : Word) : (s.wr off v).keptSeq = s.keptSeq := rfl
@[simp] theorem State.wr_lostTail (off : Nat) (v : Word) : (s.wr off v).lostTail = s.lostTail := rfl
@[simp] theorem State.wr_bermDone (off : Nat) (v : Word) : (s.wr off v).bermDone = s.bermDone := rfl
@[simp] theorem State.wr_bermSeen (off : Nat) (v : Word) : (s.wr off v).bermSeen = s.bermSeen := rfl
@[simp] theorem State.wr_berm (off : Nat) (v : Word) : (s.wr off v).berm = s.berm := rfl
@[simp] theorem State.wr_bermed (off : Nat) (v : Word) : (s.wr off v).bermed = s.bermed := rfl
@[simp] theorem State.wr_haWire (off : Nat) (v : Word) : (s.wr off v).haWire = s.haWire := rfl
@[simp] theorem State.wr_haCredits (off : Nat) (v : Word) : (s.wr off v).haCredits = s.haCredits := rfl
@[simp] theorem State.wr_nprIn (off : Nat) (v : Word) : (s.wr off v).nprIn = s.nprIn := rfl
@[simp] theorem State.wr_nextTag (off : Nat) (v : Word) : (s.wr off v).nextTag = s.nextTag := rfl
@[simp] theorem State.wr_puts (off : Nat) (v : Word) : (s.wr off v).puts = s.puts := rfl
@[simp] theorem State.wr_nextPut (off : Nat) (v : Word) : (s.wr off v).nextPut = s.nextPut := rfl
@[simp] theorem State.wr_hcache (off : Nat) (v : Word) : (s.wr off v).hcache = s.hcache := rfl
@[simp] theorem State.wr_hostRes (off : Nat) (v : Word) : (s.wr off v).hostRes = s.hostRes := rfl
@[simp] theorem State.wr_hostStart (off : Nat) (v : Word) : (s.wr off v).hostStart = s.hostStart := rfl
@[simp] theorem State.wr_i3cAddr (off : Nat) (v : Word) : (s.wr off v).i3cAddr = s.i3cAddr := rfl
@[simp] theorem State.wr_i3cData (off : Nat) (v : Word) : (s.wr off v).i3cData = s.i3cData := rfl
@[simp] theorem State.wr_jtag (off : Nat) (v : Word) : (s.wr off v).jtag = s.jtag := rfl
@[simp] theorem State.wr_pins (off : Nat) (v : Word) : (s.wr off v).pins = s.pins := rfl

@[simp] theorem State.setFld_pending (off : Nat) (f : Fld) (v : Nat) : (s.setFld off f v).pending = s.pending := rfl
@[simp] theorem State.setFld_free (off : Nat) (f : Fld) (v : Nat) : (s.setFld off f v).free = s.free := rfl
@[simp] theorem State.setFld_opts (off : Nat) (f : Fld) (v : Nat) : (s.setFld off f v).opts = s.opts := rfl
@[simp] theorem State.setFld_time (off : Nat) (f : Fld) (v : Nat) : (s.setFld off f v).time = s.time := rfl
@[simp] theorem State.setFld_drsHeld (off : Nat) (f : Fld) (v : Nat) : (s.setFld off f v).drsHeld = s.drsHeld := rfl
@[simp] theorem State.setFld_inReset (off : Nat) (f : Fld) (v : Nat) : (s.setFld off f v).inReset = s.inReset := rfl
@[simp] theorem State.setFld_phyOff (off : Nat) (f : Fld) (v : Nat) : (s.setFld off f v).phyOff = s.phyOff := rfl
@[simp] theorem State.setFld_em (off : Nat) (f : Fld) (v : Nat) : (s.setFld off f v).em = s.em := rfl
@[simp] theorem State.setFld_badBlocks (off : Nat) (f : Fld) (v : Nat) : (s.setFld off f v).badBlocks = s.badBlocks := rfl
@[simp] theorem State.setFld_slots (off : Nat) (f : Fld) (v : Nat) : (s.setFld off f v).slots = s.slots := rfl
@[simp] theorem State.setFld_sectors (off : Nat) (f : Fld) (v : Nat) : (s.setFld off f v).sectors = s.sectors := rfl
@[simp] theorem State.setFld_cns (off : Nat) (f : Fld) (v : Nat) : (s.setFld off f v).cns = s.cns := rfl
@[simp] theorem State.setFld_net (off : Nat) (f : Fld) (v : Nat) : (s.setFld off f v).net = s.net := rfl
@[simp] theorem State.setFld_bind (off : Nat) (f : Fld) (v : Nat) : (s.setFld off f v).bind = s.bind := rfl
@[simp] theorem State.setFld_cfg (off : Nat) (f : Fld) (v : Nat) : (s.setFld off f v).cfg = s.cfg := rfl
@[simp] theorem State.setFld_ports (off : Nat) (f : Fld) (v : Nat) : (s.setFld off f v).ports = s.ports := rfl
@[simp] theorem State.setFld_links (off : Nat) (f : Fld) (v : Nat) : (s.setFld off f v).links = s.links := rfl
@[simp] theorem State.setFld_nmus (off : Nat) (f : Fld) (v : Nat) : (s.setFld off f v).nmus = s.nmus := rfl
@[simp] theorem State.setFld_rdWait (off : Nat) (f : Fld) (v : Nat) : (s.setFld off f v).rdWait = s.rdWait := rfl
@[simp] theorem State.setFld_hostWait (off : Nat) (f : Fld) (v : Nat) : (s.setFld off f v).hostWait = s.hostWait := rfl
@[simp] theorem State.setFld_hostSend (off : Nat) (f : Fld) (v : Nat) : (s.setFld off f v).hostSend = s.hostSend := rfl
@[simp] theorem State.setFld_hostWaits (off : Nat) (f : Fld) (v : Nat) : (s.setFld off f v).hostWaits = s.hostWaits := rfl
@[simp] theorem State.setFld_nextEntry (off : Nat) (f : Fld) (v : Nat) : (s.setFld off f v).nextEntry = s.nextEntry := rfl
@[simp] theorem State.setFld_haTlb (off : Nat) (f : Fld) (v : Nat) : (s.setFld off f v).haTlb = s.haTlb := rfl
@[simp] theorem State.setFld_linkTlb (off : Nat) (f : Fld) (v : Nat) : (s.setFld off f v).linkTlb = s.linkTlb := rfl
@[simp] theorem State.setFld_xfSeq (off : Nat) (f : Fld) (v : Nat) : (s.setFld off f v).xfSeq = s.xfSeq := rfl
@[simp] theorem State.setFld_xfHeld (off : Nat) (f : Fld) (v : Nat) : (s.setFld off f v).xfHeld = s.xfHeld := rfl
@[simp] theorem State.setFld_hm (off : Nat) (f : Fld) (v : Nat) : (s.setFld off f v).hm = s.hm := rfl
@[simp] theorem State.setFld_remote (off : Nat) (f : Fld) (v : Nat) : (s.setFld off f v).remote = s.remote := rfl
@[simp] theorem State.setFld_asks (off : Nat) (f : Fld) (v : Nat) : (s.setFld off f v).asks = s.asks := rfl
@[simp] theorem State.setFld_got (off : Nat) (f : Fld) (v : Nat) : (s.setFld off f v).got = s.got := rfl
@[simp] theorem State.setFld_xlNet (off : Nat) (f : Fld) (v : Nat) : (s.setFld off f v).xlNet = s.xlNet := rfl
@[simp] theorem State.setFld_missReports (off : Nat) (f : Fld) (v : Nat) : (s.setFld off f v).missReports = s.missReports := rfl
@[simp] theorem State.setFld_leases (off : Nat) (f : Fld) (v : Nat) : (s.setFld off f v).leases = s.leases := rfl
@[simp] theorem State.setFld_reports (off : Nat) (f : Fld) (v : Nat) : (s.setFld off f v).reports = s.reports := rfl
@[simp] theorem State.setFld_haOut (off : Nat) (f : Fld) (v : Nat) : (s.setFld off f v).haOut = s.haOut := rfl
@[simp] theorem State.setFld_i3cIbi (off : Nat) (f : Fld) (v : Nat) : (s.setFld off f v).i3cIbi = s.i3cIbi := rfl
@[simp] theorem State.setFld_passages (off : Nat) (f : Fld) (v : Nat) : (s.setFld off f v).passages = s.passages := rfl
@[simp] theorem State.setFld_nextPid (off : Nat) (f : Fld) (v : Nat) : (s.setFld off f v).nextPid = s.nextPid := rfl
@[simp] theorem State.setFld_rkDue (off : Nat) (f : Fld) (v : Nat) : (s.setFld off f v).rkDue = s.rkDue := rfl
@[simp] theorem State.setFld_rtMode (off : Nat) (f : Fld) (v : Nat) : (s.setFld off f v).rtMode = s.rtMode := rfl
@[simp] theorem State.setFld_windowed (off : Nat) (f : Fld) (v : Nat) : (s.setFld off f v).windowed = s.windowed := rfl
@[simp] theorem State.setFld_grantQ (off : Nat) (f : Fld) (v : Nat) : (s.setFld off f v).grantQ = s.grantQ := rfl
@[simp] theorem State.setFld_rises (off : Nat) (f : Fld) (v : Nat) : (s.setFld off f v).rises = s.rises := rfl
@[simp] theorem State.setFld_drawn (off : Nat) (f : Fld) (v : Nat) : (s.setFld off f v).drawn = s.drawn := rfl
@[simp] theorem State.setFld_zen (off : Nat) (f : Fld) (v : Nat) : (s.setFld off f v).zen = s.zen := rfl
@[simp] theorem State.setFld_repair (off : Nat) (f : Fld) (v : Nat) : (s.setFld off f v).repair = s.repair := rfl
@[simp] theorem State.setFld_log (off : Nat) (f : Fld) (v : Nat) : (s.setFld off f v).log = s.log := rfl
@[simp] theorem State.setFld_nv (off : Nat) (f : Fld) (v : Nat) : (s.setFld off f v).nv = s.nv := rfl
@[simp] theorem State.setFld_ledger (off : Nat) (f : Fld) (v : Nat) : (s.setFld off f v).ledger = s.ledger := rfl
@[simp] theorem State.setFld_life (off : Nat) (f : Fld) (v : Nat) : (s.setFld off f v).life = s.life := rfl
@[simp] theorem State.setFld_lifeKept (off : Nat) (f : Fld) (v : Nat) : (s.setFld off f v).lifeKept = s.lifeKept := rfl
@[simp] theorem State.setFld_batchAt (off : Nat) (f : Fld) (v : Nat) : (s.setFld off f v).batchAt = s.batchAt := rfl
@[simp] theorem State.setFld_batchSeq (off : Nat) (f : Fld) (v : Nat) : (s.setFld off f v).batchSeq = s.batchSeq := rfl
@[simp] theorem State.setFld_keptSeq (off : Nat) (f : Fld) (v : Nat) : (s.setFld off f v).keptSeq = s.keptSeq := rfl
@[simp] theorem State.setFld_lostTail (off : Nat) (f : Fld) (v : Nat) : (s.setFld off f v).lostTail = s.lostTail := rfl
@[simp] theorem State.setFld_bermDone (off : Nat) (f : Fld) (v : Nat) : (s.setFld off f v).bermDone = s.bermDone := rfl
@[simp] theorem State.setFld_bermSeen (off : Nat) (f : Fld) (v : Nat) : (s.setFld off f v).bermSeen = s.bermSeen := rfl
@[simp] theorem State.setFld_berm (off : Nat) (f : Fld) (v : Nat) : (s.setFld off f v).berm = s.berm := rfl
@[simp] theorem State.setFld_bermed (off : Nat) (f : Fld) (v : Nat) : (s.setFld off f v).bermed = s.bermed := rfl
@[simp] theorem State.setFld_haWire (off : Nat) (f : Fld) (v : Nat) : (s.setFld off f v).haWire = s.haWire := rfl
@[simp] theorem State.setFld_haCredits (off : Nat) (f : Fld) (v : Nat) : (s.setFld off f v).haCredits = s.haCredits := rfl
@[simp] theorem State.setFld_nprIn (off : Nat) (f : Fld) (v : Nat) : (s.setFld off f v).nprIn = s.nprIn := rfl
@[simp] theorem State.setFld_nextTag (off : Nat) (f : Fld) (v : Nat) : (s.setFld off f v).nextTag = s.nextTag := rfl
@[simp] theorem State.setFld_puts (off : Nat) (f : Fld) (v : Nat) : (s.setFld off f v).puts = s.puts := rfl
@[simp] theorem State.setFld_nextPut (off : Nat) (f : Fld) (v : Nat) : (s.setFld off f v).nextPut = s.nextPut := rfl
@[simp] theorem State.setFld_hcache (off : Nat) (f : Fld) (v : Nat) : (s.setFld off f v).hcache = s.hcache := rfl
@[simp] theorem State.setFld_hostRes (off : Nat) (f : Fld) (v : Nat) : (s.setFld off f v).hostRes = s.hostRes := rfl
@[simp] theorem State.setFld_hostStart (off : Nat) (f : Fld) (v : Nat) : (s.setFld off f v).hostStart = s.hostStart := rfl
@[simp] theorem State.setFld_i3cAddr (off : Nat) (f : Fld) (v : Nat) : (s.setFld off f v).i3cAddr = s.i3cAddr := rfl
@[simp] theorem State.setFld_i3cData (off : Nat) (f : Fld) (v : Nat) : (s.setFld off f v).i3cData = s.i3cData := rfl
@[simp] theorem State.setFld_jtag (off : Nat) (f : Fld) (v : Nat) : (s.setFld off f v).jtag = s.jtag := rfl
@[simp] theorem State.setFld_pins (off : Nat) (f : Fld) (v : Nat) : (s.setFld off f v).pins = s.pins := rfl

@[simp] theorem State.setSlot_pending (k : Nat) (c : Slot) : (s.setSlot k c).pending = s.pending := rfl
@[simp] theorem State.setSlot_free (k : Nat) (c : Slot) : (s.setSlot k c).free = s.free := rfl
@[simp] theorem State.setSlot_opts (k : Nat) (c : Slot) : (s.setSlot k c).opts = s.opts := rfl
@[simp] theorem State.setSlot_time (k : Nat) (c : Slot) : (s.setSlot k c).time = s.time := rfl
@[simp] theorem State.setSlot_drs (k : Nat) (c : Slot) : (s.setSlot k c).drs = s.drs := rfl
@[simp] theorem State.setSlot_drsHeld (k : Nat) (c : Slot) : (s.setSlot k c).drsHeld = s.drsHeld := rfl
@[simp] theorem State.setSlot_inReset (k : Nat) (c : Slot) : (s.setSlot k c).inReset = s.inReset := rfl
@[simp] theorem State.setSlot_phyOff (k : Nat) (c : Slot) : (s.setSlot k c).phyOff = s.phyOff := rfl
@[simp] theorem State.setSlot_em (k : Nat) (c : Slot) : (s.setSlot k c).em = s.em := rfl
@[simp] theorem State.setSlot_badBlocks (k : Nat) (c : Slot) : (s.setSlot k c).badBlocks = s.badBlocks := rfl
@[simp] theorem State.setSlot_sectors (k : Nat) (c : Slot) : (s.setSlot k c).sectors = s.sectors := rfl
@[simp] theorem State.setSlot_cns (k : Nat) (c : Slot) : (s.setSlot k c).cns = s.cns := rfl
@[simp] theorem State.setSlot_net (k : Nat) (c : Slot) : (s.setSlot k c).net = s.net := rfl
@[simp] theorem State.setSlot_bind (k : Nat) (c : Slot) : (s.setSlot k c).bind = s.bind := rfl
@[simp] theorem State.setSlot_cfg (k : Nat) (c : Slot) : (s.setSlot k c).cfg = s.cfg := rfl
@[simp] theorem State.setSlot_ports (k : Nat) (c : Slot) : (s.setSlot k c).ports = s.ports := rfl
@[simp] theorem State.setSlot_links (k : Nat) (c : Slot) : (s.setSlot k c).links = s.links := rfl
@[simp] theorem State.setSlot_nmus (k : Nat) (c : Slot) : (s.setSlot k c).nmus = s.nmus := rfl
@[simp] theorem State.setSlot_rdWait (k : Nat) (c : Slot) : (s.setSlot k c).rdWait = s.rdWait := rfl
@[simp] theorem State.setSlot_hostWait (k : Nat) (c : Slot) : (s.setSlot k c).hostWait = s.hostWait := rfl
@[simp] theorem State.setSlot_hostSend (k : Nat) (c : Slot) : (s.setSlot k c).hostSend = s.hostSend := rfl
@[simp] theorem State.setSlot_hostWaits (k : Nat) (c : Slot) : (s.setSlot k c).hostWaits = s.hostWaits := rfl
@[simp] theorem State.setSlot_nextEntry (k : Nat) (c : Slot) : (s.setSlot k c).nextEntry = s.nextEntry := rfl
@[simp] theorem State.setSlot_haTlb (k : Nat) (c : Slot) : (s.setSlot k c).haTlb = s.haTlb := rfl
@[simp] theorem State.setSlot_linkTlb (k : Nat) (c : Slot) : (s.setSlot k c).linkTlb = s.linkTlb := rfl
@[simp] theorem State.setSlot_xfSeq (k : Nat) (c : Slot) : (s.setSlot k c).xfSeq = s.xfSeq := rfl
@[simp] theorem State.setSlot_xfHeld (k : Nat) (c : Slot) : (s.setSlot k c).xfHeld = s.xfHeld := rfl
@[simp] theorem State.setSlot_hm (k : Nat) (c : Slot) : (s.setSlot k c).hm = s.hm := rfl
@[simp] theorem State.setSlot_remote (k : Nat) (c : Slot) : (s.setSlot k c).remote = s.remote := rfl
@[simp] theorem State.setSlot_asks (k : Nat) (c : Slot) : (s.setSlot k c).asks = s.asks := rfl
@[simp] theorem State.setSlot_got (k : Nat) (c : Slot) : (s.setSlot k c).got = s.got := rfl
@[simp] theorem State.setSlot_xlNet (k : Nat) (c : Slot) : (s.setSlot k c).xlNet = s.xlNet := rfl
@[simp] theorem State.setSlot_missReports (k : Nat) (c : Slot) : (s.setSlot k c).missReports = s.missReports := rfl
@[simp] theorem State.setSlot_leases (k : Nat) (c : Slot) : (s.setSlot k c).leases = s.leases := rfl
@[simp] theorem State.setSlot_reports (k : Nat) (c : Slot) : (s.setSlot k c).reports = s.reports := rfl
@[simp] theorem State.setSlot_haOut (k : Nat) (c : Slot) : (s.setSlot k c).haOut = s.haOut := rfl
@[simp] theorem State.setSlot_i3cIbi (k : Nat) (c : Slot) : (s.setSlot k c).i3cIbi = s.i3cIbi := rfl
@[simp] theorem State.setSlot_passages (k : Nat) (c : Slot) : (s.setSlot k c).passages = s.passages := rfl
@[simp] theorem State.setSlot_nextPid (k : Nat) (c : Slot) : (s.setSlot k c).nextPid = s.nextPid := rfl
@[simp] theorem State.setSlot_rkDue (k : Nat) (c : Slot) : (s.setSlot k c).rkDue = s.rkDue := rfl
@[simp] theorem State.setSlot_rtMode (k : Nat) (c : Slot) : (s.setSlot k c).rtMode = s.rtMode := rfl
@[simp] theorem State.setSlot_windowed (k : Nat) (c : Slot) : (s.setSlot k c).windowed = s.windowed := rfl
@[simp] theorem State.setSlot_grantQ (k : Nat) (c : Slot) : (s.setSlot k c).grantQ = s.grantQ := rfl
@[simp] theorem State.setSlot_rises (k : Nat) (c : Slot) : (s.setSlot k c).rises = s.rises := rfl
@[simp] theorem State.setSlot_drawn (k : Nat) (c : Slot) : (s.setSlot k c).drawn = s.drawn := rfl
@[simp] theorem State.setSlot_zen (k : Nat) (c : Slot) : (s.setSlot k c).zen = s.zen := rfl
@[simp] theorem State.setSlot_repair (k : Nat) (c : Slot) : (s.setSlot k c).repair = s.repair := rfl
@[simp] theorem State.setSlot_log (k : Nat) (c : Slot) : (s.setSlot k c).log = s.log := rfl
@[simp] theorem State.setSlot_nv (k : Nat) (c : Slot) : (s.setSlot k c).nv = s.nv := rfl
@[simp] theorem State.setSlot_ledger (k : Nat) (c : Slot) : (s.setSlot k c).ledger = s.ledger := rfl
@[simp] theorem State.setSlot_life (k : Nat) (c : Slot) : (s.setSlot k c).life = s.life := rfl
@[simp] theorem State.setSlot_lifeKept (k : Nat) (c : Slot) : (s.setSlot k c).lifeKept = s.lifeKept := rfl
@[simp] theorem State.setSlot_batchAt (k : Nat) (c : Slot) : (s.setSlot k c).batchAt = s.batchAt := rfl
@[simp] theorem State.setSlot_batchSeq (k : Nat) (c : Slot) : (s.setSlot k c).batchSeq = s.batchSeq := rfl
@[simp] theorem State.setSlot_keptSeq (k : Nat) (c : Slot) : (s.setSlot k c).keptSeq = s.keptSeq := rfl
@[simp] theorem State.setSlot_lostTail (k : Nat) (c : Slot) : (s.setSlot k c).lostTail = s.lostTail := rfl
@[simp] theorem State.setSlot_bermDone (k : Nat) (c : Slot) : (s.setSlot k c).bermDone = s.bermDone := rfl
@[simp] theorem State.setSlot_bermSeen (k : Nat) (c : Slot) : (s.setSlot k c).bermSeen = s.bermSeen := rfl
@[simp] theorem State.setSlot_berm (k : Nat) (c : Slot) : (s.setSlot k c).berm = s.berm := rfl
@[simp] theorem State.setSlot_bermed (k : Nat) (c : Slot) : (s.setSlot k c).bermed = s.bermed := rfl
@[simp] theorem State.setSlot_haWire (k : Nat) (c : Slot) : (s.setSlot k c).haWire = s.haWire := rfl
@[simp] theorem State.setSlot_haCredits (k : Nat) (c : Slot) : (s.setSlot k c).haCredits = s.haCredits := rfl
@[simp] theorem State.setSlot_nprIn (k : Nat) (c : Slot) : (s.setSlot k c).nprIn = s.nprIn := rfl
@[simp] theorem State.setSlot_nextTag (k : Nat) (c : Slot) : (s.setSlot k c).nextTag = s.nextTag := rfl
@[simp] theorem State.setSlot_puts (k : Nat) (c : Slot) : (s.setSlot k c).puts = s.puts := rfl
@[simp] theorem State.setSlot_nextPut (k : Nat) (c : Slot) : (s.setSlot k c).nextPut = s.nextPut := rfl
@[simp] theorem State.setSlot_hcache (k : Nat) (c : Slot) : (s.setSlot k c).hcache = s.hcache := rfl
@[simp] theorem State.setSlot_hostRes (k : Nat) (c : Slot) : (s.setSlot k c).hostRes = s.hostRes := rfl
@[simp] theorem State.setSlot_hostStart (k : Nat) (c : Slot) : (s.setSlot k c).hostStart = s.hostStart := rfl
@[simp] theorem State.setSlot_i3cAddr (k : Nat) (c : Slot) : (s.setSlot k c).i3cAddr = s.i3cAddr := rfl
@[simp] theorem State.setSlot_i3cData (k : Nat) (c : Slot) : (s.setSlot k c).i3cData = s.i3cData := rfl
@[simp] theorem State.setSlot_jtag (k : Nat) (c : Slot) : (s.setSlot k c).jtag = s.jtag := rfl
@[simp] theorem State.setSlot_pins (k : Nat) (c : Slot) : (s.setSlot k c).pins = s.pins := rfl

@[simp] theorem State.modSlot_pending (k : Nat) (f : Slot → Slot) : (s.modSlot k f).pending = s.pending := rfl
@[simp] theorem State.modSlot_free (k : Nat) (f : Slot → Slot) : (s.modSlot k f).free = s.free := rfl
@[simp] theorem State.modSlot_opts (k : Nat) (f : Slot → Slot) : (s.modSlot k f).opts = s.opts := rfl
@[simp] theorem State.modSlot_time (k : Nat) (f : Slot → Slot) : (s.modSlot k f).time = s.time := rfl
@[simp] theorem State.modSlot_drs (k : Nat) (f : Slot → Slot) : (s.modSlot k f).drs = s.drs := rfl
@[simp] theorem State.modSlot_drsHeld (k : Nat) (f : Slot → Slot) : (s.modSlot k f).drsHeld = s.drsHeld := rfl
@[simp] theorem State.modSlot_inReset (k : Nat) (f : Slot → Slot) : (s.modSlot k f).inReset = s.inReset := rfl
@[simp] theorem State.modSlot_phyOff (k : Nat) (f : Slot → Slot) : (s.modSlot k f).phyOff = s.phyOff := rfl
@[simp] theorem State.modSlot_em (k : Nat) (f : Slot → Slot) : (s.modSlot k f).em = s.em := rfl
@[simp] theorem State.modSlot_badBlocks (k : Nat) (f : Slot → Slot) : (s.modSlot k f).badBlocks = s.badBlocks := rfl
@[simp] theorem State.modSlot_sectors (k : Nat) (f : Slot → Slot) : (s.modSlot k f).sectors = s.sectors := rfl
@[simp] theorem State.modSlot_cns (k : Nat) (f : Slot → Slot) : (s.modSlot k f).cns = s.cns := rfl
@[simp] theorem State.modSlot_net (k : Nat) (f : Slot → Slot) : (s.modSlot k f).net = s.net := rfl
@[simp] theorem State.modSlot_bind (k : Nat) (f : Slot → Slot) : (s.modSlot k f).bind = s.bind := rfl
@[simp] theorem State.modSlot_cfg (k : Nat) (f : Slot → Slot) : (s.modSlot k f).cfg = s.cfg := rfl
@[simp] theorem State.modSlot_ports (k : Nat) (f : Slot → Slot) : (s.modSlot k f).ports = s.ports := rfl
@[simp] theorem State.modSlot_links (k : Nat) (f : Slot → Slot) : (s.modSlot k f).links = s.links := rfl
@[simp] theorem State.modSlot_nmus (k : Nat) (f : Slot → Slot) : (s.modSlot k f).nmus = s.nmus := rfl
@[simp] theorem State.modSlot_rdWait (k : Nat) (f : Slot → Slot) : (s.modSlot k f).rdWait = s.rdWait := rfl
@[simp] theorem State.modSlot_hostWait (k : Nat) (f : Slot → Slot) : (s.modSlot k f).hostWait = s.hostWait := rfl
@[simp] theorem State.modSlot_hostSend (k : Nat) (f : Slot → Slot) : (s.modSlot k f).hostSend = s.hostSend := rfl
@[simp] theorem State.modSlot_hostWaits (k : Nat) (f : Slot → Slot) : (s.modSlot k f).hostWaits = s.hostWaits := rfl
@[simp] theorem State.modSlot_nextEntry (k : Nat) (f : Slot → Slot) : (s.modSlot k f).nextEntry = s.nextEntry := rfl
@[simp] theorem State.modSlot_haTlb (k : Nat) (f : Slot → Slot) : (s.modSlot k f).haTlb = s.haTlb := rfl
@[simp] theorem State.modSlot_linkTlb (k : Nat) (f : Slot → Slot) : (s.modSlot k f).linkTlb = s.linkTlb := rfl
@[simp] theorem State.modSlot_xfSeq (k : Nat) (f : Slot → Slot) : (s.modSlot k f).xfSeq = s.xfSeq := rfl
@[simp] theorem State.modSlot_xfHeld (k : Nat) (f : Slot → Slot) : (s.modSlot k f).xfHeld = s.xfHeld := rfl
@[simp] theorem State.modSlot_hm (k : Nat) (f : Slot → Slot) : (s.modSlot k f).hm = s.hm := rfl
@[simp] theorem State.modSlot_remote (k : Nat) (f : Slot → Slot) : (s.modSlot k f).remote = s.remote := rfl
@[simp] theorem State.modSlot_asks (k : Nat) (f : Slot → Slot) : (s.modSlot k f).asks = s.asks := rfl
@[simp] theorem State.modSlot_got (k : Nat) (f : Slot → Slot) : (s.modSlot k f).got = s.got := rfl
@[simp] theorem State.modSlot_xlNet (k : Nat) (f : Slot → Slot) : (s.modSlot k f).xlNet = s.xlNet := rfl
@[simp] theorem State.modSlot_missReports (k : Nat) (f : Slot → Slot) : (s.modSlot k f).missReports = s.missReports := rfl
@[simp] theorem State.modSlot_leases (k : Nat) (f : Slot → Slot) : (s.modSlot k f).leases = s.leases := rfl
@[simp] theorem State.modSlot_reports (k : Nat) (f : Slot → Slot) : (s.modSlot k f).reports = s.reports := rfl
@[simp] theorem State.modSlot_haOut (k : Nat) (f : Slot → Slot) : (s.modSlot k f).haOut = s.haOut := rfl
@[simp] theorem State.modSlot_i3cIbi (k : Nat) (f : Slot → Slot) : (s.modSlot k f).i3cIbi = s.i3cIbi := rfl
@[simp] theorem State.modSlot_passages (k : Nat) (f : Slot → Slot) : (s.modSlot k f).passages = s.passages := rfl
@[simp] theorem State.modSlot_nextPid (k : Nat) (f : Slot → Slot) : (s.modSlot k f).nextPid = s.nextPid := rfl
@[simp] theorem State.modSlot_rkDue (k : Nat) (f : Slot → Slot) : (s.modSlot k f).rkDue = s.rkDue := rfl
@[simp] theorem State.modSlot_rtMode (k : Nat) (f : Slot → Slot) : (s.modSlot k f).rtMode = s.rtMode := rfl
@[simp] theorem State.modSlot_windowed (k : Nat) (f : Slot → Slot) : (s.modSlot k f).windowed = s.windowed := rfl
@[simp] theorem State.modSlot_grantQ (k : Nat) (f : Slot → Slot) : (s.modSlot k f).grantQ = s.grantQ := rfl
@[simp] theorem State.modSlot_rises (k : Nat) (f : Slot → Slot) : (s.modSlot k f).rises = s.rises := rfl
@[simp] theorem State.modSlot_drawn (k : Nat) (f : Slot → Slot) : (s.modSlot k f).drawn = s.drawn := rfl
@[simp] theorem State.modSlot_zen (k : Nat) (f : Slot → Slot) : (s.modSlot k f).zen = s.zen := rfl
@[simp] theorem State.modSlot_repair (k : Nat) (f : Slot → Slot) : (s.modSlot k f).repair = s.repair := rfl
@[simp] theorem State.modSlot_log (k : Nat) (f : Slot → Slot) : (s.modSlot k f).log = s.log := rfl
@[simp] theorem State.modSlot_nv (k : Nat) (f : Slot → Slot) : (s.modSlot k f).nv = s.nv := rfl
@[simp] theorem State.modSlot_ledger (k : Nat) (f : Slot → Slot) : (s.modSlot k f).ledger = s.ledger := rfl
@[simp] theorem State.modSlot_life (k : Nat) (f : Slot → Slot) : (s.modSlot k f).life = s.life := rfl
@[simp] theorem State.modSlot_lifeKept (k : Nat) (f : Slot → Slot) : (s.modSlot k f).lifeKept = s.lifeKept := rfl
@[simp] theorem State.modSlot_batchAt (k : Nat) (f : Slot → Slot) : (s.modSlot k f).batchAt = s.batchAt := rfl
@[simp] theorem State.modSlot_batchSeq (k : Nat) (f : Slot → Slot) : (s.modSlot k f).batchSeq = s.batchSeq := rfl
@[simp] theorem State.modSlot_keptSeq (k : Nat) (f : Slot → Slot) : (s.modSlot k f).keptSeq = s.keptSeq := rfl
@[simp] theorem State.modSlot_lostTail (k : Nat) (f : Slot → Slot) : (s.modSlot k f).lostTail = s.lostTail := rfl
@[simp] theorem State.modSlot_bermDone (k : Nat) (f : Slot → Slot) : (s.modSlot k f).bermDone = s.bermDone := rfl
@[simp] theorem State.modSlot_bermSeen (k : Nat) (f : Slot → Slot) : (s.modSlot k f).bermSeen = s.bermSeen := rfl
@[simp] theorem State.modSlot_berm (k : Nat) (f : Slot → Slot) : (s.modSlot k f).berm = s.berm := rfl
@[simp] theorem State.modSlot_bermed (k : Nat) (f : Slot → Slot) : (s.modSlot k f).bermed = s.bermed := rfl
@[simp] theorem State.modSlot_haWire (k : Nat) (f : Slot → Slot) : (s.modSlot k f).haWire = s.haWire := rfl
@[simp] theorem State.modSlot_haCredits (k : Nat) (f : Slot → Slot) : (s.modSlot k f).haCredits = s.haCredits := rfl
@[simp] theorem State.modSlot_nprIn (k : Nat) (f : Slot → Slot) : (s.modSlot k f).nprIn = s.nprIn := rfl
@[simp] theorem State.modSlot_nextTag (k : Nat) (f : Slot → Slot) : (s.modSlot k f).nextTag = s.nextTag := rfl
@[simp] theorem State.modSlot_puts (k : Nat) (f : Slot → Slot) : (s.modSlot k f).puts = s.puts := rfl
@[simp] theorem State.modSlot_nextPut (k : Nat) (f : Slot → Slot) : (s.modSlot k f).nextPut = s.nextPut := rfl
@[simp] theorem State.modSlot_hcache (k : Nat) (f : Slot → Slot) : (s.modSlot k f).hcache = s.hcache := rfl
@[simp] theorem State.modSlot_hostRes (k : Nat) (f : Slot → Slot) : (s.modSlot k f).hostRes = s.hostRes := rfl
@[simp] theorem State.modSlot_hostStart (k : Nat) (f : Slot → Slot) : (s.modSlot k f).hostStart = s.hostStart := rfl
@[simp] theorem State.modSlot_i3cAddr (k : Nat) (f : Slot → Slot) : (s.modSlot k f).i3cAddr = s.i3cAddr := rfl
@[simp] theorem State.modSlot_i3cData (k : Nat) (f : Slot → Slot) : (s.modSlot k f).i3cData = s.i3cData := rfl
@[simp] theorem State.modSlot_jtag (k : Nat) (f : Slot → Slot) : (s.modSlot k f).jtag = s.jtag := rfl
@[simp] theorem State.modSlot_pins (k : Nat) (f : Slot → Slot) : (s.modSlot k f).pins = s.pins := rfl

@[simp] theorem State.setQueue_pending (k : Nat) (q : QSel) (v : Queue) : (s.setQueue k q v).pending = s.pending := rfl
@[simp] theorem State.setQueue_free (k : Nat) (q : QSel) (v : Queue) : (s.setQueue k q v).free = s.free := rfl
@[simp] theorem State.setQueue_opts (k : Nat) (q : QSel) (v : Queue) : (s.setQueue k q v).opts = s.opts := rfl
@[simp] theorem State.setQueue_time (k : Nat) (q : QSel) (v : Queue) : (s.setQueue k q v).time = s.time := rfl
@[simp] theorem State.setQueue_drs (k : Nat) (q : QSel) (v : Queue) : (s.setQueue k q v).drs = s.drs := rfl
@[simp] theorem State.setQueue_drsHeld (k : Nat) (q : QSel) (v : Queue) : (s.setQueue k q v).drsHeld = s.drsHeld := rfl
@[simp] theorem State.setQueue_inReset (k : Nat) (q : QSel) (v : Queue) : (s.setQueue k q v).inReset = s.inReset := rfl
@[simp] theorem State.setQueue_phyOff (k : Nat) (q : QSel) (v : Queue) : (s.setQueue k q v).phyOff = s.phyOff := rfl
@[simp] theorem State.setQueue_em (k : Nat) (q : QSel) (v : Queue) : (s.setQueue k q v).em = s.em := rfl
@[simp] theorem State.setQueue_badBlocks (k : Nat) (q : QSel) (v : Queue) : (s.setQueue k q v).badBlocks = s.badBlocks := rfl
@[simp] theorem State.setQueue_sectors (k : Nat) (q : QSel) (v : Queue) : (s.setQueue k q v).sectors = s.sectors := rfl
@[simp] theorem State.setQueue_cns (k : Nat) (q : QSel) (v : Queue) : (s.setQueue k q v).cns = s.cns := rfl
@[simp] theorem State.setQueue_net (k : Nat) (q : QSel) (v : Queue) : (s.setQueue k q v).net = s.net := rfl
@[simp] theorem State.setQueue_bind (k : Nat) (q : QSel) (v : Queue) : (s.setQueue k q v).bind = s.bind := rfl
@[simp] theorem State.setQueue_cfg (k : Nat) (q : QSel) (v : Queue) : (s.setQueue k q v).cfg = s.cfg := rfl
@[simp] theorem State.setQueue_ports (k : Nat) (q : QSel) (v : Queue) : (s.setQueue k q v).ports = s.ports := rfl
@[simp] theorem State.setQueue_links (k : Nat) (q : QSel) (v : Queue) : (s.setQueue k q v).links = s.links := rfl
@[simp] theorem State.setQueue_nmus (k : Nat) (q : QSel) (v : Queue) : (s.setQueue k q v).nmus = s.nmus := rfl
@[simp] theorem State.setQueue_rdWait (k : Nat) (q : QSel) (v : Queue) : (s.setQueue k q v).rdWait = s.rdWait := rfl
@[simp] theorem State.setQueue_hostWait (k : Nat) (q : QSel) (v : Queue) : (s.setQueue k q v).hostWait = s.hostWait := rfl
@[simp] theorem State.setQueue_hostSend (k : Nat) (q : QSel) (v : Queue) : (s.setQueue k q v).hostSend = s.hostSend := rfl
@[simp] theorem State.setQueue_hostWaits (k : Nat) (q : QSel) (v : Queue) : (s.setQueue k q v).hostWaits = s.hostWaits := rfl
@[simp] theorem State.setQueue_nextEntry (k : Nat) (q : QSel) (v : Queue) : (s.setQueue k q v).nextEntry = s.nextEntry := rfl
@[simp] theorem State.setQueue_haTlb (k : Nat) (q : QSel) (v : Queue) : (s.setQueue k q v).haTlb = s.haTlb := rfl
@[simp] theorem State.setQueue_linkTlb (k : Nat) (q : QSel) (v : Queue) : (s.setQueue k q v).linkTlb = s.linkTlb := rfl
@[simp] theorem State.setQueue_xfSeq (k : Nat) (q : QSel) (v : Queue) : (s.setQueue k q v).xfSeq = s.xfSeq := rfl
@[simp] theorem State.setQueue_xfHeld (k : Nat) (q : QSel) (v : Queue) : (s.setQueue k q v).xfHeld = s.xfHeld := rfl
@[simp] theorem State.setQueue_hm (k : Nat) (q : QSel) (v : Queue) : (s.setQueue k q v).hm = s.hm := rfl
@[simp] theorem State.setQueue_remote (k : Nat) (q : QSel) (v : Queue) : (s.setQueue k q v).remote = s.remote := rfl
@[simp] theorem State.setQueue_asks (k : Nat) (q : QSel) (v : Queue) : (s.setQueue k q v).asks = s.asks := rfl
@[simp] theorem State.setQueue_got (k : Nat) (q : QSel) (v : Queue) : (s.setQueue k q v).got = s.got := rfl
@[simp] theorem State.setQueue_xlNet (k : Nat) (q : QSel) (v : Queue) : (s.setQueue k q v).xlNet = s.xlNet := rfl
@[simp] theorem State.setQueue_missReports (k : Nat) (q : QSel) (v : Queue) : (s.setQueue k q v).missReports = s.missReports := rfl
@[simp] theorem State.setQueue_leases (k : Nat) (q : QSel) (v : Queue) : (s.setQueue k q v).leases = s.leases := rfl
@[simp] theorem State.setQueue_reports (k : Nat) (q : QSel) (v : Queue) : (s.setQueue k q v).reports = s.reports := rfl
@[simp] theorem State.setQueue_haOut (k : Nat) (q : QSel) (v : Queue) : (s.setQueue k q v).haOut = s.haOut := rfl
@[simp] theorem State.setQueue_i3cIbi (k : Nat) (q : QSel) (v : Queue) : (s.setQueue k q v).i3cIbi = s.i3cIbi := rfl
@[simp] theorem State.setQueue_passages (k : Nat) (q : QSel) (v : Queue) : (s.setQueue k q v).passages = s.passages := rfl
@[simp] theorem State.setQueue_nextPid (k : Nat) (q : QSel) (v : Queue) : (s.setQueue k q v).nextPid = s.nextPid := rfl
@[simp] theorem State.setQueue_rkDue (k : Nat) (q : QSel) (v : Queue) : (s.setQueue k q v).rkDue = s.rkDue := rfl
@[simp] theorem State.setQueue_rtMode (k : Nat) (q : QSel) (v : Queue) : (s.setQueue k q v).rtMode = s.rtMode := rfl
@[simp] theorem State.setQueue_windowed (k : Nat) (q : QSel) (v : Queue) : (s.setQueue k q v).windowed = s.windowed := rfl
@[simp] theorem State.setQueue_grantQ (k : Nat) (q : QSel) (v : Queue) : (s.setQueue k q v).grantQ = s.grantQ := rfl
@[simp] theorem State.setQueue_rises (k : Nat) (q : QSel) (v : Queue) : (s.setQueue k q v).rises = s.rises := rfl
@[simp] theorem State.setQueue_drawn (k : Nat) (q : QSel) (v : Queue) : (s.setQueue k q v).drawn = s.drawn := rfl
@[simp] theorem State.setQueue_zen (k : Nat) (q : QSel) (v : Queue) : (s.setQueue k q v).zen = s.zen := rfl
@[simp] theorem State.setQueue_repair (k : Nat) (q : QSel) (v : Queue) : (s.setQueue k q v).repair = s.repair := rfl
@[simp] theorem State.setQueue_log (k : Nat) (q : QSel) (v : Queue) : (s.setQueue k q v).log = s.log := rfl
@[simp] theorem State.setQueue_nv (k : Nat) (q : QSel) (v : Queue) : (s.setQueue k q v).nv = s.nv := rfl
@[simp] theorem State.setQueue_ledger (k : Nat) (q : QSel) (v : Queue) : (s.setQueue k q v).ledger = s.ledger := rfl
@[simp] theorem State.setQueue_life (k : Nat) (q : QSel) (v : Queue) : (s.setQueue k q v).life = s.life := rfl
@[simp] theorem State.setQueue_lifeKept (k : Nat) (q : QSel) (v : Queue) : (s.setQueue k q v).lifeKept = s.lifeKept := rfl
@[simp] theorem State.setQueue_batchAt (k : Nat) (q : QSel) (v : Queue) : (s.setQueue k q v).batchAt = s.batchAt := rfl
@[simp] theorem State.setQueue_batchSeq (k : Nat) (q : QSel) (v : Queue) : (s.setQueue k q v).batchSeq = s.batchSeq := rfl
@[simp] theorem State.setQueue_keptSeq (k : Nat) (q : QSel) (v : Queue) : (s.setQueue k q v).keptSeq = s.keptSeq := rfl
@[simp] theorem State.setQueue_lostTail (k : Nat) (q : QSel) (v : Queue) : (s.setQueue k q v).lostTail = s.lostTail := rfl
@[simp] theorem State.setQueue_bermDone (k : Nat) (q : QSel) (v : Queue) : (s.setQueue k q v).bermDone = s.bermDone := rfl
@[simp] theorem State.setQueue_bermSeen (k : Nat) (q : QSel) (v : Queue) : (s.setQueue k q v).bermSeen = s.bermSeen := rfl
@[simp] theorem State.setQueue_berm (k : Nat) (q : QSel) (v : Queue) : (s.setQueue k q v).berm = s.berm := rfl
@[simp] theorem State.setQueue_bermed (k : Nat) (q : QSel) (v : Queue) : (s.setQueue k q v).bermed = s.bermed := rfl
@[simp] theorem State.setQueue_haWire (k : Nat) (q : QSel) (v : Queue) : (s.setQueue k q v).haWire = s.haWire := rfl
@[simp] theorem State.setQueue_haCredits (k : Nat) (q : QSel) (v : Queue) : (s.setQueue k q v).haCredits = s.haCredits := rfl
@[simp] theorem State.setQueue_nprIn (k : Nat) (q : QSel) (v : Queue) : (s.setQueue k q v).nprIn = s.nprIn := rfl
@[simp] theorem State.setQueue_nextTag (k : Nat) (q : QSel) (v : Queue) : (s.setQueue k q v).nextTag = s.nextTag := rfl
@[simp] theorem State.setQueue_puts (k : Nat) (q : QSel) (v : Queue) : (s.setQueue k q v).puts = s.puts := rfl
@[simp] theorem State.setQueue_nextPut (k : Nat) (q : QSel) (v : Queue) : (s.setQueue k q v).nextPut = s.nextPut := rfl
@[simp] theorem State.setQueue_hcache (k : Nat) (q : QSel) (v : Queue) : (s.setQueue k q v).hcache = s.hcache := rfl
@[simp] theorem State.setQueue_hostRes (k : Nat) (q : QSel) (v : Queue) : (s.setQueue k q v).hostRes = s.hostRes := rfl
@[simp] theorem State.setQueue_hostStart (k : Nat) (q : QSel) (v : Queue) : (s.setQueue k q v).hostStart = s.hostStart := rfl
@[simp] theorem State.setQueue_i3cAddr (k : Nat) (q : QSel) (v : Queue) : (s.setQueue k q v).i3cAddr = s.i3cAddr := rfl
@[simp] theorem State.setQueue_i3cData (k : Nat) (q : QSel) (v : Queue) : (s.setQueue k q v).i3cData = s.i3cData := rfl
@[simp] theorem State.setQueue_jtag (k : Nat) (q : QSel) (v : Queue) : (s.setQueue k q v).jtag = s.jtag := rfl
@[simp] theorem State.setQueue_pins (k : Nat) (q : QSel) (v : Queue) : (s.setQueue k q v).pins = s.pins := rfl

@[simp] theorem State.send_pending (pl : Plane) (a b : Endpoint) (y : Payload) : (s.send pl a b y).pending = s.pending := rfl
@[simp] theorem State.send_free (pl : Plane) (a b : Endpoint) (y : Payload) : (s.send pl a b y).free = s.free := rfl
@[simp] theorem State.send_opts (pl : Plane) (a b : Endpoint) (y : Payload) : (s.send pl a b y).opts = s.opts := rfl
@[simp] theorem State.send_time (pl : Plane) (a b : Endpoint) (y : Payload) : (s.send pl a b y).time = s.time := rfl
@[simp] theorem State.send_drs (pl : Plane) (a b : Endpoint) (y : Payload) : (s.send pl a b y).drs = s.drs := rfl
@[simp] theorem State.send_drsHeld (pl : Plane) (a b : Endpoint) (y : Payload) : (s.send pl a b y).drsHeld = s.drsHeld := rfl
@[simp] theorem State.send_inReset (pl : Plane) (a b : Endpoint) (y : Payload) : (s.send pl a b y).inReset = s.inReset := rfl
@[simp] theorem State.send_phyOff (pl : Plane) (a b : Endpoint) (y : Payload) : (s.send pl a b y).phyOff = s.phyOff := rfl
@[simp] theorem State.send_em (pl : Plane) (a b : Endpoint) (y : Payload) : (s.send pl a b y).em = s.em := rfl
@[simp] theorem State.send_badBlocks (pl : Plane) (a b : Endpoint) (y : Payload) : (s.send pl a b y).badBlocks = s.badBlocks := rfl
@[simp] theorem State.send_slots (pl : Plane) (a b : Endpoint) (y : Payload) : (s.send pl a b y).slots = s.slots := rfl
@[simp] theorem State.send_sectors (pl : Plane) (a b : Endpoint) (y : Payload) : (s.send pl a b y).sectors = s.sectors := rfl
@[simp] theorem State.send_cns (pl : Plane) (a b : Endpoint) (y : Payload) : (s.send pl a b y).cns = s.cns := rfl
@[simp] theorem State.send_bind (pl : Plane) (a b : Endpoint) (y : Payload) : (s.send pl a b y).bind = s.bind := rfl
@[simp] theorem State.send_cfg (pl : Plane) (a b : Endpoint) (y : Payload) : (s.send pl a b y).cfg = s.cfg := rfl
@[simp] theorem State.send_ports (pl : Plane) (a b : Endpoint) (y : Payload) : (s.send pl a b y).ports = s.ports := rfl
@[simp] theorem State.send_links (pl : Plane) (a b : Endpoint) (y : Payload) : (s.send pl a b y).links = s.links := rfl
@[simp] theorem State.send_nmus (pl : Plane) (a b : Endpoint) (y : Payload) : (s.send pl a b y).nmus = s.nmus := rfl
@[simp] theorem State.send_rdWait (pl : Plane) (a b : Endpoint) (y : Payload) : (s.send pl a b y).rdWait = s.rdWait := rfl
@[simp] theorem State.send_hostWait (pl : Plane) (a b : Endpoint) (y : Payload) : (s.send pl a b y).hostWait = s.hostWait := rfl
@[simp] theorem State.send_hostSend (pl : Plane) (a b : Endpoint) (y : Payload) : (s.send pl a b y).hostSend = s.hostSend := rfl
@[simp] theorem State.send_hostWaits (pl : Plane) (a b : Endpoint) (y : Payload) : (s.send pl a b y).hostWaits = s.hostWaits := rfl
@[simp] theorem State.send_nextEntry (pl : Plane) (a b : Endpoint) (y : Payload) : (s.send pl a b y).nextEntry = s.nextEntry := rfl
@[simp] theorem State.send_haTlb (pl : Plane) (a b : Endpoint) (y : Payload) : (s.send pl a b y).haTlb = s.haTlb := rfl
@[simp] theorem State.send_linkTlb (pl : Plane) (a b : Endpoint) (y : Payload) : (s.send pl a b y).linkTlb = s.linkTlb := rfl
@[simp] theorem State.send_xfSeq (pl : Plane) (a b : Endpoint) (y : Payload) : (s.send pl a b y).xfSeq = s.xfSeq := rfl
@[simp] theorem State.send_xfHeld (pl : Plane) (a b : Endpoint) (y : Payload) : (s.send pl a b y).xfHeld = s.xfHeld := rfl
@[simp] theorem State.send_hm (pl : Plane) (a b : Endpoint) (y : Payload) : (s.send pl a b y).hm = s.hm := rfl
@[simp] theorem State.send_remote (pl : Plane) (a b : Endpoint) (y : Payload) : (s.send pl a b y).remote = s.remote := rfl
@[simp] theorem State.send_asks (pl : Plane) (a b : Endpoint) (y : Payload) : (s.send pl a b y).asks = s.asks := rfl
@[simp] theorem State.send_got (pl : Plane) (a b : Endpoint) (y : Payload) : (s.send pl a b y).got = s.got := rfl
@[simp] theorem State.send_xlNet (pl : Plane) (a b : Endpoint) (y : Payload) : (s.send pl a b y).xlNet = s.xlNet := rfl
@[simp] theorem State.send_missReports (pl : Plane) (a b : Endpoint) (y : Payload) : (s.send pl a b y).missReports = s.missReports := rfl
@[simp] theorem State.send_leases (pl : Plane) (a b : Endpoint) (y : Payload) : (s.send pl a b y).leases = s.leases := rfl
@[simp] theorem State.send_reports (pl : Plane) (a b : Endpoint) (y : Payload) : (s.send pl a b y).reports = s.reports := rfl
@[simp] theorem State.send_haOut (pl : Plane) (a b : Endpoint) (y : Payload) : (s.send pl a b y).haOut = s.haOut := rfl
@[simp] theorem State.send_i3cIbi (pl : Plane) (a b : Endpoint) (y : Payload) : (s.send pl a b y).i3cIbi = s.i3cIbi := rfl
@[simp] theorem State.send_passages (pl : Plane) (a b : Endpoint) (y : Payload) : (s.send pl a b y).passages = s.passages := rfl
@[simp] theorem State.send_nextPid (pl : Plane) (a b : Endpoint) (y : Payload) : (s.send pl a b y).nextPid = s.nextPid := rfl
@[simp] theorem State.send_rkDue (pl : Plane) (a b : Endpoint) (y : Payload) : (s.send pl a b y).rkDue = s.rkDue := rfl
@[simp] theorem State.send_rtMode (pl : Plane) (a b : Endpoint) (y : Payload) : (s.send pl a b y).rtMode = s.rtMode := rfl
@[simp] theorem State.send_windowed (pl : Plane) (a b : Endpoint) (y : Payload) : (s.send pl a b y).windowed = s.windowed := rfl
@[simp] theorem State.send_grantQ (pl : Plane) (a b : Endpoint) (y : Payload) : (s.send pl a b y).grantQ = s.grantQ := rfl
@[simp] theorem State.send_rises (pl : Plane) (a b : Endpoint) (y : Payload) : (s.send pl a b y).rises = s.rises := rfl
@[simp] theorem State.send_drawn (pl : Plane) (a b : Endpoint) (y : Payload) : (s.send pl a b y).drawn = s.drawn := rfl
@[simp] theorem State.send_zen (pl : Plane) (a b : Endpoint) (y : Payload) : (s.send pl a b y).zen = s.zen := rfl
@[simp] theorem State.send_repair (pl : Plane) (a b : Endpoint) (y : Payload) : (s.send pl a b y).repair = s.repair := rfl
@[simp] theorem State.send_log (pl : Plane) (a b : Endpoint) (y : Payload) : (s.send pl a b y).log = s.log := rfl
@[simp] theorem State.send_nv (pl : Plane) (a b : Endpoint) (y : Payload) : (s.send pl a b y).nv = s.nv := rfl
@[simp] theorem State.send_ledger (pl : Plane) (a b : Endpoint) (y : Payload) : (s.send pl a b y).ledger = s.ledger := rfl
@[simp] theorem State.send_life (pl : Plane) (a b : Endpoint) (y : Payload) : (s.send pl a b y).life = s.life := rfl
@[simp] theorem State.send_lifeKept (pl : Plane) (a b : Endpoint) (y : Payload) : (s.send pl a b y).lifeKept = s.lifeKept := rfl
@[simp] theorem State.send_batchAt (pl : Plane) (a b : Endpoint) (y : Payload) : (s.send pl a b y).batchAt = s.batchAt := rfl
@[simp] theorem State.send_batchSeq (pl : Plane) (a b : Endpoint) (y : Payload) : (s.send pl a b y).batchSeq = s.batchSeq := rfl
@[simp] theorem State.send_keptSeq (pl : Plane) (a b : Endpoint) (y : Payload) : (s.send pl a b y).keptSeq = s.keptSeq := rfl
@[simp] theorem State.send_lostTail (pl : Plane) (a b : Endpoint) (y : Payload) : (s.send pl a b y).lostTail = s.lostTail := rfl
@[simp] theorem State.send_bermDone (pl : Plane) (a b : Endpoint) (y : Payload) : (s.send pl a b y).bermDone = s.bermDone := rfl
@[simp] theorem State.send_bermSeen (pl : Plane) (a b : Endpoint) (y : Payload) : (s.send pl a b y).bermSeen = s.bermSeen := rfl
@[simp] theorem State.send_berm (pl : Plane) (a b : Endpoint) (y : Payload) : (s.send pl a b y).berm = s.berm := rfl
@[simp] theorem State.send_bermed (pl : Plane) (a b : Endpoint) (y : Payload) : (s.send pl a b y).bermed = s.bermed := rfl
@[simp] theorem State.send_haWire (pl : Plane) (a b : Endpoint) (y : Payload) : (s.send pl a b y).haWire = s.haWire := rfl
@[simp] theorem State.send_haCredits (pl : Plane) (a b : Endpoint) (y : Payload) : (s.send pl a b y).haCredits = s.haCredits := rfl
@[simp] theorem State.send_nprIn (pl : Plane) (a b : Endpoint) (y : Payload) : (s.send pl a b y).nprIn = s.nprIn := rfl
@[simp] theorem State.send_nextTag (pl : Plane) (a b : Endpoint) (y : Payload) : (s.send pl a b y).nextTag = s.nextTag := rfl
@[simp] theorem State.send_puts (pl : Plane) (a b : Endpoint) (y : Payload) : (s.send pl a b y).puts = s.puts := rfl
@[simp] theorem State.send_nextPut (pl : Plane) (a b : Endpoint) (y : Payload) : (s.send pl a b y).nextPut = s.nextPut := rfl
@[simp] theorem State.send_hcache (pl : Plane) (a b : Endpoint) (y : Payload) : (s.send pl a b y).hcache = s.hcache := rfl
@[simp] theorem State.send_hostRes (pl : Plane) (a b : Endpoint) (y : Payload) : (s.send pl a b y).hostRes = s.hostRes := rfl
@[simp] theorem State.send_hostStart (pl : Plane) (a b : Endpoint) (y : Payload) : (s.send pl a b y).hostStart = s.hostStart := rfl
@[simp] theorem State.send_i3cAddr (pl : Plane) (a b : Endpoint) (y : Payload) : (s.send pl a b y).i3cAddr = s.i3cAddr := rfl
@[simp] theorem State.send_i3cData (pl : Plane) (a b : Endpoint) (y : Payload) : (s.send pl a b y).i3cData = s.i3cData := rfl
@[simp] theorem State.send_jtag (pl : Plane) (a b : Endpoint) (y : Payload) : (s.send pl a b y).jtag = s.jtag := rfl
@[simp] theorem State.send_pins (pl : Plane) (a b : Endpoint) (y : Payload) : (s.send pl a b y).pins = s.pins := rfl

@[simp] theorem State.takePacket_pending (i : Nat) : (s.takePacket i).pending = s.pending := rfl
@[simp] theorem State.takePacket_free (i : Nat) : (s.takePacket i).free = s.free := rfl
@[simp] theorem State.takePacket_opts (i : Nat) : (s.takePacket i).opts = s.opts := rfl
@[simp] theorem State.takePacket_time (i : Nat) : (s.takePacket i).time = s.time := rfl
@[simp] theorem State.takePacket_drs (i : Nat) : (s.takePacket i).drs = s.drs := rfl
@[simp] theorem State.takePacket_em (i : Nat) : (s.takePacket i).em = s.em := rfl
@[simp] theorem State.takePacket_slots (i : Nat) : (s.takePacket i).slots = s.slots := rfl
@[simp] theorem State.takePacket_sectors (i : Nat) : (s.takePacket i).sectors = s.sectors := rfl
@[simp] theorem State.takePacket_cns (i : Nat) : (s.takePacket i).cns = s.cns := rfl
@[simp] theorem State.takePacket_bind (i : Nat) : (s.takePacket i).bind = s.bind := rfl
@[simp] theorem State.takePacket_reports (i : Nat) : (s.takePacket i).reports = s.reports := rfl
@[simp] theorem State.takePacket_repair (i : Nat) : (s.takePacket i).repair = s.repair := rfl
@[simp] theorem State.takePacket_zen (i : Nat) : (s.takePacket i).zen = s.zen := rfl
@[simp] theorem State.takePacket_berm (i : Nat) : (s.takePacket i).berm = s.berm := rfl
@[simp] theorem State.takePacket_bermed (i : Nat) : (s.takePacket i).bermed = s.bermed := rfl
@[simp] theorem State.takePacket_nmus (i : Nat) : (s.takePacket i).nmus = s.nmus := rfl
@[simp] theorem State.takePacket_ports (i : Nat) : (s.takePacket i).ports = s.ports := rfl
@[simp] theorem State.takePacket_links (i : Nat) : (s.takePacket i).links = s.links := rfl

@[simp] theorem State.report_pending (r : Report) : (s.report r).pending = s.pending := rfl
@[simp] theorem State.report_free (r : Report) : (s.report r).free = s.free := rfl
@[simp] theorem State.report_opts (r : Report) : (s.report r).opts = s.opts := rfl
@[simp] theorem State.report_time (r : Report) : (s.report r).time = s.time := rfl
@[simp] theorem State.report_drs (r : Report) : (s.report r).drs = s.drs := rfl
@[simp] theorem State.report_em (r : Report) : (s.report r).em = s.em := rfl
@[simp] theorem State.report_slots (r : Report) : (s.report r).slots = s.slots := rfl
@[simp] theorem State.report_sectors (r : Report) : (s.report r).sectors = s.sectors := rfl
@[simp] theorem State.report_cns (r : Report) : (s.report r).cns = s.cns := rfl
@[simp] theorem State.report_net (r : Report) : (s.report r).net = s.net := rfl
@[simp] theorem State.report_bind (r : Report) : (s.report r).bind = s.bind := rfl
@[simp] theorem State.report_repair (r : Report) : (s.report r).repair = s.repair := rfl
@[simp] theorem State.report_zen (r : Report) : (s.report r).zen = s.zen := rfl
@[simp] theorem State.report_berm (r : Report) : (s.report r).berm = s.berm := rfl
@[simp] theorem State.report_bermed (r : Report) : (s.report r).bermed = s.bermed := rfl
@[simp] theorem State.report_nmus (r : Report) : (s.report r).nmus = s.nmus := rfl
@[simp] theorem State.report_ports (r : Report) : (s.report r).ports = s.ports := rfl
@[simp] theorem State.report_links (r : Report) : (s.report r).links = s.links := rfl

@[simp] theorem State.emPut_pending (st a : Nat) (bs : List Byte) : (s.emPut st a bs).pending = s.pending := rfl
@[simp] theorem State.emPut_free (st a : Nat) (bs : List Byte) : (s.emPut st a bs).free = s.free := rfl
@[simp] theorem State.emPut_opts (st a : Nat) (bs : List Byte) : (s.emPut st a bs).opts = s.opts := rfl
@[simp] theorem State.emPut_time (st a : Nat) (bs : List Byte) : (s.emPut st a bs).time = s.time := rfl
@[simp] theorem State.emPut_drs (st a : Nat) (bs : List Byte) : (s.emPut st a bs).drs = s.drs := rfl
@[simp] theorem State.emPut_slots (st a : Nat) (bs : List Byte) : (s.emPut st a bs).slots = s.slots := rfl
@[simp] theorem State.emPut_sectors (st a : Nat) (bs : List Byte) : (s.emPut st a bs).sectors = s.sectors := rfl
@[simp] theorem State.emPut_cns (st a : Nat) (bs : List Byte) : (s.emPut st a bs).cns = s.cns := rfl
@[simp] theorem State.emPut_net (st a : Nat) (bs : List Byte) : (s.emPut st a bs).net = s.net := rfl
@[simp] theorem State.emPut_bind (st a : Nat) (bs : List Byte) : (s.emPut st a bs).bind = s.bind := rfl
@[simp] theorem State.emPut_reports (st a : Nat) (bs : List Byte) : (s.emPut st a bs).reports = s.reports := rfl
@[simp] theorem State.emPut_repair (st a : Nat) (bs : List Byte) : (s.emPut st a bs).repair = s.repair := rfl
@[simp] theorem State.emPut_zen (st a : Nat) (bs : List Byte) : (s.emPut st a bs).zen = s.zen := rfl
@[simp] theorem State.emPut_berm (st a : Nat) (bs : List Byte) : (s.emPut st a bs).berm = s.berm := rfl
@[simp] theorem State.emPut_bermed (st a : Nat) (bs : List Byte) : (s.emPut st a bs).bermed = s.bermed := rfl
@[simp] theorem State.emPut_nmus (st a : Nat) (bs : List Byte) : (s.emPut st a bs).nmus = s.nmus := rfl
@[simp] theorem State.emPut_ports (st a : Nat) (bs : List Byte) : (s.emPut st a bs).ports = s.ports := rfl
@[simp] theorem State.emPut_links (st a : Nat) (bs : List Byte) : (s.emPut st a bs).links = s.links := rfl

@[simp] theorem State.setSector_pending (n : Nat) (c : Sector) : (s.setSector n c).pending = s.pending := rfl
@[simp] theorem State.setSector_free (n : Nat) (c : Sector) : (s.setSector n c).free = s.free := rfl
@[simp] theorem State.setSector_opts (n : Nat) (c : Sector) : (s.setSector n c).opts = s.opts := rfl
@[simp] theorem State.setSector_time (n : Nat) (c : Sector) : (s.setSector n c).time = s.time := rfl
@[simp] theorem State.setSector_drs (n : Nat) (c : Sector) : (s.setSector n c).drs = s.drs := rfl
@[simp] theorem State.setSector_em (n : Nat) (c : Sector) : (s.setSector n c).em = s.em := rfl
@[simp] theorem State.setSector_slots (n : Nat) (c : Sector) : (s.setSector n c).slots = s.slots := rfl
@[simp] theorem State.setSector_cns (n : Nat) (c : Sector) : (s.setSector n c).cns = s.cns := rfl
@[simp] theorem State.setSector_net (n : Nat) (c : Sector) : (s.setSector n c).net = s.net := rfl
@[simp] theorem State.setSector_bind (n : Nat) (c : Sector) : (s.setSector n c).bind = s.bind := rfl
@[simp] theorem State.setSector_reports (n : Nat) (c : Sector) : (s.setSector n c).reports = s.reports := rfl
@[simp] theorem State.setSector_repair (n : Nat) (c : Sector) : (s.setSector n c).repair = s.repair := rfl
@[simp] theorem State.setSector_zen (n : Nat) (c : Sector) : (s.setSector n c).zen = s.zen := rfl
@[simp] theorem State.setSector_berm (n : Nat) (c : Sector) : (s.setSector n c).berm = s.berm := rfl
@[simp] theorem State.setSector_bermed (n : Nat) (c : Sector) : (s.setSector n c).bermed = s.bermed := rfl
@[simp] theorem State.setSector_nmus (n : Nat) (c : Sector) : (s.setSector n c).nmus = s.nmus := rfl
@[simp] theorem State.setSector_ports (n : Nat) (c : Sector) : (s.setSector n c).ports = s.ports := rfl
@[simp] theorem State.setSector_links (n : Nat) (c : Sector) : (s.setSector n c).links = s.links := rfl

@[simp] theorem State.setCn_pending (n : Nat) (c : CombNode) : (s.setCn n c).pending = s.pending := rfl
@[simp] theorem State.setCn_free (n : Nat) (c : CombNode) : (s.setCn n c).free = s.free := rfl
@[simp] theorem State.setCn_opts (n : Nat) (c : CombNode) : (s.setCn n c).opts = s.opts := rfl
@[simp] theorem State.setCn_time (n : Nat) (c : CombNode) : (s.setCn n c).time = s.time := rfl
@[simp] theorem State.setCn_drs (n : Nat) (c : CombNode) : (s.setCn n c).drs = s.drs := rfl
@[simp] theorem State.setCn_em (n : Nat) (c : CombNode) : (s.setCn n c).em = s.em := rfl
@[simp] theorem State.setCn_slots (n : Nat) (c : CombNode) : (s.setCn n c).slots = s.slots := rfl
@[simp] theorem State.setCn_sectors (n : Nat) (c : CombNode) : (s.setCn n c).sectors = s.sectors := rfl
@[simp] theorem State.setCn_net (n : Nat) (c : CombNode) : (s.setCn n c).net = s.net := rfl
@[simp] theorem State.setCn_bind (n : Nat) (c : CombNode) : (s.setCn n c).bind = s.bind := rfl
@[simp] theorem State.setCn_reports (n : Nat) (c : CombNode) : (s.setCn n c).reports = s.reports := rfl
@[simp] theorem State.setCn_repair (n : Nat) (c : CombNode) : (s.setCn n c).repair = s.repair := rfl
@[simp] theorem State.setCn_zen (n : Nat) (c : CombNode) : (s.setCn n c).zen = s.zen := rfl
@[simp] theorem State.setCn_berm (n : Nat) (c : CombNode) : (s.setCn n c).berm = s.berm := rfl
@[simp] theorem State.setCn_bermed (n : Nat) (c : CombNode) : (s.setCn n c).bermed = s.bermed := rfl
@[simp] theorem State.setCn_nmus (n : Nat) (c : CombNode) : (s.setCn n c).nmus = s.nmus := rfl
@[simp] theorem State.setCn_ports (n : Nat) (c : CombNode) : (s.setCn n c).ports = s.ports := rfl
@[simp] theorem State.setCn_links (n : Nat) (c : CombNode) : (s.setCn n c).links = s.links := rfl

@[simp] theorem State.leaves_pending (t : State) : (s.leaves t).pending = s.pending := rfl
@[simp] theorem State.leaves_free (t : State) : (s.leaves t).free = t.free := rfl
@[simp] theorem State.leaves_opts (t : State) : (s.leaves t).opts = s.opts := rfl
@[simp] theorem State.leaves_time (t : State) : (s.leaves t).time = t.time := rfl
@[simp] theorem State.leaves_drs (t : State) : (s.leaves t).drs = t.drs := rfl
@[simp] theorem State.leaves_drsHeld (t : State) : (s.leaves t).drsHeld = t.drsHeld := rfl
@[simp] theorem State.leaves_inReset (t : State) : (s.leaves t).inReset = t.inReset := rfl
@[simp] theorem State.leaves_phyOff (t : State) : (s.leaves t).phyOff = t.phyOff := rfl
@[simp] theorem State.leaves_em (t : State) : (s.leaves t).em = t.em := rfl
@[simp] theorem State.leaves_badBlocks (t : State) : (s.leaves t).badBlocks = t.badBlocks := rfl
@[simp] theorem State.leaves_slots (t : State) : (s.leaves t).slots = t.slots := rfl
@[simp] theorem State.leaves_sectors (t : State) : (s.leaves t).sectors = t.sectors := rfl
@[simp] theorem State.leaves_cns (t : State) : (s.leaves t).cns = t.cns := rfl
@[simp] theorem State.leaves_net (t : State) : (s.leaves t).net = t.net := rfl
@[simp] theorem State.leaves_bind (t : State) : (s.leaves t).bind = t.bind := rfl
@[simp] theorem State.leaves_cfg (t : State) : (s.leaves t).cfg = t.cfg := rfl
@[simp] theorem State.leaves_ports (t : State) : (s.leaves t).ports = t.ports := rfl
@[simp] theorem State.leaves_links (t : State) : (s.leaves t).links = t.links := rfl
@[simp] theorem State.leaves_nmus (t : State) : (s.leaves t).nmus = t.nmus := rfl
@[simp] theorem State.leaves_rdWait (t : State) : (s.leaves t).rdWait = t.rdWait := rfl
@[simp] theorem State.leaves_hostWait (t : State) : (s.leaves t).hostWait = t.hostWait := rfl
@[simp] theorem State.leaves_hostSend (t : State) : (s.leaves t).hostSend = t.hostSend := rfl
@[simp] theorem State.leaves_hostWaits (t : State) : (s.leaves t).hostWaits = t.hostWaits := rfl
@[simp] theorem State.leaves_nextEntry (t : State) : (s.leaves t).nextEntry = t.nextEntry := rfl
@[simp] theorem State.leaves_haTlb (t : State) : (s.leaves t).haTlb = t.haTlb := rfl
@[simp] theorem State.leaves_linkTlb (t : State) : (s.leaves t).linkTlb = t.linkTlb := rfl
@[simp] theorem State.leaves_xfSeq (t : State) : (s.leaves t).xfSeq = t.xfSeq := rfl
@[simp] theorem State.leaves_xfHeld (t : State) : (s.leaves t).xfHeld = t.xfHeld := rfl
@[simp] theorem State.leaves_hm (t : State) : (s.leaves t).hm = t.hm := rfl
@[simp] theorem State.leaves_remote (t : State) : (s.leaves t).remote = t.remote := rfl
@[simp] theorem State.leaves_asks (t : State) : (s.leaves t).asks = t.asks := rfl
@[simp] theorem State.leaves_got (t : State) : (s.leaves t).got = t.got := rfl
@[simp] theorem State.leaves_xlNet (t : State) : (s.leaves t).xlNet = t.xlNet := rfl
@[simp] theorem State.leaves_missReports (t : State) : (s.leaves t).missReports = t.missReports := rfl
@[simp] theorem State.leaves_leases (t : State) : (s.leaves t).leases = t.leases := rfl
@[simp] theorem State.leaves_reports (t : State) : (s.leaves t).reports = t.reports := rfl
@[simp] theorem State.leaves_haOut (t : State) : (s.leaves t).haOut = t.haOut := rfl
@[simp] theorem State.leaves_i3cIbi (t : State) : (s.leaves t).i3cIbi = t.i3cIbi := rfl
@[simp] theorem State.leaves_passages (t : State) : (s.leaves t).passages = t.passages := rfl
@[simp] theorem State.leaves_nextPid (t : State) : (s.leaves t).nextPid = t.nextPid := rfl
@[simp] theorem State.leaves_rkDue (t : State) : (s.leaves t).rkDue = t.rkDue := rfl
@[simp] theorem State.leaves_rtMode (t : State) : (s.leaves t).rtMode = t.rtMode := rfl
@[simp] theorem State.leaves_windowed (t : State) : (s.leaves t).windowed = t.windowed := rfl
@[simp] theorem State.leaves_grantQ (t : State) : (s.leaves t).grantQ = t.grantQ := rfl
@[simp] theorem State.leaves_rises (t : State) : (s.leaves t).rises = t.rises := rfl
@[simp] theorem State.leaves_drawn (t : State) : (s.leaves t).drawn = t.drawn := rfl
@[simp] theorem State.leaves_zen (t : State) : (s.leaves t).zen = t.zen := rfl
@[simp] theorem State.leaves_repair (t : State) : (s.leaves t).repair = t.repair := rfl
@[simp] theorem State.leaves_log (t : State) : (s.leaves t).log = t.log := rfl
@[simp] theorem State.leaves_nv (t : State) : (s.leaves t).nv = t.nv := rfl
@[simp] theorem State.leaves_ledger (t : State) : (s.leaves t).ledger = t.ledger := rfl
@[simp] theorem State.leaves_life (t : State) : (s.leaves t).life = t.life := rfl
@[simp] theorem State.leaves_lifeKept (t : State) : (s.leaves t).lifeKept = t.lifeKept := rfl
@[simp] theorem State.leaves_batchAt (t : State) : (s.leaves t).batchAt = t.batchAt := rfl
@[simp] theorem State.leaves_batchSeq (t : State) : (s.leaves t).batchSeq = t.batchSeq := rfl
@[simp] theorem State.leaves_keptSeq (t : State) : (s.leaves t).keptSeq = t.keptSeq := rfl
@[simp] theorem State.leaves_lostTail (t : State) : (s.leaves t).lostTail = t.lostTail := rfl
@[simp] theorem State.leaves_bermDone (t : State) : (s.leaves t).bermDone = t.bermDone := rfl
@[simp] theorem State.leaves_bermSeen (t : State) : (s.leaves t).bermSeen = t.bermSeen := rfl
@[simp] theorem State.leaves_berm (t : State) : (s.leaves t).berm = t.berm := rfl
@[simp] theorem State.leaves_bermed (t : State) : (s.leaves t).bermed = false := rfl
@[simp] theorem State.leaves_haWire (t : State) : (s.leaves t).haWire = t.haWire := rfl
@[simp] theorem State.leaves_haCredits (t : State) : (s.leaves t).haCredits = t.haCredits := rfl
@[simp] theorem State.leaves_nprIn (t : State) : (s.leaves t).nprIn = t.nprIn := rfl
@[simp] theorem State.leaves_nextTag (t : State) : (s.leaves t).nextTag = t.nextTag := rfl
@[simp] theorem State.leaves_puts (t : State) : (s.leaves t).puts = t.puts := rfl
@[simp] theorem State.leaves_nextPut (t : State) : (s.leaves t).nextPut = t.nextPut := rfl
@[simp] theorem State.leaves_hcache (t : State) : (s.leaves t).hcache = t.hcache := rfl
@[simp] theorem State.leaves_hostRes (t : State) : (s.leaves t).hostRes = t.hostRes := rfl
@[simp] theorem State.leaves_hostStart (t : State) : (s.leaves t).hostStart = t.hostStart := rfl
@[simp] theorem State.leaves_i3cAddr (t : State) : (s.leaves t).i3cAddr = t.i3cAddr := rfl
@[simp] theorem State.leaves_i3cData (t : State) : (s.leaves t).i3cData = t.i3cData := rfl
@[simp] theorem State.leaves_jtag (t : State) : (s.leaves t).jtag = t.jtag := rfl
@[simp] theorem State.leaves_pins (t : State) : (s.leaves t).pins = t.pins := rfl

/-! ## Registers -/

theorem State.rd_wr (a b : Nat) (v : Word) : (s.wr a v).rd b = if b = a then v else s.rd b := sget_sset ..
@[simp] theorem State.rd_wr_same (a : Nat) (v : Word) : (s.wr a v).rd a = v := by simp [State.rd_wr]
theorem State.rd_wr_ne {a b : Nat} (v : Word) (h : b ≠ a) : (s.wr a v).rd b = s.rd b := by simp [State.rd_wr, h]
theorem State.rd_setFld_ne {a b : Nat} (f : Fld) (v : Nat) (h : b ≠ a) : (s.setFld a f v).rd b = s.rd b := s.rd_wr_ne _ h
theorem State.rd_setFld_same (a : Nat) (f : Fld) (v : Nat) : (s.setFld a f v).rd a = putF (s.rd a) f v := by simp [State.setFld]
theorem State.fld_setFld_ne {a b : Nat} (f g : Fld) (v : Nat) (h : b ≠ a) : (s.setFld a f v).fld b g = s.fld b g := by
  simp [State.fld, s.rd_setFld_ne f v h]
/-- A field reads as the low bits set. -/
theorem State.fld_setFld_same (a : Nat) (f : Fld) (v : Nat) (h : f.lo + f.len ≤ 64) :
    (s.setFld a f v).fld a f = v % 2 ^ f.len := by
  rw [State.fld, State.rd_setFld_same, getF_putF _ _ _ h]
/-- Another field of the register reads as before. -/
theorem State.fld_setFld_apart (a : Nat) (f g : Fld) (v : Nat) (h : f.lo + f.len ≤ 64) (hg : f.apart g = true) :
    (s.setFld a f v).fld a g = s.fld a g := by
  rw [State.fld, State.rd_setFld_same, getF_putF_apart _ _ _ _ h hg, State.fld]

@[simp] theorem State.rd_setSlot (k : Nat) (c : Slot) (b : Nat) : (s.setSlot k c).rd b = s.rd b := rfl
@[simp] theorem State.rd_modSlot (k : Nat) (f : Slot → Slot) (b : Nat) : (s.modSlot k f).rd b = s.rd b := rfl
@[simp] theorem State.rd_setQueue (k : Nat) (q : QSel) (v : Queue) (b : Nat) : (s.setQueue k q v).rd b = s.rd b := rfl
@[simp] theorem State.rd_send (pl : Plane) (x y : Endpoint) (z : Payload) (b : Nat) : (s.send pl x y z).rd b = s.rd b := rfl
@[simp] theorem State.rd_takePacket (i b : Nat) : (s.takePacket i).rd b = s.rd b := rfl
@[simp] theorem State.rd_report (r : Report) (b : Nat) : (s.report r).rd b = s.rd b := rfl
@[simp] theorem State.rd_emPut (st a : Nat) (bs : List Byte) (b : Nat) : (s.emPut st a bs).rd b = s.rd b := rfl
@[simp] theorem State.rd_leaves (t : State) (b : Nat) : (s.leaves t).rd b = t.rd b := rfl
@[simp] theorem State.fld_leaves (t : State) (b : Nat) (f : Fld) : (s.leaves t).fld b f = t.fld b f := rfl

/-! ## Units -/

theorem State.slot_setSlot (k j : Nat) (c : Slot) : (s.setSlot k c).slot j = if j = k then c else s.slot j := tget_tput ..
@[simp] theorem State.slot_setSlot_same (k : Nat) (c : Slot) : (s.setSlot k c).slot k = c := by simp [State.slot_setSlot]
theorem State.slot_setSlot_ne {k j : Nat} (c : Slot) (h : j ≠ k) : (s.setSlot k c).slot j = s.slot j := by
  simp [State.slot_setSlot, h]
@[simp] theorem State.slot_modSlot_same (k : Nat) (f : Slot → Slot) : (s.modSlot k f).slot k = f (s.slot k) := by
  simp [State.modSlot]
theorem State.slot_modSlot_ne {k j : Nat} (f : Slot → Slot) (h : j ≠ k) : (s.modSlot k f).slot j = s.slot j :=
  s.slot_setSlot_ne _ h
@[simp] theorem State.slot_wr (a : Nat) (v : Word) (j : Nat) : (s.wr a v).slot j = s.slot j := rfl
@[simp] theorem State.slot_setFld (a : Nat) (f : Fld) (v j : Nat) : (s.setFld a f v).slot j = s.slot j := rfl
@[simp] theorem State.slot_leaves (t : State) (j : Nat) : (s.leaves t).slot j = t.slot j := rfl
theorem State.queue_setQueue (k : Nat) (q : QSel) (v : Queue) : (s.setQueue k q v).queue k q = v := by
  cases q <;> simp [State.queue, State.setQueue, Slot.queue, Slot.setQueue]
theorem State.slot_setQueue_ne {k j : Nat} (q : QSel) (v : Queue) (h : j ≠ k) : (s.setQueue k q v).slot j = s.slot j :=
  s.slot_modSlot_ne _ h

/-! ## Events -/

/-- A command of a block that no berm save has stopped answers what its event leaves. -/
theorem State.act_of_live (f : State → State) (h : s.stopped = false) : s.act f = .next (s.leaves (f s)) := by
  simp [State.act, h]
/-- A stopped block stays as it is. -/
theorem State.act_of_stopped (f : State → State) (h : s.stopped = true) : s.act f = .next s := by
  simp [State.act, h]
/-- The state a command answers keeps the queue and the options. -/
theorem State.act_cases (f : State → State) : ∃ t, s.act f = .next t ∧ t.pending = s.pending ∧ t.opts = s.opts := by
  unfold State.act
  split
  · exact ⟨s, rfl, rfl, rfl⟩
  · exact ⟨_, rfl, rfl, rfl⟩

theorem State.bermed_of_live (h : s.stopped = false) : s.bermed = false := by
  cases hb : s.bermed
  · rfl
  · simp [State.stopped, hb] at h
theorem State.berm_of_live (h : s.stopped = false) : s.berm = none := by
  cases hb : s.berm
  · rfl
  · simp [State.stopped, hb] at h
/-- A state that keeps the queue, the options and `bermed = false` is left as it is. -/
theorem State.leaves_eq (t : State) (h1 : t.pending = s.pending) (h2 : t.opts = s.opts) (h3 : t.bermed = false) : s.leaves t = t := by
  cases t
  simp only at h1 h2 h3
  subst h1 h2 h3
  rfl
@[simp] theorem State.leaves_self (h : s.stopped = false) : s.leaves s = s :=
  s.leaves_eq s rfl rfl (s.bermed_of_live h)

end Sys2Proof.Machine
end

