-- ==== Sys2Proof/Laws/Ops.lean ====
section
/-!
SUPPORT. Laws/Ops.lean: what the shared operations of External Memory, free values and the sluices can do, each said once.
-/

namespace Sys2Proof.Machine

variable (s : State)

/-! ## Free values -/

theorem State.draw_fst : s.draw.1 = Config.freeWord s.free := rfl
/-- Drawing a free value advances the counter and nothing else. -/
@[simp] theorem State.draw_snd : s.draw.2 = { s with free := s.free + 1 } := rfl

/-! ## Events that need blocks of External Memory (11 R297, R304) -/

/-- Within an event that waits for blocks nothing more occurs. -/
theorem State.overEm_of_waiting (f : State → State) (h : s.asks ≠ []) : s.overEm f = s := by
  simp [State.overEm, h]
/-- An event that has every block it needs occurs, and the blocks that it used are gone. -/
theorem State.overEm_of_had (f : State → State) (h : s.asks = []) (hf : (f s).asks = []) : s.overEm f = (f s).blocksUsed := by
  simp [State.overEm, h, hf, State.blocksUsed]
/-- An event that lacks blocks asks for them and does nothing else. -/
theorem State.overEm_of_lacking (f : State → State) (h : s.asks = []) (hf : (f s).asks ≠ []) :
    s.overEm f = (f s).asks.foldl State.postAsk s := by
  simp [State.overEm, h, hf]
/-- What an event over External Memory can do. -/
theorem State.overEm_cases (f : State → State) :
    (s.asks ≠ [] ∧ s.overEm f = s) ∨ (s.asks = [] ∧ (f s).asks = [] ∧ s.overEm f = (f s).blocksUsed) ∨
      (s.asks = [] ∧ (f s).asks ≠ [] ∧ s.overEm f = (f s).asks.foldl State.postAsk s) := by
  by_cases h : s.asks = []
  · by_cases hf : (f s).asks = []
    · exact .inr (.inl ⟨h, hf, s.overEm_of_had f h hf⟩)
    · exact .inr (.inr ⟨h, hf, s.overEm_of_lacking f h hf⟩)
  · exact .inl ⟨h, s.overEm_of_waiting f h⟩
/-- A unit that reads while its event waits already reads nothing. -/
theorem State.emLoad_of_waiting (cls pa n : Nat) (h : s.asks ≠ []) : s.emLoad cls pa n = (0, List.replicate n 0, s) := by
  simp [State.emLoad, h]
/-- A block that has come is what a unit reads, and counts as used. -/
theorem State.blockRead_of_got (cls p blk : Nat) (g : Got) (hd : s.behind (.port p) = false) (hw : (s.port p).writing blk = false)
    (hg : s.got.find? (fun (x : Got) => x.stack == p && x.blk == blk) = some g) :
    s.blockRead cls p blk = (g.status, g.bytes, { s with got := s.got.map (fun (x : Got) =>
      if x.stack = p ∧ x.blk = blk then { x with used := true } else x) }) := by
  simp [State.blockRead, hd, hw, hg]

/-! ## Sluices, freezes and lost halves (16 R422, 17 R444, R450) -/

/-- A sluice holds nothing on the reply plane: only a freeze or a lost half does. -/
theorem State.held_reply (p : Packet) (h : p.plane = .reply) : s.held p = (s.frozenSlot (s.polderOf p.dst) || s.cutOff p) := by
  simp [State.held, h]
/-- What nothing holds, with nothing ahead of it that must arrive first, arrives. -/
theorem State.arrival_of_free (i : Nat) (p : Packet) (hp : s.net[i]? = some p) (hh : s.held p = false)
    (ha : (s.net.take i).any (fun q => s.ahead q p) = false) : s.arrival i = some p := by
  simp only [State.arrival, hp, hh, ha, Bool.or_self, Bool.false_eq_true, if_false]
/-- What arrives is not held. -/
theorem State.arrival_held {i : Nat} {p : Packet} (h : s.arrival i = some p) : s.net[i]? = some p ∧ s.held p = false := by
  unfold State.arrival at h
  split at h
  · cases h
  · rename_i q hq
    split at h
    · cases h
    · rename_i hn
      cases h
      simp only [Bool.or_eq_true, not_or, Bool.not_eq_true] at hn
      exact ⟨hq, hn.1⟩
/-- A packet that is not cut off arrives as its command says. -/
theorem State.crossing_of_whole (i : Nat) (f : State → State) (h : s.lostCrossing i = none) : s.crossing i f = f s := by
  simp [State.crossing, h]

/-! ## Register accesses (01 R20, R21, 17 R448) -/

/-- A write of a register that the macro does not have does nothing. -/
theorem State.onReg_of_unfitted (off : Nat) (c : Instr) (f : State → State) (h : s.fitted off = false) : s.onReg off c f = s := by
  simp [State.onReg, h]
/-- What a write of a unit's register can do. -/
theorem State.onReg_cases (off : Nat) (c : Instr) (f : State → State) :
    (s.fitted off = true ∧ s.reach off = .ok ∧ s.onReg off c f = f s) ∨
      ((s.fitted off = false ∨ s.reach off = .closed) ∧ s.onReg off c f = s) ∨
      (s.fitted off = true ∧ s.reach off = .wait ∧ s.onReg off c f = s.holdDrs off c) := by
  cases hf : s.fitted off <;> cases hr : s.reach off <;> simp [State.onReg, hf, hr]

end Sys2Proof.Machine
end

