-- ==== Sys2Proof/Laws/Step.lean ====
section
/-!
SUPPORT. Laws/Step.lean: what a command and a step can do, said once.
-/

namespace Sys2Proof.Machine

/-- What a command's meaning makes of a block that no berm save has stopped. -/
def eventOf : Instr → State → State
  | .resetN b, t => t.coldReset b
  | .warmN b, t => t.warmPin b
  | .warm b, t => t.warmReset 2 b
  | .bootGo b, t => t.bootGo b
  | .pwrFailN mv, t => t.pwrFail mv
  | .vinLow mv pwr, t => t.vinLow mv pwr
  | .vkeepLow v, t => t.vkeepLow v
  | .vinWarn mv, t => t.vinWarn mv
  | .vinRecover mv, t => t.vinRecover mv
  | .thermTrip n, t => t.thermTrip n
  | .pmbAlertN addr status, t => t.pmbAlert addr status
  | .pmbusPoll answers, t => t.pmbPoll answers
  | .tbRefclkLost, t => t.tbLost
  | .tbRefclkReturn, t => t.tbReturn
  | .phyRefclkLost, t => t.phyLost
  | .haClkStart, t => t.haClkStart
  | .trstN, t => t.jtagReset
  | .bypass, t => t.jtagBypass
  | .idcode, t => t.jtagIdcode
  | .samplePreload pins cells, t => t.jtagSample pins cells
  | .extest pins cells, t => t.jtagExtest pins cells
  | .entdaa addr, t => t.entdaa addr
  | .setdasa static addr, t => t.setdasa static addr
  | .i3cRead off, t => t.i3cRead off
  | .i3cWrite off v b, t => t.i3cWrite off v b
  | .registerWrite who off bytes b, t => t.registerWrite who off bytes b
  | .numStatClear k v, t => t.onReg (Reg.NUM_STAT k) (.numStatClear k v) (fun t => t.slotWrite k 0x1000 (-1) v)
  | .scoutWrite r v, t => t.scoutWrite r v
  | .instruction k h u, t => (t.upset k noNmu u).instruction k h
  | .swi k on, t => t.onReg (Reg.CC_CTL k) (.swi k on) (fun t => t.setFld (Reg.CC_CTL k) F.CC_CTL_SWI (b01 on))
  | .timerInterrupt k, t => t.timerReach k
  | .ncxIssue k h, t => t.ncxIssue k h (fun _ => true)
  | .ncxXdone k h, t => t.ncxDone k h .xq
  | .ncxFdone k h, t => t.ncxDone k h .fq
  | .ncxWaitq k h, t => t.ncxWaitq k h
  | .ncxThalt k h, t => t.ncxThalt k h
  | .ncxXres k h, t => t.ncxXres k h
  | .ncxHret k h, t => t.ncxHret k h
  | .ncxKend k h, t => t.ncxKend k h
  | .handlerDispatch k, t => t.dispatch k
  | .spillRefill k fq, t => t.refill k (qOf fq)
  | .commandComplete k fq ticket, t => t.complete k (qOf fq) ticket
  | .go k, t => t.onReg (Reg.KL_CTL k) (.go k) (fun t => t.goWrite k)
  | .kernelStart k, t => t.kernelStart k
  | .kernelCommit k, t => t.commit k
  | .abort k, t => t.onReg (Reg.KL_CTL k) (.abort k) (fun t => t.abort k)
  | .halt k on, t => t.onReg (Reg.TILE_CTL k) (.halt k on) (fun t => t.tileHalt k on)
  | .haltComplete k ps, t => t.haltDone k ps
  | .save k u, t => t.onReg (Reg.TILE_CTL k) (.save k u) (fun t => (t.upset k noNmu u).startSave k false)
  | .restore k, t => t.onReg (Reg.TILE_CTL k) (.restore k) (fun t => t.startRestore k false)
  | .saveRestoreDone k, t => t.srDone k
  | .vrRegSave k u, t => t.onReg (Reg.VR_SAVE k) (.vrRegSave k u) (fun t => (t.upset k noNmu u).startVrSave k true false)
  | .vrRegRestore k, t => t.onReg (Reg.VR_SAVE k) (.vrRegRestore k) (fun t => t.startVrSave k false true)
  | .ldl k u, t => (t.upset k noNmu u).runCmd k isLdl (orFormat (· == 0x10) (ldlEffect k))
  | .mopz k u, t => (t.upset k noNmu u).runCmd k (· == 0x20) (mopEffect k true)
  | .mop k u, t => (t.upset k noNmu u).runCmd k (· == 0x21) (mopEffect k false)
  | .asw k, t => t.runCmd k (· == 0x24) (aswEffect k)
  | .drn k u, t => (t.upset k noNmu u).runCmd k (· == 0x25) (drnEffect k)
  | .alay k, t => t.runCmd k (· == 0x26) (alayEffect k)
  | .lfree k, t => t.runCmd k (· == 0x27) (lfreeEffect k)
  | .wpt k h, t => t.ncxIssue k h (fun c => opcode c == 0x90)
  | .passMarker k, t => t.passMarker k
  | .twaitXq k, t => t.twait k .xq 0x91
  | .twaitFq k, t => t.twait k .fq 0x96
  | .relXq k, t => t.rel k .xq 0x92
  | .relFq k, t => t.rel k .fq 0x93
  | .acqXq k, t => match t.takeHead k .xq (· == 0x94) with | some (e, _) => if t.acqWaits k e then t else t.acq k .xq 0x94 | none => t.acq k .xq 0x94
  | .acqFq k, t => t.acq k .fq 0x95
  | .relSignal k fq, t => t.relSignal k (qOf fq)
  | .tallySignal i, t => t.crossing i (fun t => t.tallySignal i)
  | .wordSignal i, t => t.crossing i (fun t => t.wordSignal i)
  | .acqSpPoll k fq, t => t.acqSpPoll k (qOf fq)
  | .acqEmPoll k fq, t => t.acqEmPoll k (qOf fq)
  | .walkRetry k fq, t => t.walkRetry k (qOf fq)
  | .vsAdd k u, t => (t.upset k noNmu u).runCmd k isVsAdd (vsEffect k)
  | .vsSub k u, t => (t.upset k noNmu u).runCmd k (· == 0x41) (vsEffect k)
  | .vsMul k u, t => (t.upset k noNmu u).runCmd k (· == 0x42) (vsEffect k)
  | .vsFma k u, t => (t.upset k noNmu u).runCmd k (· == 0x43) (vsEffect k)
  | .vsMin k u, t => (t.upset k noNmu u).runCmd k (· == 0x44) (vsEffect k)
  | .vsMax k u, t => (t.upset k noNmu u).runCmd k (· == 0x45) (vsEffect k)
  | .vsAbs k u, t => (t.upset k noNmu u).runCmd k (· == 0x46) (vsEffect k)
  | .vsNeg k u, t => (t.upset k noNmu u).runCmd k (· == 0x47) (vsEffect k)
  | .vsDiv k u, t => (t.upset k noNmu u).runCmd k (· == 0x48) (vsEffect k)
  | .vsSqrt k u, t => (t.upset k noNmu u).runCmd k (· == 0x49) (vsEffect k)
  | .vsExp2 k u, t => (t.upset k noNmu u).runCmd k (· == 0x4A) (vsEffect k)
  | .vsLog2 k u, t => (t.upset k noNmu u).runCmd k (· == 0x4B) (vsEffect k)
  | .vsCmp k u, t => (t.upset k noNmu u).runCmd k (· == 0x4C) (vsEffect k)
  | .vsSel k u, t => (t.upset k noNmu u).runCmd k (· == 0x4D) (vsEffect k)
  | .vsLogic k u, t => (t.upset k noNmu u).runCmd k (· == 0x4E) (vsEffect k)
  | .vsCvt k u, t => (t.upset k noNmu u).runCmd k (· == 0x4F) (vsEffect k)
  | .vsCompress k u, t => (t.upset k noNmu u).runCmd k (· == 0x50) (vsEffect k)
  | .vsExpand k u, t => (t.upset k noNmu u).runCmd k (· == 0x51) (vsEffect k)
  | .vsRed k u, t => (t.upset k noNmu u).runCmd k (· == 0x52) (vsEffect k)
  | .vsLacc k u, t => (t.upset k noNmu u).runCmd k (· == 0x53) (vsEffect k)
  | .vsLrnd k u, t => (t.upset k noNmu u).runCmd k (· == 0x54) (vsEffect k)
  | .vsMov k u, t => (t.upset k noNmu u).runCmd k (· == 0x55) (vsEffect k)
  | .vsSlice k u, t => (t.upset k noNmu u).runCmd k (· == 0x58) (sliceEffect k)
  | .vsRecomb k u, t => (t.upset k noNmu u).runCmd k (· == 0x59) (recombEffect k)
  | .vsSumat k, t => t.runCmd k (· == 0x5A) (sumatEffect k)
  | .vrAdd k u, t => (t.upset k noNmu u).runCmd k isVrAdd (vrEffect k)
  | .vrSub k u, t => (t.upset k noNmu u).runCmd k (· == 0x61) (vrEffect k)
  | .vrMul k u, t => (t.upset k noNmu u).runCmd k (· == 0x62) (vrEffect k)
  | .vrFma k u, t => (t.upset k noNmu u).runCmd k (· == 0x63) (vrEffect k)
  | .vrMin k u, t => (t.upset k noNmu u).runCmd k (· == 0x64) (vrEffect k)
  | .vrMax k u, t => (t.upset k noNmu u).runCmd k (· == 0x65) (vrEffect k)
  | .vrAbs k u, t => (t.upset k noNmu u).runCmd k (· == 0x66) (vrEffect k)
  | .vrNeg k u, t => (t.upset k noNmu u).runCmd k (· == 0x67) (vrEffect k)
  | .vrDiv k u, t => (t.upset k noNmu u).runCmd k (· == 0x68) (vrEffect k)
  | .vrSqrt k u, t => (t.upset k noNmu u).runCmd k (· == 0x69) (vrEffect k)
  | .vrExp2 k u, t => (t.upset k noNmu u).runCmd k (· == 0x6A) (vrEffect k)
  | .vrLog2 k u, t => (t.upset k noNmu u).runCmd k (· == 0x6B) (vrEffect k)
  | .vrCmp k u, t => (t.upset k noNmu u).runCmd k (· == 0x6C) (vrEffect k)
  | .vrSel k u, t => (t.upset k noNmu u).runCmd k (· == 0x6D) (vrEffect k)
  | .vrLogic k u, t => (t.upset k noNmu u).runCmd k (· == 0x6E) (vrEffect k)
  | .vrCvt k u, t => (t.upset k noNmu u).runCmd k (· == 0x6F) (vrEffect k)
  | .vrCompress k u, t => (t.upset k noNmu u).runCmd k (· == 0x70) (vrEffect k)
  | .vrExpand k u, t => (t.upset k noNmu u).runCmd k (· == 0x71) (vrEffect k)
  | .vrRed k u, t => (t.upset k noNmu u).runCmd k (· == 0x72) (vrEffect k)
  | .vrLacc k u, t => (t.upset k noNmu u).runCmd k (· == 0x73) (vrEffect k)
  | .vrLrnd k u, t => (t.upset k noNmu u).runCmd k (· == 0x74) (vrEffect k)
  | .vrMov k u, t => (t.upset k noNmu u).runCmd k (· == 0x75) (vrEffect k)
  | .vrSlice k u, t => (t.upset k noNmu u).runCmd k (· == 0x78) (sliceEffect k)
  | .vrRecomb k u, t => (t.upset k noNmu u).runCmd k (· == 0x79) (recombEffect k)
  | .vrLd k u, t => (t.upset k noNmu u).runCmd k (· == 0x7C) (vrLdEffect k)
  | .vrSt k u, t => (t.upset k noNmu u).runCmd k (· == 0x7D) (vrStEffect k)
  | .chArm k, t => t.runChart k isChArm (fun t e r => if opcode e.word = 0x80 then t.chArm k e r else t.failCmd k .fq e r 0x80)
  | .chRearm k, t => t.runChart k (· == 0x81) (fun t e r => t.chRearm k e r)
  | .chHalt k, t => t.runChart k (· == 0x82) (fun t e r => t.chHalt k e r)
  | .chResume k, t => t.runChart k (· == 0x83) (fun t e r => t.chResume k e r)
  | .chCredit k, t => t.runChart k (· == 0x84) (fun t e r => t.chCredit k e r)
  | .convoyCredit i, t => t.crossing i (fun t => t.creditArrival i)
  | .tokenGain k i, t => t.gainToken k i
  | .transferIssue k u, t => (t.upset k noNmu u).fetchStep k
  | .landing i, t => t.crossing i (fun t => t.land i)
  | .transferAck i, t => t.crossing i (fun t => t.transferAck i)
  | .resume k i, t => t.onReg (Reg.STRM_CTL k i) (.resume k i) (fun t => t.resumeStrm k i true)
  | .cancel k i, t => t.onReg (Reg.STRM_CTL k i) (.cancel k i) (fun t => t.cancelStrm k i)
  | .streamDeadline k i, t => t.strmDeadline k i
  | .msgSend k h, t => t.ncxIssue k h (fun c => opcode c == 0xA0)
  | .msgReply k h, t => t.ncxIssue k h (fun c => opcode c == 0xA1)
  | .shortMulticast k h, t => t.ncxIssue k h (fun c => opcode c == 0xA2 && !mcBulk c)
  | .bulkMulticast k h, t => t.ncxIssue k h (fun c => opcode c == 0xA2 && mcBulk c)
  | .bulkPacket k u, t => (t.upset k noNmu u).bulkPacket k
  | .memberAck i, t => t.crossing i (fun t => t.memberAck i)
  | .msgComb k h, t => t.ncxIssue k h (fun c => opcode c == 0xA3)
  | .requestArrival i, t => t.crossing i (fun t => t.requestArrival i)
  | .replyArrival i, t => t.crossing i (fun t => t.replyArrival i)
  | .admissionAck i, t => t.crossing i (fun t => t.admissionAck i)
  | .refusal i, t => t.crossing i (fun t => t.refusal i)
  | .channelWake i, t => t.crossing i (fun t => t.channelWake i)
  | .channelEnable r v, t => t.chanEnable r v
  | .channelReset r, t => t.chanReset r
  | .arm c, t => t.onReg (Reg.CN_CTL c) (.arm c) (fun t => t.cnArm c)
  | .cnCancel c, t => t.onReg (Reg.CN_CTL c) (.cnCancel c) (fun t => t.cnCancel c 0x02)
  | .contribution c i, t => t.crossing i (fun t => t.contribution c i)
  | .resultAck i, t => t.crossing i (fun t => t.resultAck i)
  | .uzodalFrame p frame, t => t.rxFrame p frame
  | .txFrame p, t => t.txFrame p
  | .memoryRequest i, t => t.crossing i (fun t => t.memoryRequest i)
  | .parityDelta i, t => t.crossing i (fun t => t.parityDelta i)
  | .rebuildDone p j, t => t.rebuildDone p j
  | .scrub p, t => t.scrubStep p
  | .trainingDone p ok badRx badTx, t => t.trainingDone p ok badRx badTx
  | .laneSwap r tx lane, t => t.anyLaneSwap r tx lane
  | .mpLose p, t => t.onReg (Reg.MP_CTL p) (.mpLose p) (fun t => t.loseMp p)
  | .mpRetrain p, t => t.onReg (Reg.MP_CTL p) (.mpRetrain p) (fun t => t.retrainMp p)
  | .walkComplete k i, t => t.walkDone k i
  | .xlInv v, t => t.xlInvWrite (putF v F.XL_INV_GO 1)
  | .invalidationDone, t => t.invDone
  | .xfRingEnable v, t => t.xfRingWrite v
  | .xfRp rp, t => t.xfRpWrite rp
  | .stage n m u, t => (t.nmuUpset n u).nmuRun n 0x01 m
  | .mv n m u, t => (t.nmuUpset n u).nmuRun n 0x10 m
  | .sgd n m u, t => (t.nmuUpset n u).nmuRun n 0x20 m
  | .emb n m u, t => (t.nmuUpset n u).nmuRun n 0x21 m
  | .scan n m u, t => (t.nmuUpset n u).nmuRun n 0x22 m
  | .cvt n m u, t => (t.nmuUpset n u).nmuRun n 0x30 m
  | .ired n m u, t => (t.nmuUpset n u).nmuRun n 0x31 m
  | .gather n m u, t => (t.nmuUpset n u).nmuRun n 0x40 m
  | .scatter n m u, t => (t.nmuUpset n u).nmuRun n 0x41 m
  | .tagres n, t => t.tagres n
  | .tagret n, t => t.tagret n
  | .nmuComplete n tag, t => t.nmuComplete n tag
  | .scoutReport i, t => t.crossing i (fun t => t.scoutReport i)
  | .abortFleet n fleet, t => t.onReg (Reg.NMU_CTL n) (.abortFleet n fleet) (fun t => (t.setFld (Reg.NMU_CTL n) F.NMU_CTL_FLEET fleet).abortFleet n fleet)
  | .abortTag n tag, t => t.onReg (Reg.NMU_CTL n) (.abortTag n tag) (fun t => (t.setFld (Reg.NMU_CTL n) F.NMU_CTL_TAG tag).abortTag n tag)
  | .contribSend n e, t => t.contribSend n e
  | .contrib i, t => t.crossing i (fun t => t.redContrib i)
  | .result i, t => t.crossing i (fun t => t.redResult i)
  | .filicFrame l fec frame, t => t.filicFrame l (frame ++ fec)
  | .rdWake e, t => t.onReg (Reg.RD_STAT e) (.rdWake e) (fun t => t.rdWake e)
  | .flTrainingDone l ok node badRx badTx, t => t.flTrainingDone l ok node badRx badTx
  | .flLose l, t => t.onReg (Reg.FL_CTL l) (.flLose l) (fun t => t.loseFl l)
  | .flRetrain l, t => t.onReg (Reg.FL_CTL l) (.flRetrain l) (fun t => t.retrainFl l)
  | .admitPassage, t => t.rkCommand State.admitPassage
  | .release pid, t => t.rkCommand (fun t => t.release pid)
  | .runDeadline q, t => t.runDeadline q
  | .rt on, t => t.rtWrite on
  | .paceWindow n meas tj, t => t.paceWindow n meas tj
  | .sagClear n, t => t.paceWrite n (putF 0 F.PACE_P_SAG 1)
  | .paceLost n, t => t.quarantine n 3
  | .grantRequest n classes, t => t.grantRequest n classes
  | .grant, t => t.grant
  | .grantRelease n classes, t => t.grantRelease n classes
  | .load, t => t.znLoad
  | .loadComplete src, t => t.znLoaded src
  | .apply, t => t.znApply
  | .stageWarm, t => t.znStage
  | .znAbort, t => t.znAbort
  | .discard, t => t.znDiscard
  | .sluiceClosure, t => t.sluiceClose
  | .sluice, t => t.sluice
  | .drainOverrun, t => t.drainOverrun
  | .deferredChangeResume, t => t.zenResume
  | .relieve id, t => t.relieve id
  | .copyPassDone, t => t.copyPassDone
  | .reliefCommit, t => t.reliefCommit
  | .sound n, t => t.sound n
  | .soundingRotation sec polder, t => t.soundingRotation sec polder
  | .soundingRetry i, t => t.soundingRetry i
  | .soundingDone n found, t => t.soundingDone n found
  | .quarantine n, t => t.quarantineCmd n
  | .unquarantine n, t => t.unquarantine n
  | .dikeTimeout n, t => t.quarantine n 2
  | .repairMapWrite, t => t.repairMapWrite
  | .wearLedger, t => t.wearLedger
  | .logbookRecord i, t => t.logbookRecord i
  | .logbookBatch, t => t.logbookBatch
  | .down a owner sem, t => t.semCommand a .down owner sem
  | .up a owner sem, t => t.semCommand a .up owner sem
  | .init a sem v, t => t.semCommand a (.init v) 0 sem
  | .drsRd owner fleet tag off n, t => t.drsRdCmd owner fleet tag off n
  | .drsWr owner fleet off bytes b, t => t.drsWrCmd owner fleet off bytes b
  | .emRd owner fleet tag addr n, t => t.emRd owner fleet tag addr n
  | .emWr owner fleet addr bytes, t => t.emWr owner fleet addr bytes
  | .hput owner fleet core addr tally bytes, t => t.hput owner fleet core addr tally bytes
  | .flush tag, t => t.flush tag
  | .cpl tag status bytes, t => t.cplIn tag status bytes
  | .hostTimeout tag, t => t.hostTimeout tag
  | .send a, t => t.hostSendGo a
  | .put a, t => t.hostPut a
  | .verify, t => t.fwVerify
  | .restart mask, t => t.fwRestart mask
  | .progKey slot, t => t.otpCmd (otpWord 1 slot 0)
  | .revokeKey slot, t => t.otpCmd (otpWord 2 slot 0)
  | .setDebug, t => t.otpCmd (otpWord 3 0 0)
  | .setMfr v, t => t.otpCmd (otpWord 4 0 v)
  | .phyRefclkReturn, t => t.phyReturn
  | .flTxFrame l, t => t.flTxFrame l
  | .frameDiscarded l fec frame, t => t.frameDiscarded l (frame ++ fec)
  | .hostCoreAccess a addr op evict b, t => t.hostAccess a addr op evict b
  | .outboundCreditReturn pw npr, t => t.creditReturn pw npr
  | .malformedPacket ch op tag parity hdr, t => t.malformed ch op tag parity hdr
  | .vrSaveDone k, t => t.vrSaveDone k

/-- Is a command one that reaches a stopped block (15 R405, R407)? -/
def pierces : Instr → Bool
  | .resetN _ => true
  | .vkeepLow _ => true
  | _ => false

/-- Every command but RESET_N and VKEEP_LOW acts by its event, on a block that is not stopped. -/
theorem exec_eq_act (c : Instr) (s : State) (h : pierces c = false) : exec c s = s.act (eventOf c) := by
  cases c <;> first
    | rfl
    | simp [pierces] at h

theorem exec_resetN (b : BootIn) (s : State) : exec (.resetN b) s = .next (s.framed (s.coldReset b)).fresh := rfl
theorem exec_vkeepLow (v : Nat) (s : State) : exec (.vkeepLow v) s = .next (s.framed (s.vkeepLow v)) := rfl

/-- On a block that is not stopped a command answers the state its event leaves. -/
theorem exec_of_live (c : Instr) (s : State) (h : pierces c = false) (hs : s.stopped = false) :
    exec c s = .next (s.leaves (eventOf c s)) := by
  rw [exec_eq_act c s h, s.act_of_live _ hs]

/-- A step takes the front of the queue, or idles. -/
theorem step_cases {s : State} {r : Host.Outcome State Fault Refusal} (h : step s = r) :
    (s.pending = [] ∧ r = .next s.idle) ∨
    ∃ c cs, s.pending = c :: cs ∧ r = exec c { s with pending := cs } := by
  unfold step at h
  split at h
  · exact .inl ⟨by assumption, h.symm⟩
  · exact .inr ⟨_, _, by assumption, h.symm⟩

end Sys2Proof.Machine
end

