-- ==== Sys2Proof/WellFormed.lean ====
section
/-!
DEFINITION. WellFormed.lean: a command whose operands fit the fields, ports and tables of the spec. Units by number fit by their
types; a packet, a piece of work, a ticket or a unit count is any
number.
-/

namespace Sys2Proof

/-- A number of `n` bits. -/
def fits (n v : Nat) : Bool := decide (v < 2 ^ n)

/-- A length of the host attach port: LEN is 16 bits and holds bytes minus 1 (18 R461). -/
def lenOk (n : Nat) : Bool := decide (1 ≤ n) && decide (n ≤ 2 ^ 16)

/-- A frame on the lanes (11 R288). -/
def frameOk (f : List Byte) : Bool := f.length == 4096
/-- The same in two parts, its FEC and the bytes before it (13 R346). -/
def flFrameOk (fec frame : List Byte) : Bool := fec.length == 128 && frame.length == 3968

/-- A device on the PMBus, with the 16-bit words it answers (18 R481). -/
def pmbAnswer (p : Nat × Nat × Nat × Nat) : Bool := decide (p.1 < 8) && fits 16 p.2.1 && fits 16 p.2.2.1 && fits 16 p.2.2.2

/-- An upset in a word of SRAM: an address, where there is one, in a Tile Store or a pool. -/
def Upset.wf : Upset → Bool
  | .two _ addr => decide (addr.toNat < 2 ^ 40)
  | _ => true

/-- The queue holds 64 commands on chip (07 R181). -/
def psOk (ps : List Partial) : Bool := decide (ps.length ≤ 64)

/-- A training's lanes (11 R286, 13 R344) and the node number received. -/
def Trained.wf (t : Trained) : Bool :=
  t.badRx.all (fun (l : Nat) => decide (l < 34)) && t.badTx.all (fun (l : Nat) => decide (l < 34)) && fits 12 t.node

/-- A sounding's rows and columns of the array (17 R434). -/
def Found.wf (f : Found) : Bool :=
  f.rows.all (fun (l : Nat) => decide (l < 132)) && f.cols.all (fun (l : Nat) => decide (l < 132))

/-- What a reset meets: a boot source (18 R473), millivolts, at most 20 memory and 8 Filic ports, polders. -/
def BootIn.wf (b : BootIn) : Bool :=
  decide (b.src < 4) && fits 16 b.vin && fits 16 b.vkeep && decide (b.mem.length ≤ 20) && decide (b.links.length ≤ 8) &&
  b.mem.all Trained.wf && b.links.all Trained.wf && b.found.all (fun (p : Nat × Found) => decide (p.1 < 100) && p.2.wf)

/-- A host core's access: 1, 2, 4 or 8 bytes (18 R467). -/
def HostOp.wf : HostOp → Bool
  | .load n => n == 1 || n == 2 || n == 4 || n == 8
  | .store bs => bs.length == 1 || bs.length == 2 || bs.length == 4 || bs.length == 8
  | .fetch n => n == 2 || n == 4
  | _ => true

/-- A lane of a memory port, 34 in and 18 out, or of a Filic port, 17 each way, spares included (11 R286, 13 R344). -/
def laneOk (r : PortRef) (tx : Bool) (lane : Nat) : Bool :=
  match r with
  | .mem _ => decide (lane < if tx then 18 else 34)
  | .link _ => decide (lane < 17)

/-- Well-formed commands. -/
def Instr.wf : Instr → Bool
  | .resetN b => b.wf
  | .warmN b => b.wf
  | .warm b => b.wf
  | .bootGo b => b.wf
  | .pwrFailN volts => fits 16 volts
  | .vinLow volts _ => fits 16 volts
  | .vkeepLow volts => fits 16 volts
  | .vinWarn volts => fits 16 volts
  | .vinRecover volts => fits 16 volts
  | .thermTrip _ => true
  | .pmbAlertN addr status => fits 7 addr && fits 16 status
  | .pmbusPoll answers => answers.all pmbAnswer
  | .tbRefclkLost => true
  | .tbRefclkReturn => true
  | .phyRefclkLost => true
  | .haClkStart => true
  | .trstN => true
  | .bypass => true
  | .idcode => true
  | .samplePreload _ _ => true
  | .extest _ _ => true
  | .entdaa addr => fits 7 addr
  | .setdasa static addr => fits 7 static && fits 7 addr
  | .i3cRead off => fits 24 off
  | .i3cWrite off _ b => fits 24 off && b.wf
  | .registerWrite who off bytes b => fits 4 who && fits 26 off && lenOk bytes.length && b.wf
  | .numStatClear _ _ => true
  | .scoutWrite _ v => fits 31 v
  | .instruction _ _ u => u.wf
  | .swi _ _ => true
  | .timerInterrupt _ => true
  | .ncxIssue _ _ => true
  | .ncxXdone _ _ => true
  | .ncxFdone _ _ => true
  | .ncxWaitq _ _ => true
  | .ncxThalt _ _ => true
  | .ncxXres _ _ => true
  | .ncxHret _ _ => true
  | .ncxKend _ _ => true
  | .handlerDispatch _ => true
  | .spillRefill _ _ => true
  | .commandComplete _ _ _ => true
  | .go _ => true
  | .kernelStart _ => true
  | .kernelCommit _ => true
  | .abort _ => true
  | .halt _ _ => true
  | .haltComplete _ ps => psOk ps
  | .save _ u => u.wf
  | .restore _ => true
  | .saveRestoreDone _ => true
  | .vrRegSave _ u => u.wf
  | .vrRegRestore _ => true
  | .ldl _ u => u.wf
  | .mopz _ u => u.wf
  | .mop _ u => u.wf
  | .asw _ => true
  | .drn _ u => u.wf
  | .alay _ => true
  | .lfree _ => true
  | .wpt _ _ => true
  | .passMarker _ => true
  | .twaitXq _ => true
  | .twaitFq _ => true
  | .relXq _ => true
  | .relFq _ => true
  | .acqXq _ => true
  | .acqFq _ => true
  | .relSignal _ _ => true
  | .tallySignal _ => true
  | .wordSignal _ => true
  | .acqSpPoll _ _ => true
  | .acqEmPoll _ _ => true
  | .walkRetry _ _ => true
  | .vsAdd _ u => u.wf
  | .vsSub _ u => u.wf
  | .vsMul _ u => u.wf
  | .vsFma _ u => u.wf
  | .vsMin _ u => u.wf
  | .vsMax _ u => u.wf
  | .vsAbs _ u => u.wf
  | .vsNeg _ u => u.wf
  | .vsDiv _ u => u.wf
  | .vsSqrt _ u => u.wf
  | .vsExp2 _ u => u.wf
  | .vsLog2 _ u => u.wf
  | .vsCmp _ u => u.wf
  | .vsSel _ u => u.wf
  | .vsLogic _ u => u.wf
  | .vsCvt _ u => u.wf
  | .vsCompress _ u => u.wf
  | .vsExpand _ u => u.wf
  | .vsRed _ u => u.wf
  | .vsLacc _ u => u.wf
  | .vsLrnd _ u => u.wf
  | .vsMov _ u => u.wf
  | .vsSlice _ u => u.wf
  | .vsRecomb _ u => u.wf
  | .vsSumat _ => true
  | .vrAdd _ u => u.wf
  | .vrSub _ u => u.wf
  | .vrMul _ u => u.wf
  | .vrFma _ u => u.wf
  | .vrMin _ u => u.wf
  | .vrMax _ u => u.wf
  | .vrAbs _ u => u.wf
  | .vrNeg _ u => u.wf
  | .vrDiv _ u => u.wf
  | .vrSqrt _ u => u.wf
  | .vrExp2 _ u => u.wf
  | .vrLog2 _ u => u.wf
  | .vrCmp _ u => u.wf
  | .vrSel _ u => u.wf
  | .vrLogic _ u => u.wf
  | .vrCvt _ u => u.wf
  | .vrCompress _ u => u.wf
  | .vrExpand _ u => u.wf
  | .vrRed _ u => u.wf
  | .vrLacc _ u => u.wf
  | .vrLrnd _ u => u.wf
  | .vrMov _ u => u.wf
  | .vrSlice _ u => u.wf
  | .vrRecomb _ u => u.wf
  | .vrLd _ u => u.wf
  | .vrSt _ u => u.wf
  | .chArm _ => true
  | .chRearm _ => true
  | .chHalt _ => true
  | .chResume _ => true
  | .chCredit _ => true
  | .convoyCredit _ => true
  | .tokenGain _ _ => true
  | .transferIssue _ u => u.wf
  | .landing _ => true
  | .transferAck _ => true
  | .resume _ _ => true
  | .cancel _ _ => true
  | .streamDeadline _ _ => true
  | .msgSend _ _ => true
  | .msgReply _ _ => true
  | .shortMulticast _ _ => true
  | .bulkMulticast _ _ => true
  | .bulkPacket _ u => u.wf
  | .memberAck _ => true
  | .msgComb _ _ => true
  | .requestArrival _ => true
  | .replyArrival _ => true
  | .admissionAck _ => true
  | .refusal _ => true
  | .channelWake _ => true
  | .channelEnable _ _ => true
  | .channelReset _ => true
  | .arm _ => true
  | .cnCancel _ => true
  | .contribution _ _ => true
  | .resultAck _ => true
  | .uzodalFrame _ frame => frameOk frame
  | .txFrame _ => true
  | .memoryRequest _ => true
  | .parityDelta _ => true
  | .rebuildDone _ _ => true
  | .scrub _ => true
  | .trainingDone _ _ badRx badTx => badRx.all (fun (l : Nat) => decide (l < 34)) && badTx.all (fun (l : Nat) => decide (l < 18))
  | .laneSwap r tx lane => laneOk r tx lane
  | .mpLose _ => true
  | .mpRetrain _ => true
  | .walkComplete _ _ => true
  | .xlInv _ => true
  | .invalidationDone => true
  | .xfRingEnable _ => true
  | .xfRp rp => fits 32 rp
  | .stage _ _ u => u.wf
  | .mv _ _ u => u.wf
  | .sgd _ _ u => u.wf
  | .emb _ _ u => u.wf
  | .scan _ _ u => u.wf
  | .cvt _ _ u => u.wf
  | .ired _ _ u => u.wf
  | .gather _ _ u => u.wf
  | .scatter _ _ u => u.wf
  | .tagres _ => true
  | .tagret _ => true
  | .nmuComplete _ tag => tag.all (fits 6)
  | .scoutReport _ => true
  | .abortFleet _ _ => true
  | .abortTag _ tag => fits 16 tag
  | .contribSend _ e => fits 6 e
  | .contrib _ => true
  | .result _ => true
  | .filicFrame _ fec frame => flFrameOk fec frame
  | .rdWake _ => true
  | .flTrainingDone _ _ node badRx badTx => fits 12 node && badRx.all (fun (l : Nat) => decide (l < 17)) && badTx.all (fun (l : Nat) => decide (l < 17))
  | .flLose _ => true
  | .flRetrain _ => true
  | .admitPassage => true
  | .release pid => fits 32 pid
  | .runDeadline _ => true
  | .rt _ => true
  | .paceWindow _ steps tj => fits 14 steps && fits 8 tj
  | .sagClear _ => true
  | .paceLost _ => true
  | .grantRequest _ classes => fits 4 classes
  | .grant => true
  | .grantRelease _ classes => fits 4 classes
  | .load => true
  | .loadComplete src => src.all (fun (l : List Byte) => decide (l.length ≤ 2 ^ 32))
  | .apply => true
  | .stageWarm => true
  | .znAbort => true
  | .discard => true
  | .sluiceClosure => true
  | .sluice => true
  | .drainOverrun => true
  | .deferredChangeResume => true
  | .relieve _ => true
  | .copyPassDone => true
  | .reliefCommit => true
  | .sound _ => true
  | .soundingRotation _ _ => true
  | .soundingRetry _ => true
  | .soundingDone _ found => found.wf
  | .quarantine _ => true
  | .unquarantine _ => true
  | .dikeTimeout _ => true
  | .repairMapWrite => true
  | .wearLedger => true
  | .logbookRecord _ => true
  | .logbookBatch => true
  | .down _ owner _ => fits 7 owner
  | .up _ owner _ => fits 7 owner
  | .init _ _ v => fits 32 v
  | .drsRd _ fleet tag off n => fits 4 fleet && fits 12 tag && fits 64 off && lenOk n
  | .drsWr _ fleet off bytes b => fits 4 fleet && fits 64 off && lenOk bytes.length && b.wf
  | .emRd _ fleet tag addr n => fits 4 fleet && fits 12 tag && fits 64 addr && lenOk n
  | .emWr _ fleet addr bytes => fits 4 fleet && fits 64 addr && lenOk bytes.length
  | .hput _ fleet core addr tally bytes => fits 4 fleet && fits 6 core && fits 64 addr && tally.all (fits 4) && lenOk bytes.length
  | .flush tag => fits 12 tag
  | .cpl tag status bytes => fits 12 tag && fits 8 status && decide (bytes.length ≤ 2 ^ 16)
  | .hostTimeout tag => fits 12 tag
  | .send _ => true
  | .put _ => true
  | .verify => true
  | .restart mask => fits 8 mask
  | .progKey _ => true
  | .revokeKey _ => true
  | .setDebug => true
  | .setMfr v => fits 11 v
  | .phyRefclkReturn => true
  | .flTxFrame _ => true
  | .frameDiscarded _ fec frame => flFrameOk fec frame
  | .hostCoreAccess _ addr op _ b => fits 56 addr && op.wf && b.wf
  | .outboundCreditReturn _ _ => true
  | .malformedPacket ch op tag _ _ => fits 2 ch && fits 8 op && fits 12 tag
  | .vrSaveDone _ => true

end Sys2Proof
end

