-- ==== Sys2Proof/Tests/Slice0.lean ====
section
/-!
SUPPORT. Tests/Slice0.lean: well-formedness smoke tests, small tests on values that the spec writes out, and, for every statement that has
hypotheses, states and operands that meet them. The states are helpers of these tests: small changes of the block after reset.
-/

set_option Elab.async false
set_option maxRecDepth 100000

open Sys2Proof Sys2Proof.Machine

namespace Sys2Proof.Tests

/-- The block with every logical core bound to the slot of its own index (01 R14). -/
def s0 : State := { State.reset with bind := [] }
def k5 : Fin 72 := 5

/-- A reset's inputs: no clock, no flash. -/
def bi : BootIn := ⟨false, 0, false, 1800, 1800, [], none, [], [], [], false⟩

def sBerm : State := { s0 with berm := some ⟨[(0, [1, 2])], [], 7⟩ }
def sBermCheck : State := { s0 with berm := some ⟨[], [(0, [1, 2, 3, 4, 5, 6, 7, 8])], 7⟩ }
def sBermEnd : State := { s0 with berm := some ⟨[], [], 7⟩ }
def sBermed : State := { s0 with bermed := true }
def sQ : State := { s0 with pending := [.asw k5, .grant, .load] }
def sPep : State := s0.wr (Reg.ZN_PEP 99) 1
def sWait : State := (s0.setFld Reg.RST_STAT F.RST_STAT_PHASE 6).setFld Reg.RST_STAT F.RST_STAT_SRC_PIN 1
def sMess : State := { s0 with time := 9, bermDone := 2, drs := [], em := [(7,7)], net := [⟨.data, .attach, .core 5, .put 1 2 [3] none⟩] }

def n5 : Fin 100 := 5
def p1 : Fin 20 := 1
def l1 : Fin 8 := 1
def sWarned : State := { (s0.setFld (Reg.CP_P 5) F.CP_P_GRANT 4) with drawn := [(0, 5, 2)] }
def sHot : State := (sWarned.setFld (Reg.PACE_P 5) F.PACE_P_TJ 125)
def sTrain : State := (((s0.setFld (Reg.MP_STAT 1) F.MP_STAT_STATE 2).setFld (Reg.MP_STAT 2) F.MP_STAT_STATE 1).setFld (Reg.FL_STAT 1) F.FL_STAT_STATE 3)
def sBooted : State := s0.setFld Reg.RST_STAT F.RST_STAT_PHASE 6
def sI3c : State := { s0 with i3cAddr := some 9 }
def sPmb : State := (s0.setFld (Reg.PMB_DEV 3) F.PMB_DEV_EN 1).setFld (Reg.PMB_DEV 3) F.PMB_DEV_ADDR 0x55
def sNum : State := s0.wr (Reg.NUM_STAT 5) 0xE492000100020003
def sShut : State := s0.setFld (Reg.DK_P 5) F.DK_P_STATE 4
/-- A running kernel on slot 5. -/
def sRun : State := s0.setFld (Reg.KL_STAT 5) F.KL_STAT_STATE 2
/-- It has the instruction `w` at pc 0 of both contexts, and 0x1000 as its trap vector where `tv`. -/
def code (w : Nat) (tv : Bool := false) : State := sRun.modSlot 5 (fun c => { c with
  imem := writeBytes zeroByte [] 0 (natLE 4 w)
  hrun := true
  hwait := true
  kl := [0, 0, 0, if tv then 0x100000000000 else 0, 0, 0, 0, 0] })
def sIrq : State := ((code 0x00000013 true).setFld (Reg.CC_CTL 5) F.CC_CTL_SWI 1).modSlot 5 (fun c => { c with csrs := { c.csrs with
  mie := true
  mtvec := 0x101
  mieMask := 0x30088 } })
def sWfi : State := code 0x10500073
def sWfi1 : State := ((code 0x10500073).setFld (Reg.CC_CTL 5) F.CC_CTL_SWI 1).modSlot 5 (fun c => { c with csrs := { c.csrs with mieMask := 8 } })
def sMret : State := (code 0x30200073).modSlot 5 (fun c => { c with csrs := { c.csrs with mepc := 0x40 } })
def regs (s : State) : State := ((s.setX 5 false 1 0x100).setX 5 false 2 0xFFFFFFFFFFFFFFFF).setX 5 true 1 0x108
def sAddi : State := regs (code (encI 0xFFF 1 0 3 0x13))
def sAdd : State := regs (code (encR 0 2 1 0 3 0x33))
def sSub : State := regs (code (encR 0x20 2 1 0 0 0x33))
def sLui : State := regs (code (0xFFFFF * 2 ^ 12 + 3 * 2 ^ 7 + 0x37))
def sLd : State := (regs (code (encI 8 1 3 3 0x03))).tsPut 5 0x108 [1, 2, 3, 4, 5, 6, 7, 8]
def sSd : State := regs (code (encS 8 2 1 3 0x23))
def sIll : State := regs (code 0xFFFFFFFF)
def sIllT : State := regs (code 0xFFFFFFFF true)
/-- NCX.ISSUE of the word with high half `hi` and low half `lo`, in both contexts. -/
def issue (hi lo : Word) (tv : Bool := false) : State :=
  ((((code (ncxWord 2 1 0 3) tv).setX 5 false 1 hi).setX 5 false 2 lo).setX 5 true 1 hi).setX 5 true 2 lo
def cmd (hi lo : Word) : Cmd := hi ++ lo
def sIssue : State := issue 0x2700000000000000 5
def sFull : State := (issue 0x2700000000000000 5).modSlot 5 (fun c => { c with xq := { c.xq with
  onchip := (List.range 64).map (fun i => ⟨i + 1, 0, 0⟩)
  issued := 64 } })
def sNone : State := issue 0x0100000000000000 5 true
def sHand : State := issue 0xA000000000000000 5
def sHand2 : State := issue 0x2700000000000000 5
def sWpt : State := issue 0x9000000000000000 5
def q0 (op : Nat) (t : Nat := 1) (lo : Nat := 0) : Entry := ⟨t, BitVec.ofNat 128 (op * 2 ^ 120 + lo), 0⟩
def ncxS (f : Nat) (r1 r2 : Word) : State := ((((code (ncxWord 2 1 f 3)).setX 5 false 1 r1).setX 5 false 2 r2).setX 5 true 1 r1).setX 5 true 2 r2
def doneS (f : Nat) (r1 r2 : Word) : State := (ncxS f r1 r2).modSlot 5 (fun c => { c with
  xq := { c.xq with done := 6 }
  fq := { c.fq with done := 7 } })
def sStop : State := (doneS 3 9 0).setFld (Reg.XQ_STAT 5) F.XQ_STAT_STOP 1
def sXres (v : Word) : State := ((ncxS 5 v 0).setFld (Reg.XQ_STAT 5) F.XQ_STAT_STOP 1).modSlot 5 (fun c => { c with xq := { c.xq with
  onchip := [q0 0x27 3]
  issued := 3
  done := 2 } })
def sDisp : State := (sRun.modSlot 5 (fun c => { c with
  kl := [0, 0, 0, 0, 0x40, 0, 0, 0]
  hpend := [(2, 0x200), (4, 0x300)] })).tsPut 5 0x200 [9, 8]
def sSpill : State := (sRun.modSlot 5 (fun c => { c with
  kl := [0x10000000000, 0, 0, 0, 0, 0x100000000000, 0, 0]
  xq := { c.xq with
    onchip := [q0 0x27 7]
    ringHead := 254
    ringLen := 3
    issued := 10 } })).tsPut 5 0x1FE0 (natLE 16 (0x24 * 2 ^ 120))
def sWork : State := (sRun.modSlot 5 (fun c => { c with xq := { c.xq with
  inflight := [⟨q0 0x27 3, .working 5⟩, ⟨q0 0x24 4, .done⟩]
  issued := 4
  done := 2 } }))
def sMark : State := (sRun.modSlot 5 (fun c => { c with xq := { c.xq with
  onchip := [⟨4, BitVec.ofNat 128 (0x90 * 2 ^ 120), 9⟩]
  inflight := [⟨q0 0x27 3, .working 5⟩]
  issued := 4
  done := 2 } }))
/-- A command word from (lowest bit, value) pairs, with its opcode. -/
def mk (op : Nat) (l : List (Nat × Nat)) : Cmd := BitVec.ofNat 128 ((l.map (fun p => p.2 * 2 ^ p.1)).sum + op * 2 ^ 120)
def ent (w : Cmd) : Entry := ⟨1, w, 0⟩
/-- The running kernel with a word at the head of its execute queue, or of its fetch queue. -/
def xq (w : Cmd) (s : State := sRun) : State := s.modSlot 5 (fun c => { c with xq := { c.xq with
  onchip := [ent w]
  issued := 1 } })
def fq (w : Cmd) (s : State := sRun) : State := s.modSlot 5 (fun c => { c with fq := { c.fq with
  onchip := [ent w]
  issued := 1 } })
/-- The queue once the head command `e`, with `r` behind it, has made its effect. -/
def aft (r : Queue) (e : Entry) : Nat → Queue := fun n => r.accept e (.working n)
def emptied : Queue := { Queue.empty with issued := 1 }
def sKl : State := { ((((s0.wr (Reg.KL_REC 5 0) 0).wr (Reg.KL_REC 5 2) 0x800000100).wr (Reg.KL_REC 5 4) 0x4000000000).wr (Reg.KL_REC 5 6) 0x70000000000) with
  cfg := { s0.cfg with coreFleet := [(5, 0)] } }
def sBusy : State := sKl.setFld (Reg.KL_STAT 5) F.KL_STAT_STATE 2
def recOf (s : State) : Slot := { s.slot 5 with kl := (List.range 8).map (fun n => s.rd (Reg.KL_REC 5 n)) }
def sLaunched : State := ((sKl.setFld (Reg.KL_STAT 5) F.KL_STAT_STATE 1).modSlot 5 (fun c => { c with
  kl := (recOf sKl).kl
  streams := [(2, Stream.idle)] })).tsPut 5 0x100 [1, 2, 3, 4, 5, 6, 7, 8]
def sEnded : State := (sRun.setFld (Reg.KL_STAT 5) F.KL_STAT_STATE 3).modSlot 5 (fun c => { c with ending := .kend 7 })
def sAborted : State := (sRun.setFld (Reg.KL_STAT 5) F.KL_STAT_STATE 3).modSlot 5 (fun c => { c with
  ending := .stop 2 true
  halt := .halted
  haltByKernel := true })
def sHalting : State := (xq (mk 0x27 [])).modSlot 5 (fun c => { c with halt := .halting })
def sHalted : State := (((xq (mk 0x27 [])).setFld (Reg.TILE_SAVE 5) F.TILE_SAVE_ADDR 0x1000).setFld (Reg.TILE_CTL 5) F.TILE_CTL_HALT 1).modSlot 5 (fun c => { c with
  halt := .halted
  layout := 1
  ofUse := 3
  ofBytes := [(5, 9)] })
/-- A save area with a header to restore from. -/
def sArea : State := sHalted.tsPut 5 0x1000 [2, 0, 2, 1, 0, 0, 0, 0, 7, 0, 0, 0, 0, 0, 0, 0, 5]
def sBusySR : State := ((sHalted.setFld (Reg.TILE_STAT 5) F.TILE_STAT_SR_STATE 1).setFld (Reg.TILE_CTL 5) F.TILE_CTL_HALT 0)
def sBadA : State := sHalted.setFld (Reg.TILE_SAVE 5) F.TILE_SAVE_ADDR 0x1008
def sFarA : State := sHalted.setFld (Reg.TILE_SAVE 5) F.TILE_SAVE_ADDR 0x7C0000
def k0 : Fin 72 := 0
def sVr : State := (s0.setFld (Reg.VR_SAVE 0) F.VR_SAVE_ADDR 0x2000).modSlot 0 (fun c => { c with
  halt := .halted
  v := [(3, 7)]
  ts := [(0x2001, 5)] })
def sVrDone : State := sVr.setFld (Reg.VR_SAVE 0) F.VR_SAVE_STATE 2
/-- MOP over 3 steps: lines 0 on of the Tile Store and of the operand file. -/
def wMop (op : Nat) : Cmd := mk op [(99, 3)]
def sMop (op : Nat) : State := (xq (wMop op)).modSlot 5 (fun c => { c with
  ts := [(0, 3), (1, 255), (128, 2), (256, 5)]
  acc0 := [(1, 7), (128, 9)]
  acc1 := [(5, 5)]
  ofBytes := [(0, 2), (129, 3)] })
def sMopT (t : Nat) : State := sMop t
def sAlay : State := xq (mk 0x26 [(118, 2)])
def wLdl : Cmd := mk 0x10 [(86, 0x80), (76, 3), (65, 2), (46, 1)]
def sLdl : State := (xq wLdl).modSlot 5 (fun c => { c with
  ts := [(128, 4), (129, 5), (256, 6), (390, 1)]
  ofBytes := [(0, 1), (390, 8), (1000, 3)] })
def wLdlT : Cmd := mk 0x10 [(86, 0x80), (76, 128), (65, 128), (64, 1), (46, 1)]
def sLdlT : State := (xq wLdlT).modSlot 5 (fun c => { c with
  ts := [(128, 4), (129, 5), (256, 6), (390, 1)]
  ofBytes := [(0, 1), (390, 8), (1000, 3)] })
def sLfree : State := (xq (mk 0x27 [(54, 5), (118, 1)])).modSlot 5 (fun c => { c with
  ofBytes := [(1, 1), (2048, 2), (4096, 3)]
  acc0 := [(1, 7)]
  acc1 := [(5, 5)] })
/-- DRN of mode `m` and format `f`, over region 0 of layout 2, to 0x1000 with rows of 128 bytes. -/
def wDrn (m f : Nat) : Cmd := mk 0x25 [(118, m), (110, f), (74, 0x1000), (58, 128)]
def sDrn (m f : Nat) : State := (xq (wDrn m f)).modSlot 5 (fun c => { c with
  layout := 2
  ts := [(0x1000, 4), (0x1081, 5)]
  acc0 := [(1, 7), (300, 8)]
  acc1 := [(0, 5), (1, 6), (128, 7), (300, 8)] })
def regL2 : Region := ⟨0, 0, 32, 32⟩
/-- A stream command on INT16, 5 elements at 0x100 and 0x200 and 0x300 to 0x400. -/
def wVs (op : Nat) : Cmd := mk op [(116, 2), (96, 5), (73, 0x400), (50, 0x100), (27, 0x200), (4, 0x300)]
def sVs (op : Nat) : State := (xq (wVs op)).modSlot 5 (fun c => { c with
  ts := [(0x100, 4), (0x101, 0x80), (0x104, 0xFF), (0x105, 0x7F), (0x200, 5), (0x204, 7), (0x206, 1), (0x300, 3), (0x400, 9)] })
def wVr (op : Nat) : Cmd := mk op [(116, 2), (100, 5), (95, 4), (90, 1), (85, 2), (80, 3)]
def xq0 (w : Cmd) : State := (s0.setFld (Reg.KL_STAT 0) F.KL_STAT_STATE 2).modSlot 0 (fun c => { c with
  xq := { c.xq with
    onchip := [ent w]
    issued := 1 }
  v := [(0x200, 3), (0x201, 0x80), (0x404, 7)]
  ts := [(0x100, 4), (0x101, 0x80), (0x104, 0xFF)] })
def sVr0 (op : Nat) : State := xq0 (wVr op)
def wVm (op : Nat) : Cmd := mk op [(116, 2), (100, 5), (95, 4), (30, 0x100), (14, 4)]
def sVm (op : Nat) : State := xq0 (wVm op)
/-- SLICE of 2 lanes of 4 BF16 values, and RECOMB, by a descriptor at 0x1000. -/
def wDesc (op : Nat) : Cmd := mk op [(73, 0x1000)]
def sSlice (op : Nat) : State := ((xq0 (wDesc op)).modSlot 0 (fun c => { c with
  ts := [(0x100, 4), (0x101, 0x40), (0x1001, 1), (0x1005, 4), (0x1010, 16), (0x1014, 4), (0x1016, 2), (0x1017, 2), (0x1018, 0)] }))
def sRecomb (op : Nat) : State := ((xq0 (wDesc op)).modSlot 0 (fun c => { c with
  ts := [(0x1002, 1), (0x1006, 4), (0x1018, 2), (0x1019, 0x71), (0x10000, 5)] }))
def sSumat : State := xq (mk 0x5A [(73, 0x120)])
def sFailMop : State := xq (mk 0x21 [(113, 7)])
def sFailLdl : State := xq (mk 0x10 [(118, 3)])
def sFailDrn : State := xq (mk 0x25 [(110, 7)])
def sFail (op : Nat) : State := xq (mk op [])
def sFailVs : State := xq (mk 0x40 [(116, 15)])
def wTw (op v : Nat) : Cmd := mk op [(116, 3), (0, v)]
def sTwX (v : Nat) : State := (xq (wTw 0x91 v)).wr (Reg.TALLY 5 3) 7
def sTwF (v : Nat) : State := (fq (wTw 0x96 v)).wr (Reg.TALLY 5 3) 7
/-- REL with its signal: 0 none, 1 tally 4, 2 word at 0x40 of space `sp`. -/
def wRel (op sig sp : Nat) : Cmd := mk op [(116, sig), (105, 4), (103, sp), (48, 0x40), (0, 9)]
def wAcqT (op v : Nat) : Cmd := mk op [(112, 3), (0, v)]
def wAcqW (op c : Nat) : Cmd := mk op [(116, c), (64, 0x80), (118, 3)]
def sAcqT (v : Nat) : State := (xq (wAcqT 0x94 v)).wr (Reg.TALLY 5 3) 7
def acqMem (sp v : Nat) (s : State) : State := s.modSlot 5 (fun c => { c with ts := [(0x40, 6), (0x80, 0x40), (0x86, BitVec.ofNat 8 sp), (0x88, BitVec.ofNat 8 v)] })
def sAcqW (v : Nat) : State := acqMem 0 v (xq (wAcqW 0x94 1))
def sAcqF (v : Nat) : State := acqMem 0 v (fq (wAcqW 0x95 2))
/-- Region 0 of External Memory, STRIPED from address 0, and a translation of page 0 to it in every cache. -/
def em (s : State) : State := (s.wr (Reg.MR_BASE 0 0) 0x8000000000000000).wr (Reg.MR_MAP 0 0) 0x1000
def pte0 : Word := 0xBE00000000000000
def tlb0 : List (Nat × List TlbEntry) := [(0, [⟨0, 0, false, pte0⟩])]
/-- Blocks, as (stack, block), that have come from their stacks. -/
def came (l : List (Nat × Nat)) (s : State) : State := { s with
  got := l.map (fun p => ⟨p.1, p.2, 0, s.emBytes p.1 (256 * p.2) 256, false⟩) }
def xl (s : State) : State := { em s with
  sectors := [(0, { Sector.reset with tlb := tlb0 })]
  nmus := [(1, { Nmu.reset with tlb := tlb0 })]
  haTlb := tlb0 }
def inf (q : QSel) (es : List Inflight) (s : State := sRun) : State := s.modSlot 5 (fun c => c.setQueue q { Queue.empty with
  inflight := es
  issued := 1 })
def sRel (op sig sp : Nat) (s : State := sRun) : State := inf (if op = 0x92 then .xq else .fq) [⟨ent (wRel op sig sp), .rel []⟩] s
/-- A packet on its way, and a REL of slot 5 that waits for its acknowledgement. -/
def sSig (b : Payload) (dst : Endpoint) : State := { inf .xq [⟨ent (wRel 0x92 1 0), .relSent 0⟩] with net := [⟨.reply, .core 5, dst, b⟩] }
def sTs : State := sSig (.tallySig 0 0 1 0 4 9) (.core 6)
def sTsC : State := sTs.setFld (Reg.DK_P 6) F.DK_P_STATE 3
def sWs : State := sSig (.wordSig 0 0 1 0 0 0x40 9) (.core 6)
def sWsP : State := sSig (.wordSig 0 0 1 0 1 0x40 9) (.sector 0)
def descOf (sp v : Nat) : List Byte := [0x40, 0, 0, 0, 0, 0, BitVec.ofNat 8 sp, 0, BitVec.ofNat 8 v] ++ List.replicate 23 0
def sHeld (sp v w : Nat) (s : State := sRun) : State := inf .xq [⟨ent (wAcqW 0x94 1), .held w (descOf sp v)⟩] s
def sHeldB : State := (sHeld 1 2 0).setFld (Reg.DK_P 72) F.DK_P_STATE 4
def sHeldU : State := { sHeld 1 2 0 with sectors := [(0, { Sector.reset with bad := [8] })] }
def sEmp : State := sHeld 2 0 0 (xl sRun)
def sEmpG : State := came [(0, 0)] sEmp
def sWalkR : State := inf .xq [⟨ent (wRel 0x92 2 2), .relSent 4⟩] (xl sRun)
/-- A chart header from (byte, value) pairs. -/
def hdr (l : List (Nat × Nat)) : List Byte := (List.range 128).map (fun i => BitVec.ofNat 8 ((l.find? (fun p => p.1 == i)).elim 0 (fun p => p.2)))
def wSrc (n : Nat) : Word := BitVec.ofNat 64 (3 * 2 ^ 60 + n)
def wDst (n : Nat) : Word := BitVec.ofNat 64 (4 * 2 ^ 60 + 2 ^ 58 + n)
def wMove (n : Nat) : Word := BitVec.ofNat 64 (n * 2 ^ 51)
def wStop : Word := 0xF000000000000000
def chart4 (n : Nat) : List Word := [wSrc 0, wDst 0, wMove n, wStop]
def wArm : Cmd := mk 0x80 [(115, 3), (80, 0x1000)]
/-- A chart at 0x1000 of the Tile Store: a local copy of 16 bytes from 0x200 to 0x400, of 4 instructions. -/
def hCopy : List Byte := hdr [(1, 2), (9, 4), (33, 16), (37, 4), (38, 8)]
def sArm (h : List Byte) : State := (fq wArm).tsPut 5 0x1000 (h ++ (chart4 16).flatMap (fun w => natLE 8 w.toNat))
/-- A stream of the chart `h`, about to run it. -/
def strOf (h : List Byte) (st : StreamState) : Stream := { Stream.idle with
  state := st
  insts := chart4 16
  bases := [0x200, 0x400, 0, 0]
  header := h
  deadline := 50 }
def withStr (h : List Byte) (st : StreamState) (s : State := sRun) : State := s.setStrm 5 3 (strOf h st)
def wRearm : Cmd := mk 0x81 [(115, 3), (114, 1), (112, 1), (0, 0x500)]
def wNames (op : Nat) : Cmd := mk op [(91, 1)]
def hConv : List Byte := hdr [(32, 0), (33, 4), (36, 0x46), (37, 4), (38, 8), (42, 1), (44, 2)]
def wCredit (f dc : Nat) : Cmd := mk 0x84 [(119, if dc = 0 then 0 else 1), (113, dc), (108, 3), (107, f), (102, 3), (97, 1)]
def hBound : List Byte := hdr [(1, 2), (9, 4), (33, 8), (37, 4), (38, 8), (46, 2), (48, 9)]
def sCredited (st : StreamState) : State := { withStr hConv st with net := [⟨.reply, .core 7, .core 5, .credit 3 2⟩] }
def sCredO : State := { withStr hConv .running (fq (wCredit 0 6)) with cfg := { s0.cfg with coreFleet := [(5, 0), (6, 0)] } }
def e16 : Emit := ⟨⟨2, 0x200, 0x400, [], 0⟩, 0x200, 0x400, 16, 0⟩
def hdr16 (l : List (Nat × Nat)) : List Byte := hdr (l ++ [(1, 2), (9, 4), (37, 4), (38, 8)])
def hPut : List Byte := hdr16 [(36, 0x46)]
def hFar : List Byte := hdr16 [(32, 0x0C)]
def hPool : List Byte := hdr16 [(32, 1)]
def hFetch : List Byte := hdr16 [(32, 2)]
def hOut : List Byte := hdr16 [(32, 8)]
def pooled (s : State) : State := { s with cfg := { s.cfg with
  poolMiB := [(0, 1)]
  poolOwner := [(0, 0)] } }
def cached (s : State) : State := s.cachePut 0 ⟨0, 2, List.replicate 256 7⟩
/-- Data and acknowledgements on their way to core 5. -/
def sLand (b : Payload) : State := { sRun with net := [⟨.data, .core 7, .core 5, b⟩] }
def out3 (kd : XferKind) : Out := { id := 9, stream := 3, ser := 0, kind := kd, len := 2, dst := 0x400, tally := some 4, scope := 0, far := .keep, dropped := false, xl := 0, fleet := 0, va := 0x40, inv := false, pass := 0 }
def sData (kd : XferKind) (b : Payload) (h : List Byte := hFetch) : State := (withStr h .running (sLand b)).modSlot 5 (fun c => { c with outs := [out3 kd] })
def fleet0 (s : State) : State := { s with cfg := { s.cfg with coreFleet := [(5, 0), (6, 0)] } }
def sMsg (c : Cmd) : State := fleet0 (issue (BitVec.ofNat 64 (c.toNat / 2 ^ 64)) (BitVec.ofNat 64 c.toNat))
def wSend (ch rq : Nat) : Cmd := mk 0xA0 [(112, 6), (108, ch), (107, rq), (103, 3), (100, 2), (80, 0x55), (32, 0x40), (0, 9)]
def wReply : Cmd := mk 0xA1 [(112, 6), (108, 4), (100, 2), (80, 0x55), (32, 0x40)]
def wMcast : Cmd := mk 0xA2 [(113, 9), (100, 1), (32, 0x40)]
def wBulk : Cmd := mk 0xA2 [(119, 1), (113, 9), (96, 272), (72, 16), (68, 4), (67, 1), (32, 0x40)]
def wComb : Cmd := mk 0xA3 [(115, 2), (112, 1), (104, 0), (86, 8), (32, 0x40)]
/-- Reply channel 3 of slot 5, in a ring of 256 bytes at 0x100. -/
def chan (c kind : Nat) (s : State) : State :=
  ((s.setFld (Reg.CH_CFG 5 c) F.CH_CFG_EN 1).setFld (Reg.CH_CFG 5 c) F.CH_CFG_KIND kind).setFld (Reg.CH_CFG 5 c) F.CH_CFG_BASE 0x100
def group9 (s : State) : State := ((s.setFld (Reg.MG_CFG 9) F.MG_CFG_VALID 1).setFld (Reg.MG_CFG 9) F.MG_CFG_CH 2).wr (Reg.MG_CORES 9) 0x60
def sMc (c : Cmd) : State := group9 (sMsg c)
def sCb : State := (sMsg wComb).setFld (Reg.CN_CFG 2) F.CN_CFG_VALID 1
def send4 (s : State) : State := s.modSlot 5 (fun c => { c with
  sendM := (List.range 4).map (fun i => ⟨i + 1, 0, ⟨1, [], false, 0, 0, 5, 0, 0, 0, 0, 0, 0, 0, false⟩, [], [], []⟩)
  sendH := (List.range 4).map (fun i => ⟨i + 1, 0, ⟨1, [], false, 0, 0, 5, 0, 0, 0, 0, 0, 0, 0, false⟩, [], [], []⟩) })
def msg1 : Msg := ⟨1, [7], false, 0, 0, 7, 0, 0, 0, 0x11, 3, 9, 0xA0, false⟩
def msg2 : Msg := ⟨2, [7], false, 0, 0, 7, 0, 0, 0, 0x11, 3, 9, 0xA1, false⟩
def sReq (m : Msg) : State := chan 2 0 (sLand (.msg 2 m))
def rqNet (pl : Plane) (m : Msg) (s : State) : State := { s with net := [⟨pl, .core 7, .core 5, .msg 2 m⟩] }
def sRq : State := rqNet .request msg1 (chan 2 0 s0)
/-- The write pointer is 16 bytes before the end of the ring. -/
def sRqSkip : State := (sRq.setFld (Reg.CH_CFG 5 2 + 0x10) F.CH_PTR_WP 240).setFld (Reg.CH_CFG 5 2 + 0x10) F.CH_PTR_RP 240
def sRqFull : State := sRq.setFld (Reg.CH_CFG 5 2 + 0x10) F.CH_PTR_WP 240
def sRqOff : State := rqNet .request msg1 s0
def sRp (n : Nat) : State := (rqNet .reply msg2 (chan 2 1 s0)).setFld (Reg.CH_CFG 5 2 + 0x18) F.CH_STAT_RSVN n
def entry9 (w r : List (Endpoint × Nat)) : SendEntry := ⟨9, 0, msg1, w, r, []⟩
def sBack (b : Payload) (w r : List (Endpoint × Nat)) : State := (sLand b).modSlot 5 (fun c => { c with sendM := [entry9 w r] })
def chCfg (size base : Nat) : Word := putF (putF (putF 0 F.CH_CFG_EN 1) F.CH_CFG_SIZE size) F.CH_CFG_BASE base
def hchCfg (size base : Nat) : Word := putF (putF (putF 0 F.CH_CFG_EN 1) F.CH_CFG_SIZE size) F.HCH_CFG_BASE base
def sMsgH : State := (sMsg wReply).modSlot 5 (fun c => { c with hrun := true })
def bulk1 : Bulk := ⟨4, 0, wBulk, 0, [], false⟩
def bulk2 (pos : Nat) (l : List Endpoint) : Bulk := ⟨4, 0, wBulk, pos, [(9, l)], false⟩
def sBulk (b : Bulk) (p : Payload) : State := group9 ({ s0 with net := [⟨.reply, .core 6, .core 5, p⟩] }.modSlot 5 (fun c => { c with bulks := [b] }))
def c2 : Fin 32 := 2
/-- Session 2 of two contributors and 16 bytes. -/
def sess (st : Nat) (s : State) : State :=
  (((s.setFld (Reg.CN_SESS 2) F.CN_SESS_NCONTRIB 2).setFld (Reg.CN_SESS 2) F.CN_SESS_LEN 16).setFld (Reg.CN_STAT 2) F.CN_STAT_STATE st).setCn 2
    ⟨[(0, 1), (4, 255), (5, 255), (6, 255), (7, 255)], [], 2, []⟩
def sCon (gen off st : Nat) : State := sess st { s0 with net := [⟨.data, .core 6, .cn 2, .contrib gen off [1, 0, 0, 0, 1, 0, 0, 0]⟩] }
def sRa : State := sess 2 { s0 with net := [⟨.reply, .core 6, .cn 2, .resultAck 0⟩] }
def sRa1 : State := sRa.setCn 2 { sRa.cn 2 with outstanding := 1 }
def pAct (n : Nat) (s : State := s0) : State := s.setFld (Reg.MP_STAT 1) F.MP_STAT_STATE n
def read7 : PRead := ⟨7, 3, 4, 0, 0, 0, .xfer (.core 5) 9 4 8 none⟩
def blk5 : List Byte := (List.range 256).map (fun i => BitVec.ofNat 8 (5 * i))
def write9 : PWrite := ⟨9, 6, List.replicate 256 0, blk5, 4, 0, 0⟩
def sPort : State := (pAct 2).modPort 1 (fun c => { c with
  rdQ := [read7, ⟨8, 4, 0, 3, 0, 0, .scrub⟩]
  wrQ := [write9] })
def frameA : List Byte := mkFrame [] (5 * 2 ^ 22)
def sPortR : State := (pAct 3).modPort 1 (fun c => { c with
  kept := [(4, [1]), (5, frameA)]
  resend := [5, 4] })
def frameIn (slots : List (List Byte × Nat)) (seq : Nat) : List Byte := mkFrame slots (seq * 2 ^ 22 + 5 * 2 ^ 12 + 1 * 2 ^ 6)
def sPortIn : State := (pAct 2).modPort 1 (fun c => { c with
  rdOut := [read7]
  kept := [(4, [1]), (5, [2]), (6, [3])]
  wrOut := [write9] })
def wireIn (f : List Byte) : List Byte := toWire (sPortIn.port 1).rxLanes f
def slot7 : List Byte × Nat := (blk5, 1 * 2 ^ 60 + 7 * 2 ^ 48 + blockCheck blk5)
def req (w : Bool) (bs : List Byte) : MemReq := ⟨w, 0x1040, 0x1040, 4, bs, 2, false, 0, false, 0⟩
/-- A request on its way to stack 1, with region 0 STRIPED, or PROTECTED, over the stacks. -/
def sMem (b : Payload) (s : State) : State := { em s with net := [⟨.data, .core 5, .port 1, b⟩] }
def prot (s : State) : State := s.setFld (Reg.MR_BASE 0 0) F.MR_BASE_MODE 1
def reqP (w : Bool) (bs : List Byte) : MemReq := ⟨w, 0x40, 0x40, 4, bs, 2, false, 0, false, 0⟩
def sWr : State := sMem (.mem 9 (req true [1, 2, 3, 4])) (pAct 2)
def sWrP : State := prot (sMem (.mem 9 (reqP true [1, 2, 3, 4])) (pAct 2))
def sRd : State := sMem (.mem 9 (req false [])) (pAct 2)
def sRdW : State := (sMem (.mem 9 (req false [])) (pAct 2)).modPort 1 (fun c => { c with wrOut := [{ write9 with blk := 0 }] })
def sRdL : State := sMem (.mem 9 (req false [])) (pAct 4)
def noReg (s : State) : State := s.wr (Reg.MR_BASE 0 0) 0
def sWrG : State := came [(1, 0)] sWr
def sWrPG : State := came [(1, 0)] sWrP
def dike (s : State) (k : Nat) : State := s.setFld (Reg.DK_P k) F.DK_P_STATE 4
def sPar : State := { pAct 2 with net := [⟨.data, .port 0, .port 1, .delta (.core 5) 9 0 blk5⟩] }
def held0 : PWrite := ⟨3, 0, List.replicate 256 0, blk5, 4, 0, 0⟩
def sParG : State := came [(1, 0)] (sPar.modPort 0 (fun c => { c with wrHeld := [held0] }))
def sReb (st : Nat) : State := (prot (em (pAct st))).modPort 1 (fun c => { c with rebuilds := [(0, .xfer (.core 5) 9 4 8 none)] })
def sReb2 : State := (sReb 4).setFld (Reg.MP_STAT 2) F.MP_STAT_STATE 4
/-- A block of three stacks. -/
def few (s : State) : State := { s with opts := { s.opts with memPorts := 3 } }
def sRebG : State := came [(0, 0), (2, 0)] (few (sReb 2))
def sRebD : State := { few (sReb 2) with net := [⟨.data, .port 2, .port 0, .delta (.core 5) 9 0 blk5⟩] }
def sRebX : State := came [(0, 0)] (few sReb2)
def sScr : State := (pAct 2).setFld (Reg.MP_CTL 1) F.MP_CTL_SCRUB_H 1
def sLane : State := (pAct 2).setFld (Reg.MP_LANES 1) F.MP_LANES_RXS0 0x83
def sLane2 : State := sLane.setFld (Reg.MP_LANES 1) F.MP_LANES_RXS1 0x84
def walkStr (s : State) : State := s.setStrm 5 3 { strOf hFetch .running with
  walking := true
  emitted := [e16] }
def invV : Word := putF 0 F.XL_INV_COUNT 1
def ringV : Word := putF 0 F.XF_RING_EN 1
def sXf : State := (em s0).setFld Reg.XF_PTR F.XF_PTR_WP 64
def setB (n : Nat) (l : List (Nat × Nat)) : List Byte := (List.range n).map (fun i => BitVec.ofNat 8 ((l.find? (fun p => p.1 == i)).elim 0 (fun p => p.2)))
/-- A command for an NMU, with its parameter block at 0x100 of staging. -/
def nmsg (nop : Nat) (rq : Bool := true) (pblk : Nat := 0x100) : Msg := ⟨1, [BitVec.ofNat 64 (nop * 2 ^ 56 + pblk), 0x1122, 0x33], rq, 2, 0, 6, 0, 0, 0, 0x11, 3, 9, 0xA0, false⟩
def n1 : Fin 20 := 1
/-- Two rows of 4 INT8 weights at 0x1000, the vector at 0x300, results at 0x200 of staging. -/
def pMv : List Byte := setB 64 [(1, 0x10), (24, 2), (28, 4), (30, 1), (44, 0), (45, 3), (48, 3), (51, 1), (53, 2)]
def pGa : List Byte := setB 64 [(1, 0x10), (24, 2), (28, 16), (30, 1), (44, 0x10), (45, 3), (48, 3), (53, 2)]
def sNm (p : List Byte) : State := ((xl s0).emPut 1 0 [2, 255, 3, 4]).modNmu 1 (fun c => { c with
  staging := writeBytes zeroByte (writeBytes zeroByte [] 0x100 p) 0x300 [5, 6, 0, 7] })
def sNmG (p : List Byte) : State := came [(1, 0)] (sNm p)
def nmq (m : Msg) (s : State) : State := s.modNmu 1 (fun c => { c with
  intake := [m]
  wait := [(0, 7)] })
def nmr (r : Run) (s : State) : State := s.modNmu 1 (fun c => { c with run := some r })
def rMv : Run := Run.start (nmsg 0x10) (PBlk.ofBytes pMv) 0
def rGa : Run := Run.start (nmsg 0x40) (PBlk.ofBytes pGa) 0
def rSc : Run := Run.start (nmsg 0x41) (PBlk.ofBytes pGa) 0
def rSt : Run := Run.start (nmsg 0x01) (PBlk.ofBytes []) 0
def rSgd : Run := { Run.start (nmsg 0x20) (PBlk.ofBytes (setB 64 [(51, 1)])) 0 with reported := true }
def rDone : Run := { rMv with
  next := 2
  doneU := 2 }
def rTally : Run := { Run.start (nmsg 0x10) (PBlk.ofBytes (setB 64 [(24, 2), (48, 1), (49, 5), (50, 0x13)])) 0 with
  next := 2
  doneU := 2
  sent := 8 }
def ranks (s : State) : State := { s with cfg := { s.cfg with
  ranks := [(0, (0, [9, 12]))]
  routes := [(12, 3)]
  ownNode := 9 } }
/-- Fleet 0 with a page table that gives the first 2 MiB of its addresses to region 0. -/
def tabled (s : State) : State :=
  (((s.wr (Reg.XL_PTBASE 0) 0x8000000000028000).emPut 0 0x2000 (natLE 8 (2 ^ 63 + 0x29000))).emPut 1 0x2000 (natLE 8 (2 ^ 63 + 0x2A000))).emPut 2 0x2000
    (natLE 8 0xBE00000000000000)
def pTag : List Byte := setB 64 [(26, 0x10), (28, 2)]
def sTag (p : List Byte) (nop : Nat) : State := nmq (nmsg nop) (tabled (ranks (sNm p)))
def sTagG (p : List Byte) (nop : Nat) : State := came [(0, 32), (1, 32), (2, 32)] (sTag p nop)
def tag0 (sh : List Nat) : TagSlot := {
  msg := nmsg 0x50
  tag := 0x11
  fleet := 0
  blk := PBlk.ofBytes pTag
  share := sh
  wb := 0
  sums := []
  nexts := []
  moor := []
  doneB := []
  sendPos := 0
  results := []
  sent := []
  waiters := []
  fin := none
  status := 0
  ended := false
  already := false }
def withTag (t : TagSlot) (s : State) : State := (s.setTag 1 t).wr (Reg.NMU_TAG 1) (putF (putF (putF 0 F.NMU_TAG_ANY 1) F.NMU_TAG_OLDEST 0x11) F.NMU_TAG_LAST 0x11)
def tagE : TagSlot := { tag0 [1] with ended := true }
def tagF : TagSlot := { tag0 [1] with
  wb := 1
  sendPos := 1
  fin := some (Run.start (nmsg 0x50) (PBlk.ofBytes pTag) 0) }
def tagN : TagSlot := { tag0 (List.range 70) with nexts := [(1, 1)] }
def tagS : TagSlot := { tag0 [0, 1] with nexts := [(1, 1)] }
def tagW : TagSlot := { tagN with wb := 2 }
def redBs : List Byte := List.replicate 256 1
def sRed (t : Option TagSlot) (res : Bool) (g : Nat) : State :=
  let s := ranks { xl s0 with net := [⟨.reply, .link 3, .nmu 1, .red res 12 0x11 g 0 redBs⟩] }
  match t with
  | none => s
  | some x => withTag x s
def sRedG (r : Bool) : State := came [(0, 0)] (sRed (some tagS) r 1)
def sndC : TagSlot := ((((sRedG true).tagPass 1 tagS).nmu 1).tags.map (fun p => p.2)).headD tagS
def coll (g : Nat) : Collect := ⟨0, 0x11, 0, 0x300, g, 7⟩
def sColl (g : Nat) : State := { (xl s0).modNmu 1 (fun c => { c with collects := [coll g] }) with net := [⟨.data, .nmu 2, .nmu 1, .scout 0 0x11 0 0x300 9⟩] }
def sCollG : State := came [(0, 3)] (sColl 19)
def lUp (st : Nat) (s : State) : State := (ranks s).setFld (Reg.FL_STAT 1) F.FL_STAT_STATE st
def rreq (sent w : Bool) : RemoteReq := ⟨12, 1, w, false, 0x1040, 4, [], 5, 9, none, sent, 7, .none, false⟩
/-- A Filic frame with SEQ 0, ACK 5 and 3 credits of channel 1. -/
def flIn (slots : List (List Byte × Nat)) (seq : Nat) : List Byte := mkFrame slots (seq * 2 ^ 22 + 5 * 2 ^ 12 + 1 * 2 ^ 9 + 3 * 2 ^ 4)
def slot3 (dn : Nat) : List Byte × Nat := (blk5, 3 * 2 ^ 60 + dn * 2 ^ 48 + 12 * 2 ^ 36 + 7 * 2 ^ 26)
def sFl : State := { (lUp 2 s0).modLink 1 (fun c => { c with
  kept := [(4, [1]), (5, [2]), (6, [3])]
  resend := [4, 6] }) with remote := [rreq true false] }
def wireFl (f : List Byte) : List Byte := toWire (sFl.link 1).rxLanes f
def slotBad : List Byte × Nat := (blk5, 14 * 2 ^ 60)
def sFlTx : State := { (lUp 3 s0).modLink 1 (fun c => { c with
  queue := [(1, [⟨3, 12, 9, 7, blk5, none⟩])]
  ctl := [(12, 5)] }) with
  remote := [⟨12, 1, true, false, 0x1040, 2, [1, 2], 5, 9, none, false, 0, .none, false⟩]
  cfg := { (ranks s0).cfg with routes := [(12, 1)] } }
def sFlRe : State := (lUp 2 s0).modLink 1 (fun c => { c with
  kept := [(4, [1]), (5, [2])]
  resend := [5, 4] })
def sPeer (n : Nat) : State := { lUp 1 s0 with cfg := { (ranks s0).cfg with peers := [(1, n)] } }
def sFlRem : State := { sFlTx with remote := [rreq true false, rreq false true] }
def sLane1 (v : Nat) : State := (lUp 2 s0).setFld (Reg.FL_LANES 1) F.FL_LANES_RXS v
def sRdw : State := { (lUp 2 s0) with rdWait := [(3, [12])] }
/-- A description of one segment on core 5: 100 steps, due in 1048576 ns. -/
def descOf5 : List Byte := setB 512 [(1, 1), (6, 0x10), (8, 0x20), (64, 0x20), (72, 100), (93, 2)]
def withDesc (d : List Byte) (s : State) : State := (List.range 64).foldl (fun (t : State) n => t.wr (Reg.RK_DESC n) (BitVec.ofNat 64 (blk d (8 * n) 8))) s
def paced (s : State) : State := [5, 72, 80, 81].foldl (fun (t : State) n => t.setPace n 40 0) s
def sAdm : State := withDesc descOf5 (paced (fleet0 s0))
def sAdmX : State := withDesc descOf5 (paced s0)
/-- The Reckoner has taken a command. -/
def uRk (s : State) : State := { s.draw.2 with rkDue := s.time + s.draw.1.toNat % 40001 }
def mayBe (s : State) : GrantReq → Bool := fun x => s.hotAllows x.polder x.quanta && s.shareAllows x.polder x.quanta
def pass5 : Passage := passageOf descOf5
/-- Entry 0 holds a passage of identity 7 on core 5, HELD or RUNNING. -/
def sPt (st : Nat) : State := { ((s0.setFld (Reg.PT_ID 0) F.PT_ID_STATE st).setFld (Reg.PT_ID 0) F.PT_ID_PID 7) with
  passages := [(0, pass5)]
  drawn := [(0, 5, 2)] }
def sPtMissed : State := { sPt 2 with passages := [(0, { pass5 with missed := true })] }
def sPace : State := { ((s0.setPace 5 40 0).setFld (Reg.CP_P 5) F.CP_P_GRANT 200) with windowed := [5] }
def sQuar (n : Nat) : State := s0.setFld (Reg.DK_P n) F.DK_P_STATE 4
def sReqd (s : State) : State := { s with grantQ := [⟨5, 3⟩] }
/-- Core 5 in fleet 0 at 0.8 V, with power to give. -/
def sPow : State := ((((paced (fleet0 s0)).setFld Reg.CP_CFG F.CP_CFG_BUDGET 4000).setFld Reg.CP_CFG F.CP_CFG_RAMP 500).setFld (Reg.CP_FLEET 0) F.CP_FLEET_SHARE 100)
def sPowP : State := { sReqd sPow with passages := [(0, { pass5 with power := 9 })] }
/-- A delta image whose one section is RECKONER, signed by the key in `keyed`. -/
def imgSigned : List Byte := setB 768 [(0, 69), (1, 78), (2, 78), (3, 90), (4, 1), (6, 1), (9, 4), (12, 1), (24, 30), (128, 5), (129, 1), (132, 144), (136, 8), (140, 173), (141, 207), (142, 20), (143, 197), (144, 1)] ++
  natBE 48 0xb3408cebd3331f0013f40a73e5819b483a2c02babf89d081053aa8108c535c3fb87c59e9b800c6499c6f70c0f4c6cacd ++
  natBE 48 0xead21b7d00210d78c2440ff5889f0fcba437a6a71e6c5c278e066cd7944395a115cf4d9c302dbdd385e39fd35eeeeae ++
  natBE 48 0xaa87ca22be8b05378eb1c71ef320ad746e1d3b628ba79b9859f741e082542a385502f25dbf55296c3a545e3872760ab7 ++
  natBE 48 0xaa87ca22be8b05378eb1c71ef320ad746e1d3b628ba79b9859f741e082542a385502f25dbf55296c3a545e3872760ab7 ++ List.replicate 64 0
/-- Key slot 0 programmed with the digest of that key. -/
def keyed (s : State) : State :=
  [0xe695db4d3fe40c70, 0xee90546b33e60a2a, 0x697e9e54a0073b35, 0xb5492bb1ac8db6d5, 0xff22f1360c38daa2, 0x7608ba3197f91bbb].zipIdx.foldl (fun (t : State) (p : Word × Nat) => t.wr (Reg.OTP_KEY 0 p.2) p.1)
    (s.setFld Reg.OTP_STAT F.OTP_STAT_PROGRAMMED 1)
def zn (st : Nat) (buf : List Byte) (s : State := s0) : State := { s.setFld Reg.ZN_STAT F.ZN_STAT_STATE st with zen := { s.zen with buf := buf } }
/-- An image buffer of no sections: a delta image, or a full one. -/
def imgHead (delta : Bool) : List Byte := setB 256 [(6, b01 delta)]
/-- A delta that takes every polder to setpoint 0, with setpoints to lower. -/
def imgPace : List Byte := setB 344 [(6, 1), (12, 1), (128, 2), (132, 144), (136, 200)]
def sZp : State := zn 2 imgPace (paced s0)
def setp (n : Nat) : PlanStep := ⟨2, [.setpoint n 0 0]⟩
def planned (st : Nat) (p : PlanStep) (s : State := paced s0) : State := { zn st (imgHead true) s with zen := { s.zen with
  buf := imgHead true
  plan := [p] } }
def closing (cl : List Nat) (p : PlanStep) (s : State := paced s0) : State := { zn 3 (imgHead true) s with zen := { s.zen with
  buf := imgHead true
  plan := [p]
  committed := true
  closing := cl
  cost := 1400
  charged := [0] } }
def sSrcEm : State := (zn 1 [] (em s0)).setFld Reg.ZN_SRC F.ZN_SRC_KIND 2
def sHolds : State := { s0 with passages := [(0, { pass5 with paces := [(5, 40, 0)] })] }
def fleetStep : PlanStep := ⟨3, [.coreFleet 5 0]⟩
def sRtPass : State := { sPt 2 with rtMode := true }
def sBusyDrain : State := { closing [5] (setp 5) with net := [⟨.data, .core 5, .core 6, .xferAck 0 0⟩] }
def rel0 (d : Nat) (pause : Bool) : Relief := ⟨5, 5, 8, 1, List.range d, pause, false, 0⟩
def sRelf (d : Nat) (pause : Bool) (s : State := s0) : State := s.modRepair (fun r => { r with relief := some (rel0 d pause) })
def lowLimit (d p : Nat) (s : State) : State := { s with zen := { s.zen with force := [(14, natLE 2 24 ++ natLE 2 d ++ [BitVec.ofNat 8 p, 0, 64, 7] ++ List.replicate 8 0)] } }
def sRelHalt : State := ((sRelf 2 true).modSlot 5 (fun c => { c with
  halt := .halted
  ts := [(7, 9)] })).wr (Reg.TALLY 5 3) 7
def noSpare (s : State) : State := s.modRepair (fun r => { r with retired := [8] })
def wait5 (s : State) : State := s.modRepair (fun r => { r with waiting := [⟨false, 8, 0, false⟩] })
def busyS (n : Nat) (unq : Bool) (s : State) : State := s.modRepair (fun r => { r with soundings := [⟨n, 3, unq⟩] })
def found0 : Found := ⟨[], [], [], false, false⟩
def found1 : Found := ⟨[3], [], [], false, true⟩
def foundX : Found := ⟨[], [], [], true, true⟩
def sRepair : State := s0.modRepair (fun r => { r with retired := [8] })
def rep0 (code sev : Nat) : Report := ⟨code, sev, 5, 1, 5, 0xFF, 0, [7]⟩
def sRep (code sev : Nat) : State := { s0 with
  time := 50
  reports := [rep0 code sev] }
def sRepM : State := { sRep 0x34 1 with log := [⟨3, 40, rep0 0x34 1, 0, 0⟩] }
def sSem (v : Nat) (ab ow : Nat) : State := (((s0.wr (Reg.SEM_V 7) 0).setFld (Reg.SEM_V 7) F.SEM_V_VALUE v).setFld (Reg.SEM_V 7) F.SEM_V_ABANDONED ab).setFld (Reg.SEM_V 7) F.SEM_V_OWNED ow
/-- A pilot whose one section is 8 bytes of code, signed by the key in `keyedP`. -/
def pilotSigned : List Byte := setB 768 [(0, 70), (1, 80), (2, 78), (3, 90), (4, 1), (9, 4), (12, 1), (24, 30), (128, 64), (129, 1), (132, 144), (136, 8), (140, 87), (141, 60), (142, 26), (143, 211), (144, 19)] ++
  natBE 48 0xb103c299938eb618e36c8aa6a59005396d18b8b0877f515220053c31d1185c0840c785d9768a1b60da0a28b5c5d48d13 ++
  natBE 48 0xc447e6b02099f3fe8ad3acbdc18ce1ab800bbaf38edd7597693c64fe03ceb7b7fac3dc496bb7e6d75097da14458e171f ++
  natBE 48 0xaa87ca22be8b05378eb1c71ef320ad746e1d3b628ba79b9859f741e082542a385502f25dbf55296c3a545e3872760ab7 ++
  natBE 48 0xaa87ca22be8b05378eb1c71ef320ad746e1d3b628ba79b9859f741e082542a385502f25dbf55296c3a545e3872760ab7 ++ List.replicate 64 0
/-- Key slot 0 programmed with the digest of that key. -/
def keyedP (s : State) : State :=
  [0x9614a6ce152051bc, 0x554d331ffbc94064, 0x89e798720b45b424, 0xa8cb1dfa0888fe63, 0xe0f404c1c4250177, 0xc2146ca733fb231f].zipIdx.foldl (fun (t : State) (p : Word × Nat) => t.wr (Reg.OTP_KEY 0 p.2) p.1)
    (s.setFld Reg.OTP_STAT F.OTP_STAT_PROGRAMMED 1)
def ha (s : State := s0) : State := s.setFld Reg.HA_STAT F.HA_STAT_STATE 1
def haWith (f : Fld) (s : State) : State := s.setFld (Reg.HA_RIGHTS 0) f 1
def sHaEm : State := ha (xl s0)
def sHaFleet : State := haWith F.HA_RIGHTS_EM sHaEm
def sHaEmG : State := came [(0, 0)] sHaEm
def sHaFleetG : State := came [(0, 0)] sHaFleet
def sHput : State := haWith F.HA_RIGHTS_HPUT (ha (fleet0 s0))
def sHclosed : State := ha (s0.setFld (Reg.DK_P 5) F.DK_P_STATE 4)
def sPuts : State := { ha with puts := [4] }
def sPutsF : State := { sPuts with
  nprIn := [⟨7, 3, [(4, 0, 0)], [], 0⟩]
  net := [⟨.reply, .core 5, .attach, .deliverAck 4 0 3⟩] }
def hm0 (wr : Bool) : HmReq := ⟨wr, 0x1000, 4, [], 5, 2, 1, 2, none, true, 9, 77, .none, false⟩
/-- What goes back for a host memory request that its completion answers with a status. -/
def backOf (r : HmReq) (bs : List Byte) : Nat → Packet := fun st => if r.write then ⟨.reply, .attach, .core r.core, .xferAck r.xid st⟩
  else ⟨.data, .attach, .core r.core, .xferData r.xid st (if st = 0 then (bs.drop r.lo).take r.want else [])⟩
def hmFill : HmReq := { hm0 false with fill := some (0, 0, 0x1000) }
def sHmFill : State := { ha with hm := [hmFill] }
def sHm (wr : Bool) : State := { ha with hm := [hm0 wr] }
def alertPkt (n : Nat) : HaPacket := ⟨0x13, 0x40, n, List.replicate n 0, 0, 0⟩
def sHaOut : State := { ha with haOut := [alertPkt 8] }
def hcs (c : Cmd) (s : State := fleet0 s0) : State := (s.wr (Reg.HCS_HI 1) (BitVec.ofNat 64 (c.toNat / 2 ^ 64))).wr (Reg.HCS_LO 1) (BitVec.ofNat 64 c.toNat)
def hcsPut (len dst core : Nat) (s : State := em s0) : State :=
  ((s.wr (Reg.HCS_HI 1) (BitVec.ofNat 64 (dst + 2 ^ 44 + 3 * 2 ^ 40 + core * 2 ^ 48))).wr (Reg.HCS_LO 1) (BitVec.ofNat 64 len)).wr (Reg.HCS_SRC 1) 0x40
def hcsPutG : State := came [(0, 0)] (hcsPut 16 0x80 5)
def sHcsBusy : State := s0.setFld (Reg.HCS_GO 1) F.HCS_GO_BUSY 1
def sHcsAck : State := { sHcsBusy with net := [⟨.reply, .core 5, .host 1, .deliverAck 0 7 0⟩] }
def sPilot : State := keyedP (came [(0, 0), (0, 1), (0, 2), (0, 3)] { em s0 with em := writeBytes zeroByte [] 0 pilotSigned })
def sFw (e : Nat) : State := { s0 with zen := { s0.zen with fw := some (0x90, 8) } }.setFld Reg.HC_ENTRY F.HC_ENTRY_PA e
def otp (p r : Nat) (sg : List Nat) : State := { (s0.setFld Reg.OTP_STAT F.OTP_STAT_PROGRAMMED p).setFld Reg.OTP_STAT F.OTP_STAT_REVOKED r with zen := { s0.zen with signers := sg } }
def sOtpBusy : State := s0.setFld Reg.OTP_STAT F.OTP_STAT_BUSY 1
def hcRun (s : State := s0) : State := s.setFld Reg.HC_CTL F.HC_CTL_RUN 2
def hline (d : Bool) : HLine := ⟨1, List.replicate 64 7, d, 0⟩
def sHline : State := { hcRun (em s0) with hcache := [hline false, ⟨2, List.replicate 64 3, true, 2⟩] }
def routes (c : Nat) : State := ((s0.setFld Reg.AL_ROUTE F.AL_ROUTE_MGMT (2 ^ c)).setFld Reg.AL_ROUTE F.AL_ROUTE_HC (2 ^ c)).setFld Reg.AL_ROUTE F.AL_ROUTE_HA (2 ^ c)
def full (o : Nat) (f : Fld) (s : State := s0) : State := s.setFld o f 0xFFFF
def sPeriod0 : State := { s0 with zen := { s0.zen with force := [(14, List.replicate 16 0)] } }
def sNoImg : State := came [(0, 0)] (em s0)
def sPilotU : State := (sPilot.emLoad (clsPrio 0) 0 128).2.2
def sBermEnd1 : State := { sBermEnd with
  time := 1
  berm := none
  bermed := true
  bermDone := 7 }
def sBerm1 : State := { sBerm with
  time := 1
  berm := some ⟨[], [], 7⟩
  nv := [(0, 1), (1, 2)] }
/-! Next states of witnesses, by name. -/
def sDue9 : State := { s0 with rkDue := 9 }
def uDue : State := (((sRedG false).takePacket 0).tagPass 1 { tagS with
  sums := tput tagS.sums 1 (addByType tagS.type (tget [] tagS.sums 1) redBs)
  nexts := tput tagS.nexts 1 2 }).ctlTo 12 (ctlCack 0x11 1)
def uSnd : State := if sndC.owner (sndC.g sndC.sendPos) = sndC.ownRank then
    ((sRedG true).tagPass 1 tagS).setTag 1 { sndC with sendPos := sndC.sendPos + 1 }
  else ((sRedG true).tagPass 1 tagS).redRead 1 { sndC with sendPos := sndC.sendPos + 1 } (sndC.g sndC.sendPos)
    (sndC.owner (sndC.g sndC.sendPos)) false
def uCol2 : Nat × State := ((sCollG.takePacket 0).modNmu 1 (fun x => { x with
  collects := [{ coll 19 with
    got := 20
    max := 9 }] })).nmuStores 1 (clsPrio 0) 0 [(0x308, natLE 4 (scaleFrom 9 127).1 ++ natLE 4 (scaleFrom 9 127).2)]
def dn16 (s : State) : State := s.setFld Reg.ZN_COMPAT F.ZN_COMPAT_DN16 1
def d0 : SliceDesc := { decodeSlice [] with
  src := 0x100
  l := 3
  k := 4
  n := 7
  stride := 32 }
def dC : SliceDesc := { d0 with sfmt := 4 }
def sSl : State := s0.tsPut 5 0x100 ((List.range 96).map (fun i => BitVec.ofNat 8 (i * 37 % 120)))
def sInvW : State := (xl sRun).modSlot 5 (fun c => { c with outs := [{ out3 .fetch with inv := true }] })
def sRxM : State := sPortIn.modPort 1 (fun c => { c with moves := [⟨false, 1, 7, 0⟩] })
/-- The spares of port 1 that can still be used. -/
def spareOk (s : State) (n : Nat) : Bool :=
  !bit (s.fld (Reg.MP_LANES 1) (spareFld false n)) 7 && !((s.port 1).swaps ++ (s.port 1).moves).any (fun w => w.tx == false && w.spare == n)
def sPhyOff : State := { sTrain with phyOff := true }
def sSluice : State := s0.setFld (Reg.DK_P 5) F.DK_P_STATE 2
def sHeldW : State := { s0 with drsHeld := [(0x100, .grant)] }
def sLbu : State := (regs (code (encI 0xFFF 1 4 3 0x03))).tsPut 5 0xFF [0x80]
def sSh : State := regs (code (encS 8 2 1 1 0x23))
/-- An atomic memory operation of funct7 `f7` with register `r2`, of width `f`, on a word that holds 5. -/
def sAmo (f7 r2 f : Nat) : State := (regs (code (encR f7 r2 1 f 3 0x2F))).tsPut 5 0x100 [5]
def sMis : State := regs (code (encI 9 1 3 3 0x03) true)
def sMisS : State := regs (code (encS 9 2 1 1 0x23) true)
/-- A contribution that is the last of its session, which has one destination in core 5, or none. -/
def sConL : State := ((sCon 0 8 1).setFld (Reg.CN_COUNT 2) F.CN_COUNT_BYTES 24).setFld (Reg.CN_DEST 2) F.CN_DEST_DKIND 0
def sConLC : State := (sConL.setFld (Reg.CN_DEST 2) F.CN_DEST_DKIND 1)
def sBulkIn (d : Endpoint) : State := { s0 with net := [⟨.data, .core 6, d, .bulk 9 0x80 [1, 2, 3] (some 4)⟩] }
def sResIn (d : Endpoint) : State := { s0 with net := [⟨.data, .cn 2, d, .result 1 0x80 [1, 2, 3] none⟩] }
/-- The write pointer is 8 bytes before the end of a ring of 256 bytes in DN-16, or 16 for a reply. -/
def sRqWrap : State := (dn16 sRqSkip)
def sRpSkip : State := ((sRp 1).setFld (Reg.CH_CFG 5 2 + 0x10) F.CH_PTR_WP 240).setFld (Reg.CH_CFG 5 2 + 0x10) F.CH_PTR_RP 240
def sWakeS : State := { (sBack (.wake 2) [] [(.core 7, 2)]).setFld (Reg.DK_P 5) F.DK_P_STATE 2 with net := [⟨.reply, .core 7, .core 5, .wake 2⟩] }
def sRelfW : State := (sRelf 2 false).modRepair (fun r => { r with waiting := [⟨true, 5, 0, false⟩] })
def sAbS : State := { (nmr rSgd s0).modNmu 1 (fun c => { c with collects := [⟨rSgd.fleet, rSgd.msg.tag, rSgd.blk.par, 0, 1, 7⟩, ⟨3, 4, 1, 0, 1, 7⟩] }) with
  net := [⟨.data, .nmu 1, .nmu 2, .scout rSgd.fleet rSgd.msg.tag rSgd.blk.par 0 9⟩, ⟨.data, .nmu 2, .nmu 1, .scout rSgd.fleet rSgd.msg.tag rSgd.blk.par 0 9⟩] }
def closed82 (s : State) : State := s.setFld (Reg.DK_P 82) F.DK_P_STATE 2
def sHcsStall : State := closed82 (hcs (wSend 2 0))
def sHcsStallR : State := closed82 (hcs wReply)
def sPutStall : State := closed82 (hcsPut 16 0x80 5)
def sUnb : State := { s0 with bind := tput s0.bind 5 unbound }
def pOff : State := { pAct 1 with phyOff := true }
def lOff : State := { sPeer 12 with phyOff := true }
def biLow : BootIn := { bi with low := true }
/-- Alert 5 goes to host core 0, which enables it, and to ALERT_N. -/
def routesE : State := ((routes 5).setFld Reg.AL_ROUTE F.AL_ROUTE_PIN 32).wr (Reg.HC_IE 0) (BitVec.ofNat 64 (2 ^ 37))

/-! ## Well-formedness -/

def badUpset : Upset := .two 0 0x10000000000
def badTrain : Trained := ⟨true, [34], [], 0⟩
def longBytes : List Byte := List.replicate 9 0

/-- Each command with one operand that the spec's fields do not hold. -/
theorem smoke_wf_resets : [Instr.resetN { bi with src := 4 }, .warmN { bi with vin := 65536 }, .warm { bi with mem := [badTrain] },
    .bootGo { bi with found := [(100, ⟨[], [], [], false, false⟩)] }, .pwrFailN 65536, .vinLow 65536 true, .vkeepLow 65536, .vinWarn 65536,
    .vinRecover 65536, .pmbAlertN 128 0, .pmbAlertN 0 65536, .pmbusPoll [(8, 0, 0, 0)], .entdaa 128, .setdasa 128 0, .setdasa 0 128,
    .i3cRead (2 ^ 24), .i3cWrite (2 ^ 24) 0 bi, .registerWrite 16 0 [0] bi, .registerWrite 0 (2 ^ 26) [0] bi, .registerWrite 0 0 [] bi,
    .scoutWrite (.nmu 0) (2 ^ 31)].all (fun i => !i.wf) = true := by decide +kernel

theorem smoke_wf_core : [Instr.instruction 0 false badUpset, .haltComplete 0 (List.replicate 65 .none), .save 0 badUpset,
    .vrRegSave 0 badUpset, .ldl 0 badUpset, .mopz 0 badUpset, .mop 0 badUpset, .drn 0 badUpset, .vsAdd 0 badUpset, .vsSub 0 badUpset,
    .vsMul 0 badUpset, .vsFma 0 badUpset, .vsMin 0 badUpset, .vsMax 0 badUpset, .vsAbs 0 badUpset, .vsNeg 0 badUpset, .vsDiv 0 badUpset,
    .vsSqrt 0 badUpset, .vsExp2 0 badUpset, .vsLog2 0 badUpset, .vsCmp 0 badUpset, .vsSel 0 badUpset, .vsLogic 0 badUpset,
    .vsCvt 0 badUpset, .vsCompress 0 badUpset, .vsExpand 0 badUpset, .vsRed 0 badUpset, .vsLacc 0 badUpset, .vsLrnd 0 badUpset,
    .vsMov 0 badUpset, .vsSlice 0 badUpset, .vsRecomb 0 badUpset, .vrAdd 0 badUpset, .vrSub 0 badUpset, .vrMul 0 badUpset,
    .vrFma 0 badUpset, .vrMin 0 badUpset, .vrMax 0 badUpset, .vrAbs 0 badUpset, .vrNeg 0 badUpset, .vrDiv 0 badUpset, .vrSqrt 0 badUpset,
    .vrExp2 0 badUpset, .vrLog2 0 badUpset, .vrCmp 0 badUpset, .vrSel 0 badUpset, .vrLogic 0 badUpset, .vrCvt 0 badUpset,
    .vrCompress 0 badUpset, .vrExpand 0 badUpset, .vrRed 0 badUpset, .vrLacc 0 badUpset, .vrLrnd 0 badUpset, .vrMov 0 badUpset,
    .vrSlice 0 badUpset, .vrRecomb 0 badUpset, .vrLd 0 badUpset, .vrSt 0 badUpset, .transferIssue 0 badUpset,
    .bulkPacket 0 badUpset].all (fun i => !i.wf) = true := by decide +kernel

theorem smoke_wf_memory : [Instr.uzodalFrame 0 [0], .trainingDone 0 true [34] [], .trainingDone 0 true [] [18], .laneSwap (.mem 0) true 18,
    .laneSwap (.mem 0) false 34, .laneSwap (.link 0) true 17, .xfRp (2 ^ 32), .stage 0 0 badUpset, .mv 0 0 badUpset, .sgd 0 0 badUpset,
    .emb 0 0 badUpset, .scan 0 0 badUpset, .cvt 0 0 badUpset, .ired 0 0 badUpset, .gather 0 0 badUpset, .scatter 0 0 badUpset,
    .nmuComplete 0 (some 64), .abortTag 0 65536, .contribSend 0 64, .filicFrame 0 [] [0], .flTrainingDone 0 true 4096 [] [],
    .flTrainingDone 0 true 0 [17] [], .flTrainingDone 0 true 0 [] [17], .frameDiscarded 0 [] []].all (fun i => !i.wf) = true := by decide +kernel

theorem smoke_wf_keep : [Instr.release (2 ^ 32), .paceWindow 0 16384 0, .paceWindow 0 0 256, .grantRequest 0 16, .grantRelease 0 16,
    .soundingDone 0 ⟨[132], [], [], false, false⟩, .soundingDone 0 ⟨[], [132], [], false, false⟩, .down 0 128 0, .up 0 128 0,
    .init 0 0 (2 ^ 32)].all (fun i => !i.wf) = true := by decide +kernel

theorem smoke_wf_host : [Instr.drsRd true 16 0 0 8, .drsRd true 0 4096 0 8, .drsRd true 0 0 (2 ^ 64) 8, .drsRd true 0 0 0 0,
    .drsWr true 16 0 [0] bi, .drsWr true 0 (2 ^ 64) [0] bi, .drsWr true 0 0 [] bi, .emRd true 16 0 0 1, .emRd true 0 4096 0 1,
    .emRd true 0 0 (2 ^ 64) 1, .emRd true 0 0 0 0, .emWr true 16 0 [0], .emWr true 0 (2 ^ 64) [0], .emWr true 0 0 [],
    .hput true 16 0 0 none [0], .hput true 0 64 0 none [0], .hput true 0 0 (2 ^ 64) none [0], .hput true 0 0 0 (some 16) [0],
    .hput true 0 0 0 none [], .flush 4096, .cpl 4096 0 [], .cpl 0 256 [], .hostTimeout 4096, .restart 256, .setMfr 2048,
    .hostCoreAccess 0 (2 ^ 56) (.load 8) [] bi, .hostCoreAccess 0 0 (.load 3) [] bi, .hostCoreAccess 0 0 (.store longBytes) [] bi,
    .hostCoreAccess 0 0 (.fetch 8) [] bi, .malformedPacket 4 0 0 false true, .malformedPacket 0 256 0 false true,
    .malformedPacket 0 0 4096 false true].all (fun i => !i.wf) = true := by decide +kernel

/-- A boot image of more than 4 GiB is none that a 32-bit length holds (16 R414). -/
theorem smoke_wf_image (b : List Byte) (h : 2 ^ 32 < b.length) : (Instr.loadComplete (some b)).wf = false := by
  simp [Instr.wf]
  omega

theorem smoke_wf_good : [Instr.resetN bi, .pwrFailN 65535, .entdaa 127, .instruction 0 true .flag, .down 8 99 255, .hput true 15 63 0 (some 15) [0],
    .hostCoreAccess 7 (2 ^ 56 - 1) (.fetch 4) [] bi].all (fun i => i.wf) = true := by decide +kernel

/-! ## Values that the spec writes out -/

/-- 01, worked example: slot 5 of sector 3 is polder 32, its window is at 0x16C_0000; slot 8 is polder 35, at 0x172_0000. -/
theorem test_example_windows : (s0.slotOf 29, slotBase 32, slotBase 35, s0.physOf 0x2740000) = (some 32, 0x16C0000, 0x1720000, some 0x16C0000) := by
  decide +kernel

/-- 02, worked example: a conversion of six FP32 elements into INT8 with Q = 4.0. -/
theorem test_example_cvt : [0x3FB00000, 0x3F200000, 0xC1FF3333, 0x7FC00000, 0x40E40000, 0x80000000].map
    (fun x => (cvtElem false .rne 7 1 x (decodeSrc false fp32 0x40800000)).1) = [0x06, 0x02, 0x81, 0x00, 0x1C, 0x00] := by decide +kernel

/-- 06, worked example: VS.RED SUM of 16 777 216 and five times 1 is 0x4B80_0002. -/
theorem test_example_red : redGroup 0 7 [0x4B800000, 0x3F800000, 0x3F800000, 0x3F800000, 0x3F800000, 0x3F800000] [] = 0x4B800002 := by
  decide +kernel

/-- 11, worked example: where PA 0x0000_1234_5678 lies in a STRIPED and in a PROTECTED region. -/
theorem test_example_place : ((em s0).place 0x12345678, (prot (em s0)).place 0x12345678) =
    (some ⟨5, 15271544, 0, 0⟩, some ⟨14, 16074360, 1, 0⟩) := by decide +kernel

/-! ## One step, on a small state -/

/-- The answer of an outcome, tested. -/
def after (o : Host.Outcome State Fault Refusal) (p : State → Bool) : Bool := match o with | .next t => p t | _ => false

/-- An outcome that is a next state is one. -/
theorem next_of {o : Host.Outcome State Fault Refusal} (h : after o (fun _ => true) = true) : ∃ t, o = Host.Outcome.next t := by
  cases o with
  | next t => exact ⟨t, rfl⟩
  | fault f => simp [after] at h
  | refused r => simp [after] at h

/-- 17 R452: the last unit taken makes the polder the owner. -/
theorem test_down_takes_last : after (exec (.down 0 5 7) (sSem 1 0 0))
    (fun t => t.semValue 7 == 0 && t.semOwned 7 && t.fld (Reg.SEM_V 7) F.SEM_V_OWNER == 5) = true := by decide +kernel

/-- 17 R452: UP at the largest value answers 0x06. -/
theorem test_up_at_largest : after (exec (.up 0 5 7) (sSem 4294967295 0 0))
    (fun t => t.semValue 7 == 4294967295 && t.fld (Reg.SEM_RES 0) F.SEM_RES_STATUS == 6) = true := by decide +kernel

/-- 18 R484: a programmed slot is not programmed again. -/
theorem test_prog_key_twice : after (exec (.progKey 2) (otp 4 0 []))
    (fun t => t.fld Reg.OTP_STAT F.OTP_STAT_STATUS == 9 && t.fld Reg.OTP_STAT F.OTP_STAT_PROGRAMMED == 4) = true := by decide +kernel

/-- 17 R448: a quarantined polder's dikes are closed and its setpoint is 0. -/
theorem test_quarantine_closes : after (exec (.quarantine 5) sWarned)
    (fun t => t.fld (Reg.DK_P 5) F.DK_P_STATE == 4 && t.vset 5 == 0) = true := by decide +kernel

/-- 09 R247: an entry that does not fit before the end of the ring comes after a SKIP entry. -/
theorem test_request_after_skip : after (exec (.requestArrival 0) sRqSkip)
    (fun t => t.net.length == 1 && t.fld (Reg.CH_CFG 5 2 + 0x10) F.CH_PTR_WP == 256 + 32) = true := by decide +kernel

/-- 18 R462: a host put lands its bytes and counts them in the tally it names. -/
theorem test_hput_counts : after (exec (.hput true 0 5 0x40 (some 3) [1, 2, 3]) sHput)
    (fun t => t.tsRead 5 0x40 3 == [1, 2, 3] && t.rd (Reg.TALLY 5 3) == 3) = true := by decide +kernel

/-! ## The hypotheses of the statements are met -/

/-- An entry at the head of its queue, with nothing held back, starts. -/
theorem starts_head {s : State} {k : Nat} {e : Entry} {r : Queue} (hf : s.flagsBefore k e.ticket = false) (hn : (s.slot k).notes = [])
    (hc : ∀ f ∈ s.waitingCmds k (fun _ => true), s.cmdCheck k f.word = none) (h : s.atHead k e r) : s.starts k e (aft r e) :=
  ⟨hf, hn, hc, .inl ⟨r, h, rfl⟩⟩

/-- A frame that the lanes of port 1, or of Filic port 1, carry. -/
theorem air (l : Nat) (slots : List (List Byte × Nat)) (c : Nat) (hl : l = 32 ∨ l = 16) (hn : slots.length ≤ 15)
    (h : ∀ p ∈ slots, p.1.length = 256) (he : frameErrors (withParity (mkFrame slots c)) = []) :
    (fromWire l (toWire l (mkFrame slots c))).1 = mkFrame slots c := by
  have hf := length_mkFrame slots c hn h
  have hs : 4096 ≤ (scrambler 32).length ∧ 4096 ≤ (scrambler 16).length := by decide +kernel
  have hw : (withParity (mkFrame slots c)).length = 4096 := by rw [withParity, List.length_append, hf]; rfl
  rw [fromWire_toWire l _ hf (by rcases hl with rfl | rfl <;> omega) he]

theorem air_port (slots : List (List Byte × Nat)) (seq : Nat) (hn : slots.length ≤ 15) (h : ∀ p ∈ slots, p.1.length = 256)
    (he : frameErrors (withParity (frameIn slots seq)) = []) :
    (fromWire (sPortIn.port 1).rxLanes (wireIn (frameIn slots seq))).1 = frameIn slots seq :=
  air _ slots _ (.inl (by decide +kernel)) hn h he

theorem air_link (slots : List (List Byte × Nat)) (seq : Nat) (hn : slots.length ≤ 15) (h : ∀ p ∈ slots, p.1.length = 256)
    (he : frameErrors (withParity (flIn slots seq)) = []) :
    (fromWire (sFl.link 1).rxLanes (wireFl (flIn slots seq))).1 = flIn slots seq :=
  air _ slots _ (.inr (by decide +kernel)) hn h he

theorem air_p0 : (fromWire (sPortIn.port 1).rxLanes (wireIn (frameIn [] 0))).1 = frameIn [] 0 :=
  air_port [] 0 (by decide) (by decide) (by decide +kernel)
theorem air_p7 : (fromWire (sPortIn.port 1).rxLanes (wireIn (frameIn [slot7] 0))).1 = frameIn [slot7] 0 :=
  air_port [slot7] 0 (by decide) (by decide +kernel) (by decide +kernel)
theorem air_l0 : (fromWire (sFl.link 1).rxLanes (wireFl (flIn [] 0))).1 = flIn [] 0 :=
  air_link [] 0 (by decide) (by decide) (by decide +kernel)
theorem air_l9 : (fromWire (sFl.link 1).rxLanes (wireFl (flIn [slot3 9] 0))).1 = flIn [slot3 9] 0 :=
  air_link [slot3 9] 0 (by decide) (by decide +kernel) (by decide +kernel)
theorem air_l12 : (fromWire (sFl.link 1).rxLanes (wireFl (flIn [slot3 12] 0))).1 = flIn [slot3 12] 0 :=
  air_link [slot3 12] 0 (by decide) (by decide +kernel) (by decide +kernel)
theorem air_lb : (fromWire (sFl.link 1).rxLanes (wireFl (flIn [slotBad] 0))).1 = flIn [slotBad] 0 :=
  air_link [slotBad] 0 (by decide) (by decide +kernel) (by decide +kernel)


/-- States and operands that meet the hypotheses of Obligations.TransfersMade about the packet that a transfer makes, one for each kind. -/
theorem witness_TransfersMade_kinds :
    (hKind hCopy = some .copy) ∧
    (hKind hPut = some .put ∧ ((withStr hPut .running).chartsRun 5).behind (.core (hDcore hPut)) = false) ∧
    (hKind hPool = some .fetch ∧ hSrc hPool = 1 ∧ ((pooled (withStr hPool .running)).chartsRun 5).behind (.sector 0) = false ∧
      (pooled (withStr hPool .running)).poolBad 0 0x200 16 = false) ∧
    (hKind hFetch = some .fetch ∧ hSrc hFetch = 2 ∧ (((withStr hFetch .running (xl sRun))).chartsRun 5).secHit 0 0 0x200
      ⟨false, false, hBounded hFetch⟩ = some ⟨0, 0, false, pte0⟩ ∧ leafTarget pte0 false 0x200 = .em 0x200 ∧
      ((withStr hFetch .running (xl sRun)).chartsRun 5).place 0x200 = some ⟨0, 0x200, 0, 0⟩) ∧
    (hKind hOut = some .writeOut ∧ hDst hOut = 2 ∧ ((withStr hOut .running (xl sRun)).chartsRun 5).secHit 0 0 0x400
      ⟨true, false, hBounded hOut⟩ = some ⟨0, 0, false, pte0⟩ ∧ leafTarget pte0 false 0x400 = .em 0x400) := by
  refine ⟨?_, ?_, ?_, ?_, ?_⟩ <;> decide +kernel

/-- States that meet the hypotheses of Obligations.KernelsStart on the check of a launch: one that passes and one that fails. -/
theorem witness_KernelsStart_check :
    sKl.launchCheck 5 5 { sKl.slot 5 with kl := (List.range 8).map (fun n => sKl.rd (Reg.KL_REC 5 n)) } = none ∧
    sBusy.launchCheck 5 5 { sBusy.slot 5 with kl := (List.range 8).map (fun n => sBusy.rd (Reg.KL_REC 5 n)) } = some 9 := by
  constructor <;> decide +kernel

/-- States that meet the hypotheses of Obligations.SoundingsMade on the end of a sounding and on the retry of waiting work. -/
theorem witness_SoundingsMade_ends :
    ((busyS 8 false s0).stopped = false ∧ (busyS 8 false s0).repair.soundings.find? (fun x => x.polder == 8) = some ⟨8, 3, false⟩ ∧
      (busyS 8 false s0).drained [8] 8 = true) ∧
    ((busyS 72 false s0).repair.soundings.find? (fun x => x.polder == 72) = some ⟨72, 3, false⟩ ∧ (busyS 72 false s0).drained [72] 72 = true) ∧
    ((wait5 s0).repair.waiting[0]? = some ⟨false, 8, 0, false⟩ ∧ (wait5 s0).soundable 8 = true ∧ (wait5 s0).soundWaits 8 = false) := by
  refine ⟨?_, ?_, ?_⟩ <;> decide +kernel

theorem emLoad_ok (s : State) (c pa n : Nat) (bs : List Byte) (h : (s.emLoadBy .keep c pa n).1 = 0)
    (hb : (s.emLoadBy .keep c pa n).2.1 = bs) : s.emLoadBy .keep c pa n = (0, bs, (s.emLoadBy .keep c pa n).2.2) := by
  rw [← h, ← hb]

/-- A pilot in External Memory, read, that passes every check meets the hypotheses of Obligations.PilotAndOtp. -/
theorem witness_PilotAndOtp_pilot : sPilot.stopped = false ∧ sPilot.opts.hostCores ≤ 8 ∧ sPilot.asks = [] ∧ ∃ u v,
    sPilot.emLoadBy .keep (clsPrio 0) (sPilot.fld Reg.HC_FWADDR F.HC_FWADDR_PA) 128 = (0, pilotSigned.take 128, u) ∧
    u.emLoadBy .keep (clsPrio 0) (sPilot.fld Reg.HC_FWADDR F.HC_FWADDR_PA) (min (max (imLen (pilotSigned.take 128)) 128) pilotMax) =
      (0, pilotSigned, v) ∧ v.asks = [] ∧ v.pilotCheck (some pilotSigned) = none := by
  have ha : sPilot.fld Reg.HC_FWADDR F.HC_FWADDR_PA = 0 := by decide +kernel
  have hl : min (max (imLen (pilotSigned.take 128)) 128) pilotMax = 1024 := by decide +kernel
  rw [ha, hl]
  refine ⟨by decide +kernel, by decide +kernel, by decide +kernel, (sPilot.emLoadBy .keep (clsPrio 0) 0 128).2.2,
    ((sPilot.emLoadBy .keep (clsPrio 0) 0 128).2.2.emLoadBy .keep (clsPrio 0) 0 1024).2.2, ?_, ?_, ?_, ?_⟩
  · exact emLoad_ok _ _ _ _ _ (by decide +kernel) (by decide +kernel)
  · exact emLoad_ok _ _ _ _ _ (by decide +kernel) (by decide +kernel)
  · decide +kernel
  · decide +kernel

/-- States and operands that meet the hypotheses of Obligations.QueueServedInOrder, clause by clause. -/
theorem witness_QueueServedInOrder :
    (sBermed.pending = [] ∧ (sBermed.bermed = true ∨ sBermed.inReset = true)) ∧
    (s0.pending = [] ∧ s0.bermed = false ∧ s0.inReset = false ∧ s0.berm = none ∧ s0.hostWaits = [] ∧ (∀ x ∈ s0.slots, ∀ e ∈ x.2.sendM, e.woken = []) ∧
     (∀ x ∈ s0.hostSend, ∀ e ∈ x.2, e.woken = []) ∧ s0.drsHeld = []) ∧
    (sHeldW.pending = [] ∧ sHeldW.bermed = false ∧ sHeldW.inReset = false ∧ sHeldW.berm = none ∧ sHeldW.hostWaits = [] ∧
     (∀ x ∈ sHeldW.slots, ∀ e ∈ x.2.sendM, e.woken = []) ∧ (∀ x ∈ sHeldW.hostSend, ∀ e ∈ x.2, e.woken = [])) ∧
    (sBerm.pending = [] ∧ sBerm.bermed = false ∧ sBerm.inReset = false ∧ sBerm.berm = some (Berm.mk [(0, [1, 2])] [] 7)) ∧
    (sBermCheck.pending = [] ∧ sBermCheck.bermed = false ∧ sBermCheck.inReset = false ∧
     sBermCheck.berm = some (Berm.mk [] [(0, [1, 2, 3, 4, 5, 6, 7, 8])] 7)) ∧
    (sBermEnd.pending = [] ∧ sBermEnd.bermed = false ∧ sBermEnd.inReset = false ∧ sBermEnd.berm = some (Berm.mk [] [] 7)) ∧
    (2 ≤ sQ.pending.length) :=
  ⟨by decide +kernel,
    by decide +kernel,
    by decide +kernel,
    by decide +kernel,
    by decide +kernel,
    by decide +kernel,
    by decide +kernel⟩

/-- States and operands that meet the hypotheses of Obligations.BermInvKept, clause by clause. -/
theorem witness_BermInvKept :
    (sBermEnd.bermInv ∧ step sBermEnd = Host.Outcome.next sBermEnd1) :=
  ⟨by unfold State.bermInv; decide +kernel, rfl⟩

/-- States and operands that meet the hypotheses of Obligations.StoppedUntilReset, clause by clause. -/
theorem witness_StoppedUntilReset :
    ((∀ (b : BootIn), Instr.asw k5 ≠ Instr.resetN b) ∧ (∀ (mv : ℕ), Instr.asw k5 ≠ Instr.vkeepLow mv) ∧ sBerm.stopped = true) ∧
    (sBermEnd.bermInv ∧ (∀ (b : BootIn), Instr.resetN b ∉ sBermEnd.pending) ∧ step sBermEnd = Host.Outcome.next sBermEnd1 ∧ sBermEnd.stopped = true) ∧
    (sBermEnd.bermInv ∧ (∀ (b : BootIn), Instr.resetN b ∉ sBermEnd.pending) ∧ step sBermEnd = Host.Outcome.next sBermEnd1 ∧ sBermEnd.stopped = true ∧
     256 ≠ Reg.IO_STAT) ∧
    (sBermed.bermInv ∧ (∀ (b : BootIn), Instr.resetN b ∉ sBermed.pending) ∧ step sBermed = Host.Outcome.next sBermed ∧ sBermed.stopped = true ∧
     sBermed.bermed = true) ∧
    (core.run 1 sBermEnd = Host.Outcome.next sBermEnd1 ∧ sBermEnd.pending = [] ∧ sBermEnd.bermed = false ∧ sBermEnd.berm.isSome = true ∧
     sBermEnd1.bermed = true) :=
  ⟨⟨(by intro _ h; cases h), (by intro _ h; cases h), by decide +kernel⟩,
    ⟨by unfold State.bermInv; decide +kernel, fun b => (List.not_mem_nil : Instr.resetN b ∉ ([] : List Instr)), rfl, by decide +kernel⟩,
    ⟨by unfold State.bermInv; decide +kernel, fun b => (List.not_mem_nil : Instr.resetN b ∉ ([] : List Instr)), rfl, by decide +kernel⟩,
    ⟨by unfold State.bermInv; decide +kernel, fun b => (List.not_mem_nil : Instr.resetN b ∉ ([] : List Instr)), rfl, by decide +kernel⟩,
    ⟨rfl, by decide +kernel⟩⟩

/-- States and operands that meet the hypotheses of Obligations.BermSaveEnds, clause by clause. -/
theorem witness_BermSaveEnds :
    (sBerm.pending = [] ∧ sBerm.bermed = false ∧ sBerm.inReset = false ∧ sBerm.berm = some (Berm.mk [(0, [1, 2])] [] 7)) :=
  by decide +kernel

/-- States and operands that meet the hypotheses of Obligations.BermSaveStartsAndIsCut, clause by clause. -/
theorem witness_BermSaveStartsAndIsCut :
    (s0.stopped = false) ∧
    (s0.stopped = false ∧ 1500 < 1620) ∧
    (1200 < 1300 ∧ sBerm.berm.isSome = true) :=
  ⟨by decide +kernel,
    by decide +kernel,
    by decide +kernel⟩

/-- States and operands that meet the hypotheses of Obligations.ResetSequences, clause by clause. -/
theorem witness_ResetSequences :
    (bi.low = false) ∧
    (biLow.low = true) ∧
    (s0.stopped = false) ∧
    (sPep.stopped = false ∧ (sPep.rd (Reg.ZN_PEP 99) ≠ 0 ∨ sPep.fld Reg.RST_STAT F.RST_STAT_CAUSE ≠ 0)) ∧
    (s0.stopped = false ∧ s0.rd (Reg.ZN_PEP 99) = 0 ∧ s0.fld Reg.RST_STAT F.RST_STAT_CAUSE = 0) ∧
    (sWait.stopped = false ∧ sWait.bootWaits = true) ∧
    (s0.stopped = false ∧ s0.bootWaits = false) :=
  ⟨by decide +kernel,
    by decide +kernel,
    by decide +kernel,
    by decide +kernel,
    by decide +kernel,
    by decide +kernel,
    by decide +kernel⟩

/-- States and operands that meet the hypotheses of Obligations.StartsLeave, clause by clause. -/
theorem witness_StartsLeave :
    (bi.src < 4) ∧
    (sMess.reports = [] ∧ (∀ p ∈ sMess.ports, p.2.wrHeld = [] ∧ p.2.wrQ = [] ∧ p.2.wrOut = [])) ∧
    (sMess.reports = [] ∧ (∀ p ∈ sMess.ports, p.2.wrHeld = [] ∧ p.2.wrQ = [] ∧ p.2.wrOut = []) ∧ 5 < 72) :=
  ⟨by decide +kernel,
    by decide +kernel,
    by decide +kernel⟩

/-- States and operands that meet the hypotheses of Obligations.SupplyHeatAndClocks, clause by clause. -/
theorem witness_SupplyHeatAndClocks :
    (sWarned.stopped = false ∧ 1700 < 1710) ∧
    (sWarned.stopped = false ∧ 1740 ≤ 1740) ∧
    (sHot.stopped = false ∧ 125 ≤ sHot.fld (Reg.PACE_P ↑n5) F.PACE_P_TJ ∧ sHot.present ↑n5 = true) ∧
    (sTrain.stopped = false ∧ sTrain.opts.memPorts ≤ 20 ∧ sTrain.opts.linkPorts ≤ 8) ∧
    (sPhyOff.stopped = false ∧ sPhyOff.opts.memPorts ≤ 20 ∧ sPhyOff.opts.linkPorts ≤ 8 ∧ sPhyOff.phyOff = true) ∧
    (sBooted.stopped = false ∧ sBooted.opts.memPorts ≤ 20 ∧ sBooted.opts.linkPorts ≤ 8 ∧ sBooted.fld Reg.HA_STAT F.HA_STAT_STATE = 0 ∧
     sBooted.fld Reg.RST_STAT F.RST_STAT_PHASE ≠ 0) :=
  ⟨by decide +kernel,
    by decide +kernel,
    by decide +kernel,
    by decide +kernel,
    by decide +kernel,
    by decide +kernel⟩

/-- States and operands that meet the hypotheses of Obligations.ManagementPorts, clause by clause (part 1). -/
theorem witness_ManagementPorts_1 :
    (s0.stopped = false) ∧
    (s0.stopped = false ∧ s0.i3cAddr = none) ∧
    (sI3c.stopped = false ∧ sI3c.i3cAddr.isSome = true) ∧
    (s0.stopped = false ∧ 47 ≠ 46) ∧
    (sI3c.stopped = false ∧ sI3c.i3cAddr.isSome = true ∧ 4096 + 7 < 1048576) ∧
    (sI3c.stopped = false ∧ sI3c.i3cAddr.isSome = true ∧ i3cWritable Reg.LB_SEL = true) ∧
    (sI3c.stopped = false ∧ i3cWritable 4112 = false) :=
  ⟨by decide +kernel,
    by decide +kernel,
    by decide +kernel,
    by decide +kernel,
    by decide +kernel,
    by decide +kernel,
    by decide +kernel⟩

/-- States and operands that meet the hypotheses of Obligations.ManagementPorts, clause by clause (part 2). -/
theorem witness_ManagementPorts_2 :
    (sPmb.stopped = false) :=
  by decide +kernel

/-- States and operands that meet the hypotheses of Obligations.RegisterMapsSound, clause by clause. -/
theorem witness_RegisterMapsSound :
    (((regAt (Reg.NUM_STAT 5)).getD (RegDef.mk 0 0 0 []) ∈ devRegs ++ slotRegs ++ portRegs ++ linkRegs) ∧
     (RegField.mk 63 1 Access.w1c 0 ∈ ((regAt (Reg.NUM_STAT 5)).getD (RegDef.mk 0 0 0 [])).fields)) ∧
    (((regAt (Reg.NUM_STAT 5)).getD (RegDef.mk 0 0 0 []) ∈ devRegs ++ slotRegs ++ portRegs ++ linkRegs)) :=
  ⟨by decide +kernel,
    by decide +kernel⟩

/-- States and operands that meet the hypotheses of Obligations.AccessCodes, clause by clause. -/
theorem witness_AccessCodes :
    (((regAt (Reg.NUM_STAT 5)).getD (RegDef.mk 0 0 0 []) ∈ devRegs ++ slotRegs ++ portRegs ++ linkRegs) ∧
     (RegField.mk 63 1 Access.w1c 0 ∈ ((regAt (Reg.NUM_STAT 5)).getD (RegDef.mk 0 0 0 [])).fields)) :=
  by decide +kernel

/-- States and operands that meet the hypotheses of Obligations.RegisterWritesAct, clause by clause (part 1). -/
theorem witness_RegisterWritesAct_1 :
    (s0.stopped = false ∧ s0.flag Reg.OTP_STAT F.OTP_STAT_DEBUG_OPEN = false) ∧
    (s0.stopped = false ∧ 3 < 8 ∧ (9 = instrument → s0.flag Reg.OTP_STAT F.OTP_STAT_DEBUG_OPEN = true) ∧
     (Reg.AL_STAT ∈ [Reg.AL_STAT, Reg.AL_ROUTE, Reg.AL_HA_ADDR, Reg.LB_SEL, Reg.CP_CFG, Reg.BT_HADDR, Reg.HC_ENTRY, Reg.HC_FWADDR]) ∧
     regAt Reg.AL_STAT = some ((regAt Reg.AL_STAT).getD (RegDef.mk 0 0 0 []))) ∧
    (s0.stopped = false ∧ 3 < 8 ∧ (9 = instrument → s0.flag Reg.OTP_STAT F.OTP_STAT_DEBUG_OPEN = true) ∧
     s0.reachBy (drsAgent 9) (Reg.KL_REC (↑k5) 3) = Reach.ok) ∧
    (sShut.stopped = false ∧ 3 < 8 ∧ (9 = instrument → sShut.flag Reg.OTP_STAT F.OTP_STAT_DEBUG_OPEN = true) ∧
     sShut.reachBy (drsAgent 9) (Reg.KL_REC (↑k5) 3) = Reach.closed) ∧
    (sSluice.stopped = false ∧ 3 < 8 ∧ (9 = instrument → sSluice.flag Reg.OTP_STAT F.OTP_STAT_DEBUG_OPEN = true) ∧
     sSluice.reachBy (drsAgent 9) (Reg.KL_REC (↑k5) 3) = Reach.wait) ∧
    (sNum.stopped = false ∧ sNum.reach (Reg.NUM_STAT ↑k5) = Reach.ok) ∧
    (s0.stopped = false ∧ 77 < 2 ^ 31 ∧ ↑p1 < s0.opts.memPorts ∧
     ((ScoutRef.scout0 k5, Reg.SCOUT0 5) ∈ [(ScoutRef.scout0 k5, Reg.SCOUT0 ↑k5), (ScoutRef.scout1 k5, Reg.SCOUT1 ↑k5), (ScoutRef.nmu p1, Reg.NMU_SCOUT ↑p1)]) ∧
     s0.reach (ScoutRef.scout0 k5, Reg.SCOUT0 5).2 = Reach.ok) :=
  ⟨by decide +kernel,
    by decide +kernel,
    by decide +kernel,
    by decide +kernel,
    by decide +kernel,
    by decide +kernel,
    by decide +kernel⟩

/-- States and operands that meet the hypotheses of Obligations.RegisterWritesAct, clause by clause (part 2). -/
theorem witness_RegisterWritesAct_2 :
    (s0.stopped = false ∧ 77 < 2 ^ 31 ∧ ↑p1 < s0.opts.memPorts ∧
     ((ScoutRef.scout1 k5, Reg.SCOUT1 5) ∈ [(ScoutRef.scout0 k5, Reg.SCOUT0 ↑k5), (ScoutRef.scout1 k5, Reg.SCOUT1 ↑k5), (ScoutRef.nmu p1, Reg.NMU_SCOUT ↑p1)]) ∧
     s0.reach (ScoutRef.scout1 k5, Reg.SCOUT1 5).2 = Reach.ok) :=
  by decide +kernel

/-- States and operands that meet the hypotheses of Obligations.InterruptsTaken, clause by clause. -/
theorem witness_InterruptsTaken :
    (sIrq.stopped = false ∧ sIrq.runs (↑k5) false = true ∧ (sIrq.slot ↑k5).csrs.mie = true ∧ sIrq.pickIrq ↑k5 = some 3 ∧ (sIrq.slot ↑k5).tvec ≠ 0 ∧
     (sIrq.slot ↑k5).wfi = false) ∧
    (sWfi.issues (↑k5) false ∧ sWfi.fetches (↑k5) false 273678451 ∧ sWfi.pickIrq ↑k5 = none) ∧
    (sWfi1.issues (↑k5) false ∧ sWfi1.fetches (↑k5) false 273678451 ∧ (sWfi1.pickIrq ↑k5).isSome = true) ∧
    (sMret.issues (↑k5) false ∧ sMret.fetches (↑k5) false 807403635) ∧
    (s0.stopped = false ∧ s0.time < 2 ^ 63 ∧ s0.reach (Reg.CC_CTL ↑k5) = Reach.ok) ∧
    ((s0.wr (Reg.CC_TIMECMP 5) 1000).stopped = false ∧ (s0.wr (Reg.CC_TIMECMP 5) 1000).time < 2 ^ 63 ∧
     BitVec.toNat ((s0.wr (Reg.CC_TIMECMP 5) 1000).rd (Reg.CC_TIMECMP ↑k5)) < 2 ^ 63) :=
  ⟨by decide +kernel,
    ⟨by unfold State.issues; decide +kernel, by unfold State.fetches; decide +kernel, by decide +kernel⟩,
    ⟨by unfold State.issues; decide +kernel, by unfold State.fetches; decide +kernel, by decide +kernel⟩,
    ⟨by unfold State.issues; decide +kernel, by unfold State.fetches; decide +kernel⟩,
    by decide +kernel,
    by decide +kernel⟩

/-- States and operands that meet the hypotheses of Obligations.InstructionsRetire, clause by clause. -/
theorem witness_InstructionsRetire :
    (sAddi.issues (↑k5) true ∧
     (sAddi.slot ↑k5).fetch (BitVec.toNat (sAddi.pc (↑k5) true)) = Except.ok (Fetched.mk (some (encI 4095 1 0 3 19)) (encI 4095 1 0 3 19) 4) ∧
     sAddi.ncxAt (↑k5) true = none ∧
     (true = true ∨ (Fetched.mk (some (encI 4095 1 0 3 19)) (encI 4095 1 0 3 19) 4).word ≠ some 273678451 ∧ (Fetched.mk (some (encI 4095 1 0 3 19)) (encI 4095 1 0 3 19) 4).word ≠ some 807403635) ∧
     sAddi.rvExec (↑k5) true (Fetched.mk (some (encI 4095 1 0 3 19)) (encI 4095 1 0 3 19) 4) = Except.ok ((sAddi.setX 5 true 3 263).setPc 5 true 4)) ∧
    (sAddi.issues (↑k5) false ∧
     (sAddi.slot ↑k5).fetch (BitVec.toNat (sAddi.pc (↑k5) false)) = Except.ok (Fetched.mk (some (encI 4095 1 0 3 19)) (encI 4095 1 0 3 19) 4) ∧
     sAddi.ncxAt (↑k5) false = none ∧
     (false = true ∨ (Fetched.mk (some (encI 4095 1 0 3 19)) (encI 4095 1 0 3 19) 4).word ≠ some 273678451 ∧ (Fetched.mk (some (encI 4095 1 0 3 19)) (encI 4095 1 0 3 19) 4).word ≠ some 807403635) ∧
     sAddi.rvExec (↑k5) false (Fetched.mk (some (encI 4095 1 0 3 19)) (encI 4095 1 0 3 19) 4) = Except.ok ((sAddi.setX 5 false 3 255).setPc 5 false 4)) ∧
    (sAddi.issues (↑k5) false ∧ sAddi.fetches (↑k5) false (encI 4095 1 0 3 19) ∧ 3 < 32 ∧ 1 < 32 ∧ 2 < 32 ∧ 4095 < 4096) ∧
    (sAddi.issues (↑k5) true ∧ sAddi.fetches (↑k5) true (encI 4095 1 0 3 19) ∧ 3 < 32 ∧ 1 < 32 ∧ 2 < 32 ∧ 4095 < 4096) ∧
    (sAdd.issues (↑k5) false ∧ sAdd.fetches (↑k5) false (encR 0 2 1 0 3 51) ∧ 3 < 32 ∧ 1 < 32 ∧ 2 < 32 ∧ 4095 < 4096) ∧
    (sSub.issues (↑k5) false ∧ sSub.fetches (↑k5) false (encR 32 2 1 0 0 51) ∧ 0 < 32 ∧ 1 < 32 ∧ 2 < 32 ∧ 4095 < 4096) ∧
    (sLui.issues (↑k5) false ∧ sLui.fetches (↑k5) false (1048575 * 2 ^ 12 + 3 * 2 ^ 7 + 55) ∧ 3 < 32 ∧ 1 < 32 ∧ 2 < 32 ∧ 4095 < 4096 ∧
     1048575 < 2 ^ 20) :=
  ⟨⟨by unfold State.issues; decide +kernel, by decide +kernel⟩,
    ⟨by unfold State.issues; decide +kernel, by decide +kernel⟩,
    ⟨by unfold State.issues; decide +kernel, by unfold State.fetches; decide +kernel, by decide +kernel⟩,
    ⟨by unfold State.issues; decide +kernel, by unfold State.fetches; decide +kernel, by decide +kernel⟩,
    ⟨by unfold State.issues; decide +kernel, by unfold State.fetches; decide +kernel, by decide +kernel⟩,
    ⟨by unfold State.issues; decide +kernel, by unfold State.fetches; decide +kernel, by decide +kernel⟩,
    ⟨by unfold State.issues; decide +kernel, by unfold State.fetches; decide +kernel, by decide +kernel⟩⟩

/-- States and operands that meet the hypotheses of Obligations.LoadsAndStores, clause by clause (part 1). -/
theorem witness_LoadsAndStores_1 :
    (sLd.issues (↑k5) false ∧ sLd.fetches (↑k5) false (encI 8 1 3 3 3) ∧ 3 < 32 ∧ 1 < 32 ∧ 2 < 32 ∧ 8 < 4096 ∧
     BitVec.toNat (sLd.getX (↑k5) false 1 + BitVec.signExtend 64 8#12) = 264 ∧
     ((3, 8, true) ∈ [(0, 1, true), (1, 2, true), (2, 4, true), (3, 8, true), (4, 1, false), (5, 2, false), (6, 4, false)]) ∧ 264 % 8 = 0 ∧
     264 + 8 ≤ 8388608) ∧
    (sLbu.issues (↑k5) false ∧ sLbu.fetches (↑k5) false (encI 4095 1 4 3 3) ∧ 3 < 32 ∧ 1 < 32 ∧ 2 < 32 ∧ 4095 < 4096 ∧
     BitVec.toNat (sLbu.getX (↑k5) false 1 + BitVec.signExtend 64 4095#12) = 255 ∧
     ((4, 1, false) ∈ [(0, 1, true), (1, 2, true), (2, 4, true), (3, 8, true), (4, 1, false), (5, 2, false), (6, 4, false)]) ∧ 255 % 1 = 0 ∧
     255 + 1 ≤ 8388608) ∧
    (sSd.issues (↑k5) false ∧ sSd.fetches (↑k5) false (encS 8 2 1 3 35) ∧ 3 < 32 ∧ 1 < 32 ∧ 2 < 32 ∧ 8 < 4096 ∧
     BitVec.toNat (sSd.getX (↑k5) false 1 + BitVec.signExtend 64 8#12) = 264 ∧ 3 < 4 ∧ 264 % 2 ^ 3 = 0 ∧ 264 + 2 ^ 3 ≤ 8388608) ∧
    (sSh.issues (↑k5) false ∧ sSh.fetches (↑k5) false (encS 8 2 1 1 35) ∧ 3 < 32 ∧ 1 < 32 ∧ 2 < 32 ∧ 8 < 4096 ∧
     BitVec.toNat (sSh.getX (↑k5) false 1 + BitVec.signExtend 64 8#12) = 264 ∧ 1 < 4 ∧ 264 % 2 ^ 1 = 0 ∧ 264 + 2 ^ 1 ≤ 8388608) ∧
    ((sAmo 8 0 2).issues (↑k5) false ∧ (sAmo 8 0 2).fetches (↑k5) false (encR (4 * 2 + 0) 0 1 2 3 47) ∧ 3 < 32 ∧ 1 < 32 ∧ 0 < 32 ∧ 0 < 4 ∧
     (2 = 2 ∧ 4 = 4 ∨ 2 = 3 ∧ 4 = 8) ∧ BitVec.toNat ((sAmo 8 0 2).getX (↑k5) false 1) = 256 ∧ 256 % 4 = 0 ∧ 256 + 4 ≤ 8388608) ∧
    ((sAmo 13 2 3).issues (↑k5) false ∧ (sAmo 13 2 3).fetches (↑k5) false (encR (4 * 3 + 1) 2 1 3 3 47) ∧ 3 < 32 ∧ 1 < 32 ∧ 2 < 32 ∧ 1 < 4 ∧
     (3 = 2 ∧ 8 = 4 ∨ 3 = 3 ∧ 8 = 8) ∧ BitVec.toNat ((sAmo 13 2 3).getX (↑k5) false 1) = 256 ∧ 256 % 8 = 0 ∧ 256 + 8 ≤ 8388608) ∧
    ((sAmo 0 2 2).issues (↑k5) false ∧ (sAmo 0 2 2).fetches (↑k5) false (encR (4 * 0 + 0) 2 1 2 3 47) ∧ 3 < 32 ∧ 1 < 32 ∧ 2 < 32 ∧ 0 < 4 ∧
     (2 = 2 ∧ 4 = 4 ∨ 2 = 3 ∧ 4 = 8) ∧ BitVec.toNat ((sAmo 0 2 2).getX (↑k5) false 1) = 256 ∧ 256 % 4 = 0 ∧ 256 + 4 ≤ 8388608 ∧
     amoOp 0 (8 * 4) ((sAmo 0 2 2).tsLE (↑k5) 256 4) (BitVec.toNat ((sAmo 0 2 2).getX (↑k5) false 2) % 2 ^ (8 * 4)) = some 4) :=
  ⟨⟨by unfold State.issues; decide +kernel, by unfold State.fetches; decide +kernel, by decide +kernel⟩,
    ⟨by unfold State.issues; decide +kernel, by unfold State.fetches; decide +kernel, by decide +kernel⟩,
    ⟨by unfold State.issues; decide +kernel, by unfold State.fetches; decide +kernel, by decide +kernel⟩,
    ⟨by unfold State.issues; decide +kernel, by unfold State.fetches; decide +kernel, by decide +kernel⟩,
    ⟨by unfold State.issues; decide +kernel, by unfold State.fetches; decide +kernel, by decide +kernel⟩,
    ⟨by unfold State.issues; decide +kernel, by unfold State.fetches; decide +kernel, by decide +kernel⟩,
    ⟨by unfold State.issues; decide +kernel, by unfold State.fetches; decide +kernel, by decide +kernel⟩⟩

/-- States and operands that meet the hypotheses of Obligations.LoadsAndStores, clause by clause (part 2). -/
theorem witness_LoadsAndStores_2 :
    (sMis.issues (↑k5) false ∧ (sMis.fetches (↑k5) false (if false = true then encS 9 2 1 3 35 else encI 9 1 3 3 3)) ∧ (sMis.slot ↑k5).tvec ≠ 0 ∧
     3 < 32 ∧ 1 < 32 ∧ 2 < 32 ∧ 9 < 4096 ∧ BitVec.toNat (sMis.getX (↑k5) false 1 + BitVec.signExtend 64 9#12) = 265 ∧ 3 < 4 ∧
     (265 % 2 ^ 3 ≠ 0 ∨ 8388608 < 265 + 2 ^ 3)) ∧
    (sMisS.issues (↑k5) false ∧ (sMisS.fetches (↑k5) false (if true = true then encS 9 2 1 1 35 else encI 9 1 1 3 3)) ∧ (sMisS.slot ↑k5).tvec ≠ 0 ∧
     3 < 32 ∧ 1 < 32 ∧ 2 < 32 ∧ 9 < 4096 ∧ BitVec.toNat (sMisS.getX (↑k5) false 1 + BitVec.signExtend 64 9#12) = 265 ∧ 1 < 4 ∧
     (265 % 2 ^ 1 ≠ 0 ∨ 8388608 < 265 + 2 ^ 1)) :=
  ⟨⟨by unfold State.issues; decide +kernel, by unfold State.fetches; decide +kernel, by decide +kernel⟩,
    ⟨by unfold State.issues; decide +kernel, by unfold State.fetches; decide +kernel, by decide +kernel⟩⟩

/-- States and operands that meet the hypotheses of Obligations.ExceptionsTrapOrEnd, clause by clause. -/
theorem witness_ExceptionsTrapOrEnd :
    (sIllT.issues (↑k5) false ∧ (sIllT.slot ↑k5).fetch (BitVec.toNat (sIllT.pc (↑k5) false)) = Except.ok (Fetched.mk (some 4294967295) 4294967295 4) ∧
     sIllT.ncxAt (↑k5) false = none ∧
     (false = true ∨ (Fetched.mk (some 4294967295) 4294967295 4).word ≠ some 273678451 ∧ (Fetched.mk (some 4294967295) 4294967295 4).word ≠ some 807403635) ∧
     sIllT.rvExec (↑k5) false (Fetched.mk (some 4294967295) 4294967295 4) = Except.error (2, 4294967295) ∧ 2 < 64 ∧ (sIllT.slot ↑k5).tvec ≠ 0) ∧
    (sIllT.issues (↑k5) true ∧ (sIllT.slot ↑k5).fetch (BitVec.toNat (sIllT.pc (↑k5) true)) = Except.ok (Fetched.mk (some 4294967295) 4294967295 4) ∧
     sIllT.ncxAt (↑k5) true = none ∧
     (true = true ∨ (Fetched.mk (some 4294967295) 4294967295 4).word ≠ some 273678451 ∧ (Fetched.mk (some 4294967295) 4294967295 4).word ≠ some 807403635) ∧
     sIllT.rvExec (↑k5) true (Fetched.mk (some 4294967295) 4294967295 4) = Except.error (2, 4294967295) ∧ 2 < 64 ∧
     (true = true ∨ (sIllT.slot ↑k5).tvec = 0)) ∧
    (sIll.issues (↑k5) false ∧ (sIll.slot ↑k5).fetch (BitVec.toNat (sIll.pc (↑k5) false)) = Except.ok (Fetched.mk (some 4294967295) 4294967295 4) ∧
     sIll.ncxAt (↑k5) false = none ∧
     (false = true ∨ (Fetched.mk (some 4294967295) 4294967295 4).word ≠ some 273678451 ∧ (Fetched.mk (some 4294967295) 4294967295 4).word ≠ some 807403635) ∧
     sIll.rvExec (↑k5) false (Fetched.mk (some 4294967295) 4294967295 4) = Except.error (2, 4294967295) ∧ 2 < 64 ∧
     (false = true ∨ (sIll.slot ↑k5).tvec = 0)) :=
  ⟨⟨by unfold State.issues; decide +kernel, by decide +kernel⟩,
    ⟨by unfold State.issues; decide +kernel, by decide +kernel⟩,
    ⟨by unfold State.issues; decide +kernel, by decide +kernel⟩⟩

/-- States and operands that meet the hypotheses of Obligations.IssueEntersQueue, clause by clause. -/
theorem witness_IssueEntersQueue :
    (sIssue.issues (↑k5) false ∧ sIssue.fetches (↑k5) false (ncxWord 2 1 0 3) ∧ 3 < 32 ∧ 1 < 32 ∧ 2 < 32 ∧
     cmd 2810246167479189504 5 = sIssue.getX (↑k5) false 1 ++ sIssue.getX (↑k5) false 2 ∧ opcode (cmd 2810246167479189504 5) ≠ 144 ∧
     (¬(160 ≤ opcode (cmd 2810246167479189504 5) ∧ opcode (cmd 2810246167479189504 5) ≤ 175)) ∧
     routeOf (opcode (cmd 2810246167479189504 5)) = some QSel.xq) ∧
    (sFull.issues (↑k5) false ∧ sFull.fetches (↑k5) false (ncxWord 2 1 0 3) ∧ 3 < 32 ∧ 1 < 32 ∧ 2 < 32 ∧
     cmd 2810246167479189504 5 = sFull.getX (↑k5) false 1 ++ sFull.getX (↑k5) false 2 ∧ opcode (cmd 2810246167479189504 5) ≠ 144 ∧
     (¬(160 ≤ opcode (cmd 2810246167479189504 5) ∧ opcode (cmd 2810246167479189504 5) ≤ 175)) ∧
     routeOf (opcode (cmd 2810246167479189504 5)) = some QSel.xq ∧ sFull.hasSpace (↑k5) QSel.xq = false) ∧
    (sNone.issues (↑k5) false ∧ sNone.fetches (↑k5) false (ncxWord 2 1 0 3) ∧ 3 < 32 ∧ 1 < 32 ∧ 2 < 32 ∧
     cmd 72057594037927936 5 = sNone.getX (↑k5) false 1 ++ sNone.getX (↑k5) false 2 ∧ opcode (cmd 72057594037927936 5) ≠ 144 ∧
     (¬(160 ≤ opcode (cmd 72057594037927936 5) ∧ opcode (cmd 72057594037927936 5) ≤ 175)) ∧ routeOf (opcode (cmd 72057594037927936 5)) = none ∧
     (sNone.slot ↑k5).tvec ≠ 0) ∧
    (sHand.issues (↑k5) true ∧ sHand.fetches (↑k5) true (ncxWord 2 1 0 3) ∧ 3 < 32 ∧ 1 < 32 ∧ 2 < 32 ∧
     cmd 11529215046068469760 5 = sHand.getX (↑k5) true 1 ++ sHand.getX (↑k5) true 2 ∧ opcode (cmd 11529215046068469760 5) ≠ 161) ∧
    (sHand2.issues (↑k5) true ∧ sHand2.fetches (↑k5) true (ncxWord 2 1 0 3) ∧ 3 < 32 ∧ 1 < 32 ∧ 2 < 32 ∧
     cmd 2810246167479189504 5 = sHand2.getX (↑k5) true 1 ++ sHand2.getX (↑k5) true 2 ∧ opcode (cmd 2810246167479189504 5) ≠ 161) ∧
    (sWpt.issues (↑k5) false ∧ sWpt.fetches (↑k5) false (ncxWord 2 1 0 3) ∧
     (∀ (q : QSel), (sWpt.queueNow (↑k5) q).ringLen = 0 ∧ (sWpt.queueNow (↑k5) q).onchip.length < 64) ∧ 3 < 32 ∧ 1 < 32 ∧ 2 < 32 ∧
     cmd 10376293541461622784 5 = sWpt.getX (↑k5) false 1 ++ sWpt.getX (↑k5) false 2 ∧ opcode (cmd 10376293541461622784 5) = 144 ∧
     ((sWpt.slot ↑k5).wptIssued % 2 ^ 16 + 2 ^ 16 - sWpt.fld (Reg.WPT_STAT ↑k5) F.WPT_STAT_PASSED) % 2 ^ 16 < 32767) :=
  ⟨⟨by unfold State.issues; decide +kernel, by unfold State.fetches; decide +kernel, by decide +kernel⟩,
    ⟨by unfold State.issues; decide +kernel, by unfold State.fetches; decide +kernel, by decide +kernel⟩,
    ⟨by unfold State.issues; decide +kernel, by unfold State.fetches; decide +kernel, by decide +kernel⟩,
    ⟨by unfold State.issues; decide +kernel, by unfold State.fetches; decide +kernel, by decide +kernel⟩,
    ⟨by unfold State.issues; decide +kernel, by unfold State.fetches; decide +kernel, by decide +kernel⟩,
    ⟨by unfold State.issues; decide +kernel, by unfold State.fetches; decide +kernel, by intro q; cases q <;> decide +kernel, by decide +kernel⟩⟩

/-- States and operands that meet the hypotheses of Obligations.NcxCountsAndControls, clause by clause (part 1). -/
theorem witness_NcxCountsAndControls_1 :
    ((doneS 1 0 0).issues (↑k5) false ∧ (doneS 1 0 0).fetches (↑k5) false (ncxWord 2 1 1 3) ∧ 3 < 32 ∧ 1 < 32 ∧ 2 < 32) ∧
    ((doneS 2 0 0).issues (↑k5) true ∧ (doneS 2 0 0).fetches (↑k5) true (ncxWord 2 1 2 3) ∧ 3 < 32 ∧ 1 < 32 ∧ 2 < 32) ∧
    ((doneS 3 6 0).issues (↑k5) false ∧ (doneS 3 6 0).fetches (↑k5) false (ncxWord 2 1 3 3) ∧ 3 < 32 ∧ 1 < 32 ∧ 2 < 32 ∧
     (QSel.xq = if BitVec.toNat ((doneS 3 6 0).getX (↑k5) false 2) % 2 = 0 then QSel.xq else QSel.fq) ∧
     0 ≤ Machine.sdiff 32 (((doneS 3 6 0).queueNow (↑k5) QSel.xq).done % 2 ^ 32) (BitVec.toNat ((doneS 3 6 0).getX (↑k5) false 1) % 2 ^ 32)) ∧
    (sStop.issues (↑k5) false ∧ sStop.fetches (↑k5) false (ncxWord 2 1 3 3) ∧ 3 < 32 ∧ 1 < 32 ∧ 2 < 32 ∧
     (QSel.xq = if BitVec.toNat (sStop.getX (↑k5) false 2) % 2 = 0 then QSel.xq else QSel.fq) ∧
     Machine.sdiff 32 ((sStop.queueNow (↑k5) QSel.xq).done % 2 ^ 32) (BitVec.toNat (sStop.getX (↑k5) false 1) % 2 ^ 32) < 0 ∧
     sStop.stopped? (↑k5) QSel.xq = true) ∧
    ((doneS 3 8 1).issues (↑k5) false ∧ (doneS 3 8 1).fetches (↑k5) false (ncxWord 2 1 3 3) ∧ 3 < 32 ∧ 1 < 32 ∧ 2 < 32 ∧
     (QSel.fq = if BitVec.toNat ((doneS 3 8 1).getX (↑k5) false 2) % 2 = 0 then QSel.xq else QSel.fq) ∧
     Machine.sdiff 32 (((doneS 3 8 1).queueNow (↑k5) QSel.fq).done % 2 ^ 32) (BitVec.toNat ((doneS 3 8 1).getX (↑k5) false 1) % 2 ^ 32) < 0 ∧
     (doneS 3 8 1).stopped? (↑k5) QSel.fq = false) ∧
    ((ncxS 4 1 0).issues (↑k5) false ∧ (ncxS 4 1 0).fetches (↑k5) false (ncxWord 2 1 4 3) ∧ 3 < 32 ∧ 1 < 32 ∧ 2 < 32) ∧
    ((ncxS 4 0 0).issues (↑k5) false ∧ (ncxS 4 0 0).fetches (↑k5) false (ncxWord 2 1 4 3) ∧ 3 < 32 ∧ 1 < 32 ∧ 2 < 32) :=
  ⟨⟨by unfold State.issues; decide +kernel, by unfold State.fetches; decide +kernel, by decide +kernel⟩,
    ⟨by unfold State.issues; decide +kernel, by unfold State.fetches; decide +kernel, by decide +kernel⟩,
    ⟨by unfold State.issues; decide +kernel, by unfold State.fetches; decide +kernel, by decide +kernel⟩,
    ⟨by unfold State.issues; decide +kernel, by unfold State.fetches; decide +kernel, by decide +kernel⟩,
    ⟨by unfold State.issues; decide +kernel, by unfold State.fetches; decide +kernel, by decide +kernel⟩,
    ⟨by unfold State.issues; decide +kernel, by unfold State.fetches; decide +kernel, by decide +kernel⟩,
    ⟨by unfold State.issues; decide +kernel, by unfold State.fetches; decide +kernel, by decide +kernel⟩⟩

/-- States and operands that meet the hypotheses of Obligations.NcxCountsAndControls, clause by clause (part 2). -/
theorem witness_NcxCountsAndControls_2 :
    ((sXres 1).issues (↑k5) false ∧ (sXres 1).fetches (↑k5) false (ncxWord 2 1 5 3) ∧ 3 < 32 ∧ 1 < 32 ∧ 2 < 32 ∧
     (QSel.xq = if BitVec.toNat ((sXres 1).getX (↑k5) false 2) % 2 = 0 then QSel.xq else QSel.fq) ∧ (sXres 1).stopped? (↑k5) QSel.xq = true) ∧
    ((sXres 0).issues (↑k5) false ∧ (sXres 0).fetches (↑k5) false (ncxWord 2 1 5 3) ∧ 3 < 32 ∧ 1 < 32 ∧ 2 < 32 ∧
     (QSel.xq = if BitVec.toNat ((sXres 0).getX (↑k5) false 2) % 2 = 0 then QSel.xq else QSel.fq) ∧ (sXres 0).stopped? (↑k5) QSel.xq = true) ∧
    ((ncxS 6 1 0).issues (↑k5) true ∧ (ncxS 6 1 0).fetches (↑k5) true (ncxWord 2 1 6 3) ∧ 3 < 32 ∧ 1 < 32 ∧ 2 < 32) ∧
    ((ncxS 7 16 0).issues (↑k5) false ∧ (ncxS 7 16 0).fetches (↑k5) false (ncxWord 2 1 7 3) ∧ 3 < 32 ∧ 1 < 32 ∧ 2 < 32) :=
  ⟨⟨by unfold State.issues; decide +kernel, by unfold State.fetches; decide +kernel, by decide +kernel⟩,
    ⟨by unfold State.issues; decide +kernel, by unfold State.fetches; decide +kernel, by decide +kernel⟩,
    ⟨by unfold State.issues; decide +kernel, by unfold State.fetches; decide +kernel, by decide +kernel⟩,
    ⟨by unfold State.issues; decide +kernel, by unfold State.fetches; decide +kernel, by decide +kernel⟩⟩

/-- States and operands that meet the hypotheses of Obligations.QueuesProgress, clause by clause. -/
theorem witness_QueuesProgress :
    (sDisp.stopped = false ∧ sDisp.closed ↑k5 = false ∧ sDisp.reliefStop ↑k5 = false ∧ (sDisp.slot ↑k5).ending = Ending.no ∧ sDisp.klState ↑k5 = 2 ∧
     (sDisp.slot ↑k5).hrun = false ∧ (sDisp.slot ↑k5).hvec ≠ 0 ∧ (sDisp.slot ↑k5).hpend = [(2, 512), (4, 768)] ∧ (∀ p ∈ [(4, 768)], p.1 ≠ 2)) ∧
    (sSpill.stopped = false ∧ 2 ≤ sSpill.klState ↑k5 ∧ (sSpill.queueNow (↑k5) (qOf false)).onchip.length ≤ 56 ∧
     0 < (sSpill.queueNow (↑k5) (qOf false)).ringLen) ∧
    (sWork.stopped = false ∧
     (List.find? (fun x => x.entry.ticket == 3) (sWork.queue (↑k5) (qOf false)).inflight = some (Inflight.mk (q0 39 3) (Phase.working 5))) ∧
     BitVec.toNat (sWork.rd (Reg.VE_ELEM ↑k5)) + 5 < 2 ^ 64) ∧
    (sMark.stopped = false ∧ 9 < 2 ^ 16 ∧
     (sMark.view 5 QSel.xq = if sMark.accepting (↑k5) QSel.xq = true then sMark.view (↑k5) QSel.xq else sMark.queue (↑k5) QSel.xq) ∧
     (sMark.view 5 QSel.xq).firstMarker = some (Entry.mk 4 (BitVec.ofNat 128 (144 * 2 ^ 120)) 9, 9) ∧
     (∀ f ∈ (sMark.view 5 QSel.xq).inflight, f.entry.ticket < (Entry.mk 4 (BitVec.ofNat 128 (144 * 2 ^ 120)) 9).ticket → f.phase = Phase.done ∨ cb (Entry.mk 4 (BitVec.ofNat 128 (144 * 2 ^ 120)) 9).word 119 = false ∧ f.phase ≠ Phase.waiting)) :=
  ⟨by decide +kernel,
    by decide +kernel,
    by decide +kernel,
    by decide +kernel⟩

/-- States and operands that meet the hypotheses of Obligations.KernelsStart, clause by clause. -/
theorem witness_KernelsStart :
    (sBusy.stopped = false ∧ sBusy.reach (Reg.KL_CTL ↑k5) = Reach.ok ∧ sBusy.coreOf ↑k5 = some 5) ∧
    (sKl.stopped = false ∧ sKl.reach (Reg.KL_CTL ↑k5) = Reach.ok ∧ sKl.coreOf ↑k5 = some 5) ∧
    (sLaunched.stopped = false ∧ sLaunched.klState ↑k5 = 1 ∧ (sLaunched.slot ↑k5).ending = Ending.no ∧ sLaunched.closed ↑k5 = false ∧
     sLaunched.reliefStop ↑k5 = false ∧ sLaunched.passages = []) :=
  ⟨by decide +kernel,
    by decide +kernel,
    by decide +kernel⟩

/-- States and operands that meet the hypotheses of Obligations.KernelsEnd, clause by clause. -/
theorem witness_KernelsEnd :
    (sEnded.stopped = false ∧ 7 < 256 ∧ sEnded.passages = [] ∧
     ((sEnded.slot ↑k5).ending = Ending.kend 7 ∧ sEnded.quiet ↑k5 = true ∨ (∃ ab, (sEnded.slot ↑k5).ending = Ending.stop 7 ab) ∧ (sEnded.slot ↑k5).halt = HaltPhase.halted ∧ sEnded.fld (Reg.TILE_STAT ↑k5) F.TILE_STAT_SR_STATE = 0 ∧ sEnded.fld (Reg.VR_SAVE ↑k5) F.VR_SAVE_STATE = 0)) ∧
    (sAborted.stopped = false ∧ 2 < 256 ∧ sAborted.passages = [] ∧
     ((sAborted.slot ↑k5).ending = Ending.kend 2 ∧ sAborted.quiet ↑k5 = true ∨ (∃ ab, (sAborted.slot ↑k5).ending = Ending.stop 2 ab) ∧ (sAborted.slot ↑k5).halt = HaltPhase.halted ∧ sAborted.fld (Reg.TILE_STAT ↑k5) F.TILE_STAT_SR_STATE = 0 ∧ sAborted.fld (Reg.VR_SAVE ↑k5) F.VR_SAVE_STATE = 0)) ∧
    (s0.stopped = false ∧ s0.reach (Reg.KL_CTL ↑k5) = Reach.ok ∧ s0.klState ↑k5 = 0) ∧
    ((∀ (st : ℕ) (ab : Bool), ((xq (mk 39 [])).slot ↑k5).ending ≠ Ending.stop st ab) ∧ (xq (mk 39 [])).stopped = false ∧
     (xq (mk 39 [])).reach (Reg.KL_CTL ↑k5) = Reach.ok ∧ (xq (mk 39 [])).klState ↑k5 ≠ 0) :=
  ⟨by decide +kernel,
    by decide +kernel,
    by decide +kernel,
    ⟨by intro st ab; rw [show ((xq (mk 39 [])).slot ↑k5).ending = Ending.no by decide +kernel]; simp, by decide +kernel⟩⟩

/-- States and operands that meet the hypotheses of Obligations.TileHaltsAndSaves, clause by clause (part 1). -/
theorem witness_TileHaltsAndSaves_1 :
    (sRun.stopped = false ∧ sRun.reach (Reg.TILE_CTL ↑k5) = Reach.ok) ∧
    (sHalted.stopped = false ∧ sHalted.reach (Reg.TILE_CTL ↑k5) = Reach.ok) ∧
    (sBusySR.stopped = false ∧ sBusySR.reach (Reg.TILE_CTL ↑k5) = Reach.ok) ∧
    (sHalting.stopped = false ∧ (sHalting.slot ↑k5).halt = HaltPhase.halting ∧
     (((sHalting.queue (↑k5) QSel.xq).inflight.any fun e => e.phase == Phase.relSent 0) = false)) ∧
    (sHalting.stopped = false ∧ (sHalting.slot ↑k5).halt = HaltPhase.halting ∧ (sHalting.queue (↑k5) QSel.xq).inflight = [] ∧
     (sHalting.slot ↑k5).notes = []) ∧
    (sBusySR.stopped = false ∧ sBusySR.reach (Reg.TILE_CTL ↑k5) = Reach.ok ∧
     (135 = 135 ∧ sBusySR.fld (Reg.TILE_STAT ↑k5) F.TILE_STAT_SR_STATE ≠ 0 ∨ 135 = 130 ∧ sBusySR.fld (Reg.TILE_STAT ↑k5) F.TILE_STAT_SR_STATE = 0 ∧ sBusySR.fld (Reg.TILE_SAVE ↑k5) F.TILE_SAVE_ADDR % 128 ≠ 0 ∨ 135 = 4 ∧ sBusySR.fld (Reg.TILE_STAT ↑k5) F.TILE_STAT_SR_STATE = 0 ∧ sBusySR.fld (Reg.TILE_SAVE ↑k5) F.TILE_SAVE_ADDR % 128 = 0 ∧ 8388608 < sBusySR.fld (Reg.TILE_SAVE ↑k5) F.TILE_SAVE_ADDR + 266496 ∨ 135 = 133 ∧ sBusySR.fld (Reg.TILE_STAT ↑k5) F.TILE_STAT_SR_STATE = 0 ∧ sBusySR.fld (Reg.TILE_SAVE ↑k5) F.TILE_SAVE_ADDR % 128 = 0 ∧ sBusySR.fld (Reg.TILE_SAVE ↑k5) F.TILE_SAVE_ADDR + 266496 ≤ 8388608 ∧ (sBusySR.slot ↑k5).halt ≠ HaltPhase.halted)) ∧
    (sBadA.stopped = false ∧ sBadA.reach (Reg.TILE_CTL ↑k5) = Reach.ok ∧
     (130 = 135 ∧ sBadA.fld (Reg.TILE_STAT ↑k5) F.TILE_STAT_SR_STATE ≠ 0 ∨ 130 = 130 ∧ sBadA.fld (Reg.TILE_STAT ↑k5) F.TILE_STAT_SR_STATE = 0 ∧ sBadA.fld (Reg.TILE_SAVE ↑k5) F.TILE_SAVE_ADDR % 128 ≠ 0 ∨ 130 = 4 ∧ sBadA.fld (Reg.TILE_STAT ↑k5) F.TILE_STAT_SR_STATE = 0 ∧ sBadA.fld (Reg.TILE_SAVE ↑k5) F.TILE_SAVE_ADDR % 128 = 0 ∧ 8388608 < sBadA.fld (Reg.TILE_SAVE ↑k5) F.TILE_SAVE_ADDR + 266496 ∨ 130 = 133 ∧ sBadA.fld (Reg.TILE_STAT ↑k5) F.TILE_STAT_SR_STATE = 0 ∧ sBadA.fld (Reg.TILE_SAVE ↑k5) F.TILE_SAVE_ADDR % 128 = 0 ∧ sBadA.fld (Reg.TILE_SAVE ↑k5) F.TILE_SAVE_ADDR + 266496 ≤ 8388608 ∧ (sBadA.slot ↑k5).halt ≠ HaltPhase.halted)) :=
  ⟨by decide +kernel,
    by decide +kernel,
    by decide +kernel,
    by decide +kernel,
    by decide +kernel,
    by decide +kernel,
    by decide +kernel⟩

/-- States and operands that meet the hypotheses of Obligations.TileHaltsAndSaves, clause by clause (part 2). -/
theorem witness_TileHaltsAndSaves_2 :
    (sHalted.stopped = false ∧ 4096 = sHalted.fld (Reg.TILE_SAVE ↑k5) F.TILE_SAVE_ADDR ∧ sHalted.reach (Reg.TILE_CTL ↑k5) = Reach.ok ∧
     4096 % 128 = 0 ∧ 4096 + 266496 ≤ 8388608 ∧ sHalted.fld (Reg.TILE_STAT ↑k5) F.TILE_STAT_SR_STATE = 0 ∧ (sHalted.slot ↑k5).halt = HaltPhase.halted) ∧
    (sArea.stopped = false ∧ 4096 = sArea.fld (Reg.TILE_SAVE ↑k5) F.TILE_SAVE_ADDR ∧ sArea.reach (Reg.TILE_CTL ↑k5) = Reach.ok ∧ 4096 % 128 = 0 ∧
     4096 + 266496 ≤ 8388608 ∧ sArea.fld (Reg.TILE_STAT ↑k5) F.TILE_STAT_SR_STATE = 0 ∧ (sArea.slot ↑k5).halt = HaltPhase.halted ∧
     headerOk sArea.dn16 (sArea.tsRead (↑k5) 4096 256) = true) ∧
    (sBusySR.stopped = false ∧ sBusySR.fld (Reg.TILE_STAT ↑k5) F.TILE_STAT_SR_STATE ≠ 0) ∧
    (sVr.stopped = false ∧ 8192 = sVr.fld (Reg.VR_SAVE ↑k0) F.VR_SAVE_ADDR ∧ sVr.reach (Reg.VR_SAVE ↑k0) = Reach.ok ∧ sVr.isLead ↑k0 = true ∧
     sVr.fld (Reg.VR_SAVE ↑k0) F.VR_SAVE_STATE = 0 ∧ 8192 % 128 = 0 ∧ 8192 + 16384 ≤ 8388608 ∧ (sVr.slot ↑k0).halt = HaltPhase.halted) ∧
    (s0.stopped = false ∧ 0 = s0.fld (Reg.VR_SAVE ↑k5) F.VR_SAVE_ADDR ∧ s0.reach (Reg.VR_SAVE ↑k5) = Reach.ok ∧ s0.isLead ↑k5 = false) ∧
    (sVrDone.stopped = false ∧ 8192 = sVrDone.fld (Reg.VR_SAVE ↑k0) F.VR_SAVE_ADDR ∧ sVrDone.fld (Reg.VR_SAVE ↑k0) F.VR_SAVE_STATE ≠ 0) :=
  ⟨by decide +kernel,
    by decide +kernel,
    by decide +kernel,
    by decide +kernel,
    by decide +kernel,
    by decide +kernel⟩

/-- States and operands that meet the hypotheses of Obligations.ArrayProducts, clause by clause. -/
theorem witness_ArrayProducts :
    ((sMop 33).starts (↑k5) (ent (wMop 33)) (aft emptied (ent (wMop 33))) ∧ (sMop 33).stopped = false ∧
     (opcode (ent (wMop 33)).word = if false = true then 32 else 33) ∧ mopCheck ((sMop 33).slot ↑k5).layout (decodeMop (ent (wMop 33)).word) = none ∧
     regionOf ((sMop 33).slot ↑k5).layout (decodeMop (ent (wMop 33)).word).region = some (Region.mk 0 0 128 128)) ∧
    ((sMop 32).starts (↑k5) (ent (wMop 32)) (aft emptied (ent (wMop 32))) ∧ (sMop 32).stopped = false ∧
     (opcode (ent (wMop 32)).word = if true = true then 32 else 33) ∧ mopCheck ((sMop 32).slot ↑k5).layout (decodeMop (ent (wMop 32)).word) = none ∧
     regionOf ((sMop 32).slot ↑k5).layout (decodeMop (ent (wMop 32)).word).region = some (Region.mk 0 0 128 128)) ∧
    ((xq (mk 36 [])).starts (↑k5) (ent (mk 36 [])) (aft emptied (ent (mk 36 []))) ∧ (xq (mk 36 [])).stopped = false ∧
     opcode (ent (mk 36 [])).word = 36) ∧
    (sAlay.starts (↑k5) (ent (mk 38 [(118, 2)])) (aft emptied (ent (mk 38 [(118, 2)]))) ∧ sAlay.stopped = false ∧
     opcode (ent (mk 38 [(118, 2)])).word = 38 ∧ cf (ent (mk 38 [(118, 2)])).word 119 118 ≠ 3 ∧
     (cf (ent (mk 38 [(118, 2)])).word 119 118 = 2 → sAlay.dn16 = false)) ∧
    ((Inflight.mk (Entry.mk 1 (wMop 33) 0) (Phase.working 0) ∈ ((inf QSel.xq [Inflight.mk (Entry.mk 1 (wMop 33) 0) (Phase.working 0)]).queue 5 QSel.xq).inflight) ∧
     Phase.working 0 ≠ Phase.done ∧ (Entry.mk 1 (wMop 33) 0).ticket < (Entry.mk 2 (mk 36 []) 0).ticket ∧
     ((opcode (Entry.mk 2 (mk 36 []) 0).word = 36 ∨ opcode (Entry.mk 2 (mk 36 []) 0).word = 38) ∧ (opcode (Entry.mk 1 (wMop 33) 0).word = 32 ∨ opcode (Entry.mk 1 (wMop 33) 0).word = 33 ∨ opcode (Entry.mk 1 (wMop 33) 0).word = 36 ∨ opcode (Entry.mk 1 (wMop 33) 0).word = 38) ∨ (opcode (Entry.mk 2 (mk 36 []) 0).word = 32 ∨ opcode (Entry.mk 2 (mk 36 []) 0).word = 33) ∧ (opcode (Entry.mk 1 (wMop 33) 0).word = 36 ∨ opcode (Entry.mk 1 (wMop 33) 0).word = 38 ∨ (opcode (Entry.mk 1 (wMop 33) 0).word = 32 ∨ opcode (Entry.mk 1 (wMop 33) 0).word = 33) ∧ (decodeMop (Entry.mk 2 (mk 36 []) 0).word).region = (decodeMop (Entry.mk 1 (wMop 33) 0).word).region))) :=
  ⟨⟨starts_head (by decide +kernel) (by decide +kernel) (by decide +kernel) (by unfold State.atHead; decide +kernel), by decide +kernel⟩,
    ⟨starts_head (by decide +kernel) (by decide +kernel) (by decide +kernel) (by unfold State.atHead; decide +kernel), by decide +kernel⟩,
    ⟨starts_head (by decide +kernel) (by decide +kernel) (by decide +kernel) (by unfold State.atHead; decide +kernel), by decide +kernel⟩,
    ⟨starts_head (by decide +kernel) (by decide +kernel) (by decide +kernel) (by unfold State.atHead; decide +kernel), by decide +kernel⟩,
    by decide +kernel⟩

/-- States and operands that meet the hypotheses of Obligations.OperandFileAndDrains, clause by clause (part 1). -/
theorem witness_OperandFileAndDrains_1 :
    (sLdl.starts (↑k5) (ent wLdl) (aft emptied (ent wLdl)) ∧ sLdl.stopped = false ∧ decodeLdl wLdl = decodeLdl (ent wLdl).word ∧
     opcode (ent wLdl).word = 16 ∧ ldlCheck (decodeLdl wLdl) = none) ∧
    (sLdlT.starts (↑k5) (ent wLdlT) (aft emptied (ent wLdlT)) ∧ sLdlT.stopped = false ∧ decodeLdl wLdlT = decodeLdl (ent wLdlT).word ∧
     opcode (ent wLdlT).word = 16 ∧ ldlCheck (decodeLdl wLdlT) = none) ∧
    (sLfree.starts (↑k5) (ent (mk 39 [(54, 5), (118, 1)])) (aft emptied (ent (mk 39 [(54, 5), (118, 1)]))) ∧ sLfree.stopped = false ∧
     opcode (ent (mk 39 [(54, 5), (118, 1)])).word = 39) ∧
    ((sDrn 3 0).starts (↑k5) (ent (wDrn 3 0)) (aft emptied (ent (wDrn 3 0))) ∧ (sDrn 3 0).stopped = false ∧ opcode (ent (wDrn 3 0)).word = 37 ∧
     decodeDrn (wDrn 3 0) = decodeDrn (ent (wDrn 3 0)).word ∧ drnCheck ((sDrn 3 0).slot ↑k5).layout (decodeDrn (wDrn 3 0)) = none ∧
     drnRegion ((sDrn 3 0).slot ↑k5).layout (decodeDrn (wDrn 3 0)) = some regL2 ∧ (decodeDrn (wDrn 3 0)).mode = 3) ∧
    ((sDrn 2 6).starts (↑k5) (ent (wDrn 2 6)) (aft emptied (ent (wDrn 2 6))) ∧ (sDrn 2 6).stopped = false ∧ opcode (ent (wDrn 2 6)).word = 37 ∧
     decodeDrn (wDrn 2 6) = decodeDrn (ent (wDrn 2 6)).word ∧ drnCheck ((sDrn 2 6).slot ↑k5).layout (decodeDrn (wDrn 2 6)) = none ∧
     drnRegion ((sDrn 2 6).slot ↑k5).layout (decodeDrn (wDrn 2 6)) = some regL2 ∧ (decodeDrn (wDrn 2 6)).mode = 2) ∧
    ((sDrn 0 6).starts (↑k5) (ent (wDrn 0 6)) (aft emptied (ent (wDrn 0 6))) ∧ (sDrn 0 6).stopped = false ∧ opcode (ent (wDrn 0 6)).word = 37 ∧
     decodeDrn (wDrn 0 6) = decodeDrn (ent (wDrn 0 6)).word ∧ drnCheck ((sDrn 0 6).slot ↑k5).layout (decodeDrn (wDrn 0 6)) = none ∧
     drnRegion ((sDrn 0 6).slot ↑k5).layout (decodeDrn (wDrn 0 6)) = some regL2 ∧ (decodeDrn (wDrn 0 6)).mode < 2 ∧ (decodeDrn (wDrn 0 6)).fmt = 6) ∧
    ((sDrn 1 6).starts (↑k5) (ent (wDrn 1 6)) (aft emptied (ent (wDrn 1 6))) ∧ (sDrn 1 6).stopped = false ∧ opcode (ent (wDrn 1 6)).word = 37 ∧
     decodeDrn (wDrn 1 6) = decodeDrn (ent (wDrn 1 6)).word ∧ drnCheck ((sDrn 1 6).slot ↑k5).layout (decodeDrn (wDrn 1 6)) = none ∧
     drnRegion ((sDrn 1 6).slot ↑k5).layout (decodeDrn (wDrn 1 6)) = some regL2 ∧ (decodeDrn (wDrn 1 6)).mode < 2 ∧ (decodeDrn (wDrn 1 6)).fmt = 6) :=
  ⟨⟨starts_head (by decide +kernel) (by decide +kernel) (by decide +kernel) (by unfold State.atHead; decide +kernel), by decide +kernel⟩,
    ⟨starts_head (by decide +kernel) (by decide +kernel) (by decide +kernel) (by unfold State.atHead; decide +kernel), by decide +kernel⟩,
    ⟨starts_head (by decide +kernel) (by decide +kernel) (by decide +kernel) (by unfold State.atHead; decide +kernel), by decide +kernel⟩,
    ⟨starts_head (by decide +kernel) (by decide +kernel) (by decide +kernel) (by unfold State.atHead; decide +kernel), by decide +kernel⟩,
    ⟨starts_head (by decide +kernel) (by decide +kernel) (by decide +kernel) (by unfold State.atHead; decide +kernel), by decide +kernel⟩,
    ⟨starts_head (by decide +kernel) (by decide +kernel) (by decide +kernel) (by unfold State.atHead; decide +kernel), by decide +kernel⟩,
    ⟨starts_head (by decide +kernel) (by decide +kernel) (by decide +kernel) (by unfold State.atHead; decide +kernel), by decide +kernel⟩⟩

/-- States and operands that meet the hypotheses of Obligations.OperandFileAndDrains, clause by clause (part 2). -/
theorem witness_OperandFileAndDrains_2 :
    ((sDrn 0 0).starts (↑k5) (ent (wDrn 0 0)) (aft emptied (ent (wDrn 0 0))) ∧ (sDrn 0 0).stopped = false ∧ opcode (ent (wDrn 0 0)).word = 37 ∧
     decodeDrn (wDrn 0 0) = decodeDrn (ent (wDrn 0 0)).word ∧ drnCheck ((sDrn 0 0).slot ↑k5).layout (decodeDrn (wDrn 0 0)) = none ∧
     drnRegion ((sDrn 0 0).slot ↑k5).layout (decodeDrn (wDrn 0 0)) = some regL2 ∧ (decodeDrn (wDrn 0 0)).mode < 2 ∧ (decodeDrn (wDrn 0 0)).fmt ≠ 6 ∧
     blkCheck (decodeDrn (wDrn 0 0)).readsBlock ((sDrn 0 0).drnParams (↑k5) (decodeDrn (wDrn 0 0))).block = none) ∧
    ((sDrn 3 0).starts (↑k5) (ent (wDrn 3 0)) (aft emptied (ent (wDrn 3 0))) ∧ (sDrn 3 0).stopped = false ∧ opcode (ent (wDrn 3 0)).word = 37 ∧
     decodeDrn (wDrn 3 0) = decodeDrn (ent (wDrn 3 0)).word ∧ drnCheck ((sDrn 3 0).slot ↑k5).layout (decodeDrn (wDrn 3 0)) = none ∧
     drnRegion ((sDrn 3 0).slot ↑k5).layout (decodeDrn (wDrn 3 0)) = some regL2) :=
  ⟨⟨starts_head (by decide +kernel) (by decide +kernel) (by decide +kernel) (by unfold State.atHead; decide +kernel), by decide +kernel⟩,
    ⟨starts_head (by decide +kernel) (by decide +kernel) (by decide +kernel) (by unfold State.atHead; decide +kernel), by decide +kernel⟩⟩

/-- States and operands that meet the hypotheses of Obligations.VectorCommandsRun, clause by clause (part 1). -/
theorem witness_VectorCommandsRun_1 :
    ((sVs 64).starts (↑k5) (ent (wVs 64)) (aft emptied (ent (wVs 64))) ∧ ((Instr.vsAdd, 64) ∈ vsCommands) ∧ (sVs 64).stopped = false ∧
     opcode (ent (wVs 64)).word = (Instr.vsAdd, 64).2 ∧ decodeVS (wVs 64) = decodeVS (ent (wVs 64)).word ∧
     vsCheck ((sVs 64).sumAt (↑k5) (decodeVS (wVs 64))) (decodeVS (wVs 64)) = none ∧
     idxSeen (decodeVS (wVs 64)) (vResult false (decodeVS (wVs 64)) ((sVs 64).vsElems 5 (decodeVS (wVs 64)))) = idxSeen (decodeVS (wVs 64)) (vResult (sVs 64).dn16 (decodeVS (wVs 64)) ((sVs 64).vsElems (↑k5) (decodeVS (wVs 64))))) ∧
    ((sVr0 96).starts (↑k0) (ent (wVr 96)) (aft emptied (ent (wVr 96))) ∧ ((Instr.vrAdd, 96) ∈ vrCommands) ∧ (sVr0 96).stopped = false ∧
     opcode (ent (wVr 96)).word = (Instr.vrAdd, 96).2 ∧ vrCheck ((sVr0 96).isLead ↑k0) (decodeVR (ent (wVr 96)).word) = none ∧
     decodeVR (wVr 96) = decodeVR (ent (wVr 96)).word ∧
     idxSeen (decodeVR (wVr 96)) (vResult false (decodeVR (wVr 96)) ((sVr0 96).vrElems 0 (decodeVR (wVr 96)))) = idxSeen (decodeVR (wVr 96)) (vResult (sVr0 96).dn16 (decodeVR (wVr 96)) ((sVr0 96).vrElems (↑k0) (decodeVR (wVr 96))))) ∧
    ((sSlice 88).starts (↑k0) (ent (wDesc 88)) (aft emptied (ent (wDesc 88))) ∧ ((Instr.vsSlice, 88) ∈ [(Instr.vsSlice, 88), (Instr.vrSlice, 120)]) ∧
     (sSlice 88).stopped = false ∧ opcode (ent (wDesc 88)).word = (Instr.vsSlice, 88).2 ∧
     descCheck ((sSlice 88).isLead ↑k0) (ent (wDesc 88)).word = none ∧
     decodeSlice ((sSlice 88).descOf 0 (wDesc 88)) = decodeSlice ((sSlice 88).descOf (↑k0) (ent (wDesc 88)).word) ∧
     sliceCheck (cf (ent (wDesc 88)).word 95 73) (decodeSlice ((sSlice 88).descOf 0 (wDesc 88))) = none) ∧
    ((sSlice 120).starts (↑k0) (ent (wDesc 120)) (aft emptied (ent (wDesc 120))) ∧
     ((Instr.vrSlice, 120) ∈ [(Instr.vsSlice, 88), (Instr.vrSlice, 120)]) ∧ (sSlice 120).stopped = false ∧
     opcode (ent (wDesc 120)).word = (Instr.vrSlice, 120).2 ∧ descCheck ((sSlice 120).isLead ↑k0) (ent (wDesc 120)).word = none ∧
     decodeSlice ((sSlice 120).descOf 0 (wDesc 120)) = decodeSlice ((sSlice 120).descOf (↑k0) (ent (wDesc 120)).word) ∧
     sliceCheck (cf (ent (wDesc 120)).word 95 73) (decodeSlice ((sSlice 120).descOf 0 (wDesc 120))) = none) ∧
    ((sRecomb 89).starts (↑k0) (ent (wDesc 89)) (aft emptied (ent (wDesc 89))) ∧
     ((Instr.vsRecomb, 89) ∈ [(Instr.vsRecomb, 89), (Instr.vrRecomb, 121)]) ∧ (sRecomb 89).stopped = false ∧
     opcode (ent (wDesc 89)).word = (Instr.vsRecomb, 89).2 ∧ descCheck ((sRecomb 89).isLead ↑k0) (ent (wDesc 89)).word = none ∧
     decodeRecomb ((sRecomb 89).descOf 0 (wDesc 89)) = decodeRecomb ((sRecomb 89).descOf (↑k0) (ent (wDesc 89)).word) ∧
     recombCheck (cf (ent (wDesc 89)).word 95 73) (decodeRecomb ((sRecomb 89).descOf 0 (wDesc 89))) = none) ∧
    (sSumat.starts (↑k5) (ent (mk 90 [(73, 288)])) (aft emptied (ent (mk 90 [(73, 288)]))) ∧ sSumat.stopped = false ∧
     opcode (ent (mk 90 [(73, 288)])).word = 90) ∧
    ((sVm 124).starts (↑k0) (ent (wVm 124)) (aft emptied (ent (wVm 124))) ∧ (sVm 124).stopped = false ∧ opcode (ent (wVm 124)).word = 124 ∧
     vrMemCheck ((sVm 124).isLead ↑k0) false (decodeVR (ent (wVm 124)).word) = none ∧ decodeVR (wVm 124) = decodeVR (ent (wVm 124)).word ∧
     (decodeVR (wVm 124)).sum = false) :=
  ⟨⟨starts_head (by decide +kernel) (by decide +kernel) (by decide +kernel) (by unfold State.atHead; decide +kernel), by simp [vsCommands],
     by decide +kernel⟩,
    ⟨starts_head (by decide +kernel) (by decide +kernel) (by decide +kernel) (by unfold State.atHead; decide +kernel), by simp [vrCommands],
     by decide +kernel⟩,
    ⟨starts_head (by decide +kernel) (by decide +kernel) (by decide +kernel) (by unfold State.atHead; decide +kernel), by simp, by decide +kernel⟩,
    ⟨starts_head (by decide +kernel) (by decide +kernel) (by decide +kernel) (by unfold State.atHead; decide +kernel), by simp, by decide +kernel⟩,
    ⟨starts_head (by decide +kernel) (by decide +kernel) (by decide +kernel) (by unfold State.atHead; decide +kernel), by simp, by decide +kernel⟩,
    ⟨starts_head (by decide +kernel) (by decide +kernel) (by decide +kernel) (by unfold State.atHead; decide +kernel), by decide +kernel⟩,
    ⟨starts_head (by decide +kernel) (by decide +kernel) (by decide +kernel) (by unfold State.atHead; decide +kernel), by decide +kernel⟩⟩

/-- States and operands that meet the hypotheses of Obligations.VectorCommandsRun, clause by clause (part 2). -/
theorem witness_VectorCommandsRun_2 :
    ((sVm 125).starts (↑k0) (ent (wVm 125)) (aft emptied (ent (wVm 125))) ∧ (sVm 125).stopped = false ∧ opcode (ent (wVm 125)).word = 125 ∧
     vrMemCheck ((sVm 125).isLead ↑k0) true (decodeVR (ent (wVm 125)).word) = none ∧ decodeVR (wVm 125) = decodeVR (ent (wVm 125)).word ∧
     (decodeVR (wVm 125)).sum = false ∧ etBits (decodeVR (wVm 125)).et / 8 ≤ (decodeVR (wVm 125)).stride) ∧
    ((sVs 64).starts (↑k5) (ent (wVs 64)) (aft emptied (ent (wVs 64))) ∧ ((Instr.vsAdd, 64) ∈ vsCommands) ∧
     (∃ t, exec (Instr.vsAdd k5 Upset.none) (sVs 64) = Host.Outcome.next t) ∧ (sVs 64).stopped = false ∧
     decodeVS (wVs 64) = decodeVS (ent (wVs 64)).word ∧ vsCheck none (decodeVS (wVs 64)) = none ∧ (decodeVS (wVs 64)).sum = false ∧
     etInt (decodeVS (wVs 64)).et = true ∧ 16 = etBits (decodeVS (wVs 64)).et ∧ 0 < (decodeVS (wVs 64)).n ∧
     opcode (ent (wVs 64)).word = (Instr.vsAdd, 64).2 ∧ ((Instr.vsAdd, 64).2 ≤ 71 ∨ (Instr.vsAdd, 64).2 = 77 ∨ (Instr.vsAdd, 64).2 = 85)) ∧
    ((sVs 65).starts (↑k5) (ent (wVs 65)) (aft emptied (ent (wVs 65))) ∧ ((Instr.vsSub, 65) ∈ vsCommands) ∧
     (∃ t, exec (Instr.vsSub k5 Upset.none) (sVs 65) = Host.Outcome.next t) ∧ (sVs 65).stopped = false ∧
     decodeVS (wVs 65) = decodeVS (ent (wVs 65)).word ∧ vsCheck none (decodeVS (wVs 65)) = none ∧ (decodeVS (wVs 65)).sum = false ∧
     etInt (decodeVS (wVs 65)).et = true ∧ 16 = etBits (decodeVS (wVs 65)).et ∧ 0 < (decodeVS (wVs 65)).n ∧
     opcode (ent (wVs 65)).word = (Instr.vsSub, 65).2 ∧ ((Instr.vsSub, 65).2 ≤ 71 ∨ (Instr.vsSub, 65).2 = 77 ∨ (Instr.vsSub, 65).2 = 85)) ∧
    ((sVs 64).starts (↑k5) (ent (wVs 64)) (aft emptied (ent (wVs 64))) ∧ ((Instr.vsAdd, 64) ∈ vsCommands) ∧
     (∃ t, exec (Instr.vsAdd k5 Upset.none) (sVs 64) = Host.Outcome.next t) ∧ (sVs 64).stopped = false ∧
     decodeVS (wVs 64) = decodeVS (ent (wVs 64)).word ∧ vsCheck none (decodeVS (wVs 64)) = none ∧ (decodeVS (wVs 64)).sum = false ∧
     etInt (decodeVS (wVs 64)).et = true ∧ 16 = etBits (decodeVS (wVs 64)).et ∧ 0 < (decodeVS (wVs 64)).n ∧
     opcode (ent (wVs 64)).word = (Instr.vsAdd, 64).2 ∧ ((Instr.vsAdd, 64).2 ≤ 71 ∨ (Instr.vsAdd, 64).2 = 77 ∨ (Instr.vsAdd, 64).2 = 85) ∧
     (0 < (decodeVS (wVs 64)).dst ∨ (decodeVS (wVs 64)).dst + (decodeVS (wVs 64)).n * (16 / 8) ≤ 0)) ∧
    ((sVs 64).starts (↑k5) (ent (wVs 64)) (aft emptied (ent (wVs 64))) ∧ ((Instr.vsAdd, 64) ∈ vsCommands) ∧
     (∃ t, exec (Instr.vsAdd k5 Upset.none) (sVs 64) = Host.Outcome.next t) ∧ (sVs 64).stopped = false ∧
     decodeVS (wVs 64) = decodeVS (ent (wVs 64)).word ∧ vsCheck none (decodeVS (wVs 64)) = none ∧ (decodeVS (wVs 64)).sum = false ∧
     etInt (decodeVS (wVs 64)).et = true ∧ 16 = etBits (decodeVS (wVs 64)).et ∧ 0 < (decodeVS (wVs 64)).n ∧
     opcode (ent (wVs 64)).word = (Instr.vsAdd, 64).2 ∧ ((Instr.vsAdd, 64).2 ≤ 71 ∨ (Instr.vsAdd, 64).2 = 77 ∨ (Instr.vsAdd, 64).2 = 85) ∧ 6 ≠ ↑k5) ∧
    (((inf QSel.xq [Inflight.mk (Entry.mk 1 (wDrn 0 0) 0) Phase.waiting]).wr (Reg.NUM_STAT 5) 9223372036854775808).flagsBefore 5 2 = true ∧
     ((inf QSel.xq [Inflight.mk (Entry.mk 1 (wDrn 0 0) 0) Phase.waiting]).wr (Reg.NUM_STAT 5) 9223372036854775808).rd (Reg.NUM_STAT 5) ≠ 0) ∧
    ((((sRun.modSlot 5 fun c => Slot.mk c.ts c.tsGen c.imem c.acc0 c.acc1 c.active c.layout c.held c.ofBytes c.ofBad c.ofUse c.acc0Use c.acc1Use c.opc c.opcB c.latchA c.latchB c.tails0 c.tails1 c.tailBy [(2, 9223372036854775808)] c.begun c.halt c.haltByKernel c.firstFull c.save c.vrSave c.v c.main c.hand c.hrun c.hwait c.cycle c.csrs c.istall c.waitq c.wfi c.resvMain c.resvHand c.kl c.kser c.passage c.ending c.xq c.fq c.wptIssued c.hpend c.streams c.outs c.nextXfer c.nextSer c.rrLast c.sendM c.sendH c.nextEntry c.bulks c.chWait c.sckTally c.sckWord).slot 5).notes = [(2, 9223372036854775808)]) ∧
     ((sRun.modSlot 5 fun c => Slot.mk c.ts c.tsGen c.imem c.acc0 c.acc1 c.active c.layout c.held c.ofBytes c.ofBad c.ofUse c.acc0Use c.acc1Use c.opc c.opcB c.latchA c.latchB c.tails0 c.tails1 c.tailBy [(2, 9223372036854775808)] c.begun c.halt c.haltByKernel c.firstFull c.save c.vrSave c.v c.main c.hand c.hrun c.hwait c.cycle c.csrs c.istall c.waitq c.wfi c.resvMain c.resvHand c.kl c.kser c.passage c.ending c.xq c.fq c.wptIssued c.hpend c.streams c.outs c.nextXfer c.nextSer c.rrLast c.sendM c.sendH c.nextEntry c.bulks c.chWait c.sckTally c.sckWord).flagsBefore 5 2 = false)) :=
  ⟨⟨starts_head (by decide +kernel) (by decide +kernel) (by decide +kernel) (by unfold State.atHead; decide +kernel), by decide +kernel⟩,
    ⟨starts_head (by decide +kernel) (by decide +kernel) (by decide +kernel) (by unfold State.atHead; decide +kernel), by simp [vsCommands],
     next_of (by decide +kernel), by decide +kernel⟩,
    ⟨starts_head (by decide +kernel) (by decide +kernel) (by decide +kernel) (by unfold State.atHead; decide +kernel), by simp [vsCommands],
     next_of (by decide +kernel), by decide +kernel⟩,
    ⟨starts_head (by decide +kernel) (by decide +kernel) (by decide +kernel) (by unfold State.atHead; decide +kernel), by simp [vsCommands],
     next_of (by decide +kernel), by decide +kernel⟩,
    ⟨starts_head (by decide +kernel) (by decide +kernel) (by decide +kernel) (by unfold State.atHead; decide +kernel), by simp [vsCommands],
     next_of (by decide +kernel), by decide +kernel⟩,
    by decide +kernel,
    by decide +kernel⟩

/-- States and operands that meet the hypotheses of Obligations.FailingChecksStopQueue, clause by clause. -/
theorem witness_FailingChecksStopQueue :
    (sFailMop.atHead (↑k5) (ent (mk 33 [(113, 7)])) emptied ∧ sFailMop.stopped = false ∧ 128 < 256 ∧
     ((Instr.mop k5 Upset.none, 33, mopCheck 0 (decodeMop (mk 33 [(113, 7)]))) ∈ [(Instr.mopz k5 Upset.none, 32, mopCheck (sFailMop.slot ↑k5).layout (decodeMop (ent (mk 33 [(113, 7)])).word)), (Instr.mop k5 Upset.none, 33, mopCheck (sFailMop.slot ↑k5).layout (decodeMop (ent (mk 33 [(113, 7)])).word)), (Instr.ldl k5 Upset.none, 16, ldlCheck (decodeLdl (ent (mk 33 [(113, 7)])).word)), (Instr.drn k5 Upset.none, 37, drnCheck (sFailMop.slot ↑k5).layout (decodeDrn (ent (mk 33 [(113, 7)])).word)), (Instr.ldl k5 Upset.none, 17, some 128), (Instr.vsAdd k5 Upset.none, 95, some 128), (Instr.vrAdd k5 Upset.none, 127, some 128)]) ∧
     opcode (ent (mk 33 [(113, 7)])).word = (Instr.mop k5 Upset.none, 33, mopCheck 0 (decodeMop (mk 33 [(113, 7)]))).2.1 ∧
     (Instr.mop k5 Upset.none, 33, mopCheck 0 (decodeMop (mk 33 [(113, 7)]))).2.2 = some 128) ∧
    (sFailLdl.atHead (↑k5) (ent (mk 16 [(118, 3)])) emptied ∧ sFailLdl.stopped = false ∧ 130 < 256 ∧
     ((Instr.ldl k5 Upset.none, 16, ldlCheck (decodeLdl (mk 16 [(118, 3)]))) ∈ [(Instr.mopz k5 Upset.none, 32, mopCheck (sFailLdl.slot ↑k5).layout (decodeMop (ent (mk 16 [(118, 3)])).word)), (Instr.mop k5 Upset.none, 33, mopCheck (sFailLdl.slot ↑k5).layout (decodeMop (ent (mk 16 [(118, 3)])).word)), (Instr.ldl k5 Upset.none, 16, ldlCheck (decodeLdl (ent (mk 16 [(118, 3)])).word)), (Instr.drn k5 Upset.none, 37, drnCheck (sFailLdl.slot ↑k5).layout (decodeDrn (ent (mk 16 [(118, 3)])).word)), (Instr.ldl k5 Upset.none, 17, some 128), (Instr.vsAdd k5 Upset.none, 95, some 128), (Instr.vrAdd k5 Upset.none, 127, some 128)]) ∧
     opcode (ent (mk 16 [(118, 3)])).word = (Instr.ldl k5 Upset.none, 16, ldlCheck (decodeLdl (mk 16 [(118, 3)]))).2.1 ∧
     (Instr.ldl k5 Upset.none, 16, ldlCheck (decodeLdl (mk 16 [(118, 3)]))).2.2 = some 130) ∧
    (sFailVs.atHead (↑k5) (ent (mk 64 [(116, 15)])) emptied ∧
     ((Instr.vsAdd, 64) ∈ vsCommands ∧ vsCheck (sFailVs.sumAt (↑k5) (decodeVS (ent (mk 64 [(116, 15)])).word)) (decodeVS (ent (mk 64 [(116, 15)])).word) = some 128 ∨ (Instr.vsAdd, 64) ∈ vrCommands ∧ vrCheck (sFailVs.isLead ↑k5) (decodeVR (ent (mk 64 [(116, 15)])).word) = some 128) ∧
     sFailVs.stopped = false ∧ 128 < 256 ∧ opcode (ent (mk 64 [(116, 15)])).word = (Instr.vsAdd, 64).2) ∧
    (((Instr.vsSlice k5 Upset.none, 88, sliceEffect 5 (wDesc 88) (inf QSel.xq [Inflight.mk (ent (wDesc 88)) Phase.waiting])) ∈ [(Instr.drn k5 Upset.none, 37, drnEffect (↑k5) (ent (wDesc 88)).word (inf QSel.xq [Inflight.mk (ent (wDesc 88)) Phase.waiting])), (Instr.vsSlice k5 Upset.none, 88, sliceEffect (↑k5) (ent (wDesc 88)).word (inf QSel.xq [Inflight.mk (ent (wDesc 88)) Phase.waiting])), (Instr.vsRecomb k5 Upset.none, 89, recombEffect (↑k5) (ent (wDesc 88)).word (inf QSel.xq [Inflight.mk (ent (wDesc 88)) Phase.waiting])), (Instr.vrSlice k5 Upset.none, 120, sliceEffect (↑k5) (ent (wDesc 88)).word (inf QSel.xq [Inflight.mk (ent (wDesc 88)) Phase.waiting])), (Instr.vrRecomb k5 Upset.none, 121, recombEffect (↑k5) (ent (wDesc 88)).word (inf QSel.xq [Inflight.mk (ent (wDesc 88)) Phase.waiting]))]) ∧
     (inf QSel.xq [Inflight.mk (ent (wDesc 88)) Phase.waiting]).stopped = false ∧ 130 < 256 ∧ 130 ≠ 0 ∧
     ((inf QSel.xq [Inflight.mk (ent (wDesc 88)) Phase.waiting]).slot ↑k5).notes = [] ∧
     ((List.map (fun x => x.entry.ticket) ((inf QSel.xq [Inflight.mk (ent (wDesc 88)) Phase.waiting]).queue (↑k5) QSel.xq).inflight).Nodup) ∧
     (((inf QSel.xq [Inflight.mk (ent (wDesc 88)) Phase.waiting]).runnable ↑k5 fun o => o == opcode (ent (wDesc 88)).word) = some (ent (wDesc 88))) ∧
     opcode (ent (wDesc 88)).word = (Instr.vsSlice k5 Upset.none, 88, sliceEffect 5 (wDesc 88) (inf QSel.xq [Inflight.mk (ent (wDesc 88)) Phase.waiting])).2.1 ∧
     (Instr.vsSlice k5 Upset.none, 88, sliceEffect 5 (wDesc 88) (inf QSel.xq [Inflight.mk (ent (wDesc 88)) Phase.waiting])).2.2 = Except.error 130) :=
  ⟨⟨by unfold State.atHead; decide +kernel, by decide +kernel⟩,
    ⟨by unfold State.atHead; decide +kernel, by decide +kernel⟩,
    ⟨by unfold State.atHead; decide +kernel, .inl ⟨by simp [vsCommands], by decide +kernel⟩, by decide +kernel⟩,
    ⟨by simp; rfl, by decide +kernel⟩⟩

/-- States and operands that meet the hypotheses of Obligations.WaitsHoldTheQueue, clause by clause. -/
theorem witness_WaitsHoldTheQueue :
    (((Instr.twaitXq k5, QSel.xq, 145) ∈ [(Instr.twaitXq k5, QSel.xq, 145), (Instr.twaitFq k5, QSel.fq, 150)]) ∧ (sTwX 7).stopped = false ∧
     (((sTwX 7).takeHead ↑k5 (Instr.twaitXq k5, QSel.xq, 145).2.1 fun o => o == (Instr.twaitXq k5, QSel.xq, 145).2.2) = some (ent (wTw 145 7), emptied))) ∧
    (((Instr.twaitXq k5, QSel.xq, 145) ∈ [(Instr.twaitXq k5, QSel.xq, 145), (Instr.twaitFq k5, QSel.fq, 150)]) ∧ (sTwX 8).stopped = false ∧
     (((sTwX 8).takeHead ↑k5 (Instr.twaitXq k5, QSel.xq, 145).2.1 fun o => o == (Instr.twaitXq k5, QSel.xq, 145).2.2) = some (ent (wTw 145 8), emptied))) ∧
    (((Instr.relXq k5, QSel.xq, 146) ∈ [(Instr.relXq k5, QSel.xq, 146), (Instr.relFq k5, QSel.fq, 147)]) ∧ (xq (wRel 146 2 0)).stopped = false ∧
     (((xq (wRel 146 2 0)).takeHead ↑k5 (Instr.relXq k5, QSel.xq, 146).2.1 fun o => o == (Instr.relXq k5, QSel.xq, 146).2.2) = some (ent (wRel 146 2 0), emptied)) ∧
     (xq (wRel 146 2 0)).relCheck (↑k5) (ent (wRel 146 2 0)).word = none) ∧
    (((Instr.relFq k5, QSel.fq, 147) ∈ [(Instr.relXq k5, QSel.xq, 146), (Instr.relFq k5, QSel.fq, 147)]) ∧ (fq (wRel 147 1 0)).stopped = false ∧
     (((fq (wRel 147 1 0)).takeHead ↑k5 (Instr.relFq k5, QSel.fq, 147).2.1 fun o => o == (Instr.relFq k5, QSel.fq, 147).2.2) = some (ent (wRel 147 1 0), emptied)) ∧
     (fq (wRel 147 1 0)).relCheck (↑k5) (ent (wRel 147 1 0)).word = none) ∧
    (((Instr.relXq k5, QSel.xq, 146) ∈ [(Instr.relXq k5, QSel.xq, 146), (Instr.relFq k5, QSel.fq, 147)]) ∧ (xq (wRel 146 3 0)).stopped = false ∧
     (((xq (wRel 146 3 0)).takeHead ↑k5 (Instr.relXq k5, QSel.xq, 146).2.1 fun o => o == (Instr.relXq k5, QSel.xq, 146).2.2) = some (ent (wRel 146 3 0), emptied)) ∧
     (xq (wRel 146 3 0)).relCheck (↑k5) (ent (wRel 146 3 0)).word = some 128) ∧
    (((Instr.acqXq k5, QSel.xq, 148) ∈ [(Instr.acqXq k5, QSel.xq, 148), (Instr.acqFq k5, QSel.fq, 149)]) ∧ (sAcqT 7).stopped = false ∧
     (((sAcqT 7).takeHead ↑k5 (Instr.acqXq k5, QSel.xq, 148).2.1 fun o => o == (Instr.acqXq k5, QSel.xq, 148).2.2) = some (ent (wAcqT 148 7), emptied)) ∧
     (sAcqT 7).sckOn ↑k5 = false ∧ acqRange (ent (wAcqT 148 7)).word = false ∧
     ((Instr.acqXq k5, QSel.xq, 148).2.1 = QSel.xq → (sAcqT 7).acqWaits (↑k5) (ent (wAcqT 148 7)) = false) ∧
     ([] = if acqCond (ent (wAcqT 148 7)).word = 0 then [] else (sAcqT 7).tsRead (↑k5) (cf (ent (wAcqT 148 7)).word 95 64) 32) ∧
     (sAcqT 7).acqCheck (↑k5) (ent (wAcqT 148 7)).word [] = none ∧ (acqCond (ent (wAcqT 148 7)).word = 0 ∨ acqSpace [] = 0)) ∧
    (((Instr.acqXq k5, QSel.xq, 148) ∈ [(Instr.acqXq k5, QSel.xq, 148), (Instr.acqFq k5, QSel.fq, 149)]) ∧ (sAcqT 8).stopped = false ∧
     (((sAcqT 8).takeHead ↑k5 (Instr.acqXq k5, QSel.xq, 148).2.1 fun o => o == (Instr.acqXq k5, QSel.xq, 148).2.2) = some (ent (wAcqT 148 8), emptied)) ∧
     (sAcqT 8).sckOn ↑k5 = false ∧ acqRange (ent (wAcqT 148 8)).word = false ∧
     ((Instr.acqXq k5, QSel.xq, 148).2.1 = QSel.xq → (sAcqT 8).acqWaits (↑k5) (ent (wAcqT 148 8)) = false) ∧
     ([] = if acqCond (ent (wAcqT 148 8)).word = 0 then [] else (sAcqT 8).tsRead (↑k5) (cf (ent (wAcqT 148 8)).word 95 64) 32) ∧
     (sAcqT 8).acqCheck (↑k5) (ent (wAcqT 148 8)).word [] = none ∧ (acqCond (ent (wAcqT 148 8)).word = 0 ∨ acqSpace [] = 0)) :=
  ⟨⟨by simp, by decide +kernel⟩,
    ⟨by simp, by decide +kernel⟩,
    ⟨by simp, by decide +kernel⟩,
    ⟨by simp, by decide +kernel⟩,
    ⟨by simp, by decide +kernel⟩,
    ⟨by simp, by decide +kernel⟩,
    ⟨by simp, by decide +kernel⟩⟩

/-- States and operands that meet the hypotheses of Obligations.SignalsSentAndTaken, clause by clause (part 1). -/
theorem witness_SignalsSentAndTaken_1 :
    ((sRel 146 0 0).stopped = false ∧ QSel.xq = qOf false ∧ ((sRel 146 0 0).queue (↑k5) QSel.xq).firstRel = some (ent (wRel 146 0 0), []) ∧
     (sRel 146 0 0).relMet (↑k5) QSel.xq (ent (wRel 146 0 0)) [] = true ∧ (sRel 146 0 0).stalled ↑k5 = false ∧
     ((sRel 146 0 0).slot ↑k5).stopping = false ∧ relSig (ent (wRel 146 0 0)).word = 0) ∧
    ((sRel 147 1 0).stopped = false ∧ QSel.fq = qOf true ∧ ((sRel 147 1 0).queue (↑k5) QSel.fq).firstRel = some (ent (wRel 147 1 0), []) ∧
     (sRel 147 1 0).relMet (↑k5) QSel.fq (ent (wRel 147 1 0)) [] = true ∧ (sRel 147 1 0).stalled ↑k5 = false ∧
     ((sRel 147 1 0).slot ↑k5).stopping = false ∧ relSig (ent (wRel 147 1 0)).word = 1) ∧
    ((sRel 146 2 0).stopped = false ∧ QSel.xq = qOf false ∧ ((sRel 146 2 0).queue (↑k5) QSel.xq).firstRel = some (ent (wRel 146 2 0), []) ∧
     (sRel 146 2 0).relMet (↑k5) QSel.xq (ent (wRel 146 2 0)) [] = true ∧ (sRel 146 2 0).stalled ↑k5 = false ∧
     ((sRel 146 2 0).slot ↑k5).stopping = false ∧ 2 ≤ relSig (ent (wRel 146 2 0)).word ∧ relSpace (ent (wRel 146 2 0)).word < 2) ∧
    ((sRel 146 2 1).stopped = false ∧ QSel.xq = qOf false ∧ ((sRel 146 2 1).queue (↑k5) QSel.xq).firstRel = some (ent (wRel 146 2 1), []) ∧
     (sRel 146 2 1).relMet (↑k5) QSel.xq (ent (wRel 146 2 1)) [] = true ∧ (sRel 146 2 1).stalled ↑k5 = false ∧
     ((sRel 146 2 1).slot ↑k5).stopping = false ∧ 2 ≤ relSig (ent (wRel 146 2 1)).word ∧ relSpace (ent (wRel 146 2 1)).word < 2) ∧
    ((sRel 146 2 2 (xl sRun)).stopped = false ∧ QSel.xq = qOf false ∧
     ((sRel 146 2 2 (xl sRun)).queue (↑k5) QSel.xq).firstRel = some (ent (wRel 146 2 2), []) ∧
     (sRel 146 2 2 (xl sRun)).relMet (↑k5) QSel.xq (ent (wRel 146 2 2)) [] = true ∧ (sRel 146 2 2 (xl sRun)).stalled ↑k5 = false ∧
     ((sRel 146 2 2 (xl sRun)).slot ↑k5).stopping = false ∧ 2 ≤ relSig (ent (wRel 146 2 2)).word ∧ 2 ≤ relSpace (ent (wRel 146 2 2)).word ∧
     (sRel 146 2 2 (xl sRun)).walkerFull ((sRel 146 2 2 (xl sRun)).slot ↑k5).fleet = false ∧ (sRel 146 2 2 (xl sRun)).asks = [] ∧
     (sRel 146 2 2 (xl sRun)).secHit (↑k5 / 9) ((sRel 146 2 2 (xl sRun)).slot ↑k5).fleet (relAddr (ent (wRel 146 2 2)).word) (XlAccess.mk true false false) = some (TlbEntry.mk 0 0 false pte0) ∧
     leafTarget (TlbEntry.mk 0 0 false pte0).pte (TlbEntry.mk 0 0 false pte0).big (relAddr (ent (wRel 146 2 2)).word) = Target.em 64 ∧
     (sRel 146 2 2 (xl sRun)).place 64 = some (Place.mk 0 64 0 0)) ∧
    (sTs.stopped = false ∧ 5 < 72 ∧ 4 < 16 ∧ sTs.slotOf 5 = some 5 ∧ (sTs.slot 5).kser = 0 ∧
     (List.find? (fun y => y.entry.ticket == 1) (sTs.queue 5 (QSel.ofNum 0)).inflight = some (Inflight.mk (ent (wRel 146 1 0)) (Phase.relSent 0))) ∧
     sTs.arrival 0 = some (Packet.mk Plane.reply (Endpoint.core 5) (Endpoint.core 6) (Payload.tallySig 0 0 1 0 4 9)) ∧ sTs.slotOf 6 = some 6 ∧
     6 < 72 ∧ sTs.closed 6 = false) ∧
    (sTsC.stopped = false ∧ 5 < 72 ∧ 4 < 16 ∧ sTsC.slotOf 5 = some 5 ∧ (sTsC.slot 5).kser = 0 ∧
     (List.find? (fun y => y.entry.ticket == 1) (sTsC.queue 5 (QSel.ofNum 0)).inflight = some (Inflight.mk (ent (wRel 146 1 0)) (Phase.relSent 0))) ∧
     sTsC.arrival 0 = some (Packet.mk Plane.reply (Endpoint.core 5) (Endpoint.core 6) (Payload.tallySig 0 0 1 0 4 9)) ∧ sTsC.slotOf 6 = some 6 ∧
     6 < 72 ∧ sTsC.closed 6 = true) :=
  ⟨by decide +kernel,
    by decide +kernel,
    by decide +kernel,
    by decide +kernel,
    by decide +kernel,
    by decide +kernel,
    by decide +kernel⟩

/-- States and operands that meet the hypotheses of Obligations.SignalsSentAndTaken, clause by clause (part 2). -/
theorem witness_SignalsSentAndTaken_2 :
    (sWs.stopped = false ∧ 5 < 72 ∧ 4 < 16 ∧ sWs.slotOf 5 = some 5 ∧ (sWs.slot 5).kser = 0 ∧
     (List.find? (fun y => y.entry.ticket == 1) (sWs.queue 5 (QSel.ofNum 0)).inflight = some (Inflight.mk (ent (wRel 146 1 0)) (Phase.relSent 0))) ∧
     sWs.arrival 0 = some (Packet.mk Plane.reply (Endpoint.core 5) (Endpoint.core 6) (Payload.wordSig 0 0 1 0 0 64 9)) ∧ sWs.slotOf 6 = some 6 ∧
     6 < 72 ∧ sWs.closed 6 = false) ∧
    ((dike sWs 6).stopped = false ∧ 5 < 72 ∧ 4 < 16 ∧ (dike sWs 6).slotOf 5 = some 5 ∧ ((dike sWs 6).slot 5).kser = 0 ∧
     (List.find? (fun y => y.entry.ticket == 1) ((dike sWs 6).queue 5 (QSel.ofNum 0)).inflight = some (Inflight.mk (ent (wRel 146 1 0)) (Phase.relSent 0))) ∧
     (dike sWs 6).arrival 0 = some (Packet.mk Plane.reply (Endpoint.core 5) (Endpoint.core 6) (Payload.wordSig 0 0 1 0 0 64 9)) ∧
     (dike sWs 6).slotOf 6 = some 6 ∧ 6 < 72 ∧ (dike sWs 6).closed 6 = true) ∧
    (sWsP.stopped = false ∧ 5 < 72 ∧ 4 < 16 ∧ sWsP.slotOf 5 = some 5 ∧ (sWsP.slot 5).kser = 0 ∧
     (List.find? (fun y => y.entry.ticket == 1) (sWsP.queue 5 (QSel.ofNum 0)).inflight = some (Inflight.mk (ent (wRel 146 1 0)) (Phase.relSent 0))) ∧
     sWsP.arrival 0 = some (Packet.mk Plane.reply (Endpoint.core 5) (Endpoint.sector 0) (Payload.wordSig 0 0 1 0 1 64 9)) ∧
     sWsP.behind (Endpoint.sector 0) = false) :=
  ⟨by decide +kernel,
    by decide +kernel,
    by decide +kernel⟩

/-- States and operands that meet the hypotheses of Obligations.PollsAndWalks, clause by clause (part 1). -/
theorem witness_PollsAndWalks_1 :
    (sHeldB.stopped = false ∧ QSel.xq = qOf false ∧ (sHeldB.queue (↑k5) QSel.xq).heldEntry = some (ent (wAcqW 148 1), 0, descOf 1 2) ∧
     acqRange (ent (wAcqW 148 1)).word = false ∧ sHeldB.sckOn ↑k5 = false ∧ (sHeldB.slot ↑k5).stopping = false ∧
     isAcqOn (ent (wAcqW 148 1)).word (descOf 1 2) 1 = true ∧
     (14 = 14 ∧ sHeldB.behind (Endpoint.sector (↑k5 / 9)) = true ∨ 14 = 11 ∧ sHeldB.behind (Endpoint.sector (↑k5 / 9)) = false ∧ sHeldB.poolBad (↑k5 / 9) (acqAddr (descOf 1 2)) 8 = true)) ∧
    (sHeldU.stopped = false ∧ QSel.xq = qOf false ∧ (sHeldU.queue (↑k5) QSel.xq).heldEntry = some (ent (wAcqW 148 1), 0, descOf 1 2) ∧
     acqRange (ent (wAcqW 148 1)).word = false ∧ sHeldU.sckOn ↑k5 = false ∧ (sHeldU.slot ↑k5).stopping = false ∧
     isAcqOn (ent (wAcqW 148 1)).word (descOf 1 2) 1 = true ∧
     (11 = 14 ∧ sHeldU.behind (Endpoint.sector (↑k5 / 9)) = true ∨ 11 = 11 ∧ sHeldU.behind (Endpoint.sector (↑k5 / 9)) = false ∧ sHeldU.poolBad (↑k5 / 9) (acqAddr (descOf 1 2)) 8 = true)) ∧
    ((sHeld 1 2 0).stopped = false ∧ QSel.xq = qOf false ∧ ((sHeld 1 2 0).queue (↑k5) QSel.xq).heldEntry = some (ent (wAcqW 148 1), 0, descOf 1 2) ∧
     acqRange (ent (wAcqW 148 1)).word = false ∧ (sHeld 1 2 0).sckOn ↑k5 = false ∧ ((sHeld 1 2 0).slot ↑k5).stopping = false ∧
     isAcqOn (ent (wAcqW 148 1)).word (descOf 1 2) 1 = true ∧ (sHeld 1 2 0).behind (Endpoint.sector (↑k5 / 9)) = false ∧
     (sHeld 1 2 0).poolBad (↑k5 / 9) (acqAddr (descOf 1 2)) 8 = false) ∧
    ((sHeld 1 0 0).stopped = false ∧ QSel.xq = qOf false ∧ ((sHeld 1 0 0).queue (↑k5) QSel.xq).heldEntry = some (ent (wAcqW 148 1), 0, descOf 1 0) ∧
     acqRange (ent (wAcqW 148 1)).word = false ∧ (sHeld 1 0 0).sckOn ↑k5 = false ∧ ((sHeld 1 0 0).slot ↑k5).stopping = false ∧
     isAcqOn (ent (wAcqW 148 1)).word (descOf 1 0) 1 = true ∧ (sHeld 1 0 0).behind (Endpoint.sector (↑k5 / 9)) = false ∧
     (sHeld 1 0 0).poolBad (↑k5 / 9) (acqAddr (descOf 1 0)) 8 = false) ∧
    (sEmp.stopped = false ∧ QSel.xq = qOf false ∧ (sEmp.queue (↑k5) QSel.xq).heldEntry = some (ent (wAcqW 148 1), 0, descOf 2 0) ∧
     acqRange (ent (wAcqW 148 1)).word = false ∧ sEmp.sckOn ↑k5 = false ∧ (sEmp.slot ↑k5).stopping = false ∧
     isAcqOn (ent (wAcqW 148 1)).word (descOf 2 0) 2 = true ∧
     (((sEmp.slot ↑k5).outs.any fun o => o.stream == 34 + QSel.xq.num && !o.dropped) = false) ∧ sEmp.walkerFull (sEmp.slot ↑k5).fleet = false ∧
     sEmp.stalled ↑k5 = false ∧
     sEmp.secHit (↑k5 / 9) (sEmp.slot ↑k5).fleet (acqAddr (descOf 2 0)) (XlAccess.mk false false false) = some (TlbEntry.mk 0 0 false pte0) ∧
     leafTarget (TlbEntry.mk 0 0 false pte0).pte (TlbEntry.mk 0 0 false pte0).big (acqAddr (descOf 2 0)) = Target.em 64 ∧
     sEmp.emLoadBy (Endpoint.core (sEmp.idOf ↑k5)) (clsPrio 0) 64 8 = (0, List.replicate 8 0, (sEmp.emLoad (clsPrio 0) 64 8).2.2) ∧ sEmp.asks = [] ∧
     (sEmp.emLoad (clsPrio 0) 64 8).2.2.asks ≠ []) ∧
    (sEmpG.stopped = false ∧ QSel.xq = qOf false ∧ (sEmpG.queue (↑k5) QSel.xq).heldEntry = some (ent (wAcqW 148 1), 0, descOf 2 0) ∧
     acqRange (ent (wAcqW 148 1)).word = false ∧ sEmpG.sckOn ↑k5 = false ∧ (sEmpG.slot ↑k5).stopping = false ∧
     isAcqOn (ent (wAcqW 148 1)).word (descOf 2 0) 2 = true ∧
     (((sEmpG.slot ↑k5).outs.any fun o => o.stream == 34 + QSel.xq.num && !o.dropped) = false) ∧ sEmpG.walkerFull (sEmpG.slot ↑k5).fleet = false ∧
     sEmpG.stalled ↑k5 = false ∧
     sEmpG.secHit (↑k5 / 9) (sEmpG.slot ↑k5).fleet (acqAddr (descOf 2 0)) (XlAccess.mk false false false) = some (TlbEntry.mk 0 0 false pte0) ∧
     leafTarget (TlbEntry.mk 0 0 false pte0).pte (TlbEntry.mk 0 0 false pte0).big (acqAddr (descOf 2 0)) = Target.em 64 ∧
     sEmpG.emLoadBy (Endpoint.core (sEmpG.idOf ↑k5)) (clsPrio 0) 64 8 = (0, List.replicate 8 0, (sEmpG.emLoad (clsPrio 0) 64 8).2.2) ∧
     sEmpG.asks = [] ∧ (sEmpG.emLoad (clsPrio 0) 64 8).2.2.asks = []) ∧
    ((∀ y ∈ ((sHeld 2 0 4 (xl sRun)).queue (↑k5) QSel.xq).inflight, ∀ (u : ℕ), y.phase = Phase.relSent u → u = 0) ∧
     (sHeld 2 0 4 (xl sRun)).stopped = false ∧ QSel.xq = qOf false ∧
     (sHeld 2 0 4 (xl sRun)).walkerFull ((sHeld 2 0 4 (xl sRun)).slot ↑k5).fleet = false ∧ 4 ≠ 0 ∧
     ((sHeld 2 0 4 (xl sRun)).slot ↑k5).stopping = false ∧ (sHeld 2 0 4 (xl sRun)).asks = [] ∧
     ((sHeld 2 0 4 (xl sRun)).queue (↑k5) QSel.xq).heldEntry = some (ent (wAcqW 148 1), 4, descOf 2 0) ∧
     (sHeld 2 0 4 (xl sRun)).secHit (↑k5 / 9) ((sHeld 2 0 4 (xl sRun)).slot ↑k5).fleet (acqAddr (descOf 2 0)) (XlAccess.mk false false false) = some (TlbEntry.mk 0 0 false pte0)) :=
  ⟨by decide +kernel,
    by decide +kernel,
    by decide +kernel,
    by decide +kernel,
    by decide +kernel,
    by decide +kernel,
    ⟨by intro y hy u hu; fin_cases hy; simp_all, by decide +kernel⟩⟩

/-- States and operands that meet the hypotheses of Obligations.PollsAndWalks, clause by clause (part 2). -/
theorem witness_PollsAndWalks_2 :
    (sWalkR.stopped = false ∧ QSel.xq = qOf false ∧ sWalkR.walkerFull (sWalkR.slot ↑k5).fleet = false ∧ 4 ≠ 0 ∧ (sWalkR.slot ↑k5).stopping = false ∧
     sWalkR.asks = [] ∧ (sWalkR.queue (↑k5) QSel.xq).heldEntry = none ∧
     (List.find? (fun y => match y.phase with | Phase.relSent u => u != 0 | _ => false) (sWalkR.queue (↑k5) QSel.xq).inflight = some (Inflight.mk (ent (wRel 146 2 2)) (Phase.relSent 4))) ∧
     sWalkR.secHit (↑k5 / 9) (sWalkR.slot ↑k5).fleet (relAddr (ent (wRel 146 2 2)).word) (XlAccess.mk true false false) = some (TlbEntry.mk 0 0 false pte0) ∧
     leafTarget (TlbEntry.mk 0 0 false pte0).pte (TlbEntry.mk 0 0 false pte0).big (relAddr (ent (wRel 146 2 2)).word) = Target.em 64 ∧
     sWalkR.place 64 = some (Place.mk 0 64 0 0)) :=
  by decide +kernel

/-- States and operands that meet the hypotheses of Obligations.StreamsRunAndHalt, clause by clause (part 1). -/
theorem witness_StreamsRunAndHalt_1 :
    ((sArm hCopy).stopped = false ∧ 3 = cf (ent wArm).word 119 115 ∧
     (((sArm hCopy).takeHead (↑k5) QSel.fq fun o => o == opcode (ent wArm).word) = some (ent wArm, emptied)) ∧ opcode (ent wArm).word = 128 ∧
     (hCopy ++ List.flatMap (fun w => natLE 8 (BitVec.toNat w)) (chart4 16) ++ List.replicate 96 0 = (sArm hCopy).tsRead (↑k5) (cf (ent wArm).word 111 80) 256) ∧
     (hCopy = List.take 128 (hCopy ++ List.flatMap (fun w => natLE 8 (BitVec.toNat w)) (chart4 16) ++ List.replicate 96 0)) ∧
     (chart4 16 = List.map (fun j => BitVec.ofNat 64 (blk (hCopy ++ List.flatMap (fun w => natLE 8 (BitVec.toNat w)) (chart4 16) ++ List.replicate 96 0) (128 + 8 * j) 8)) (List.range (min 16 (hNinst hCopy)))) ∧
     (sArm hCopy).armCheck (↑k5) (ent wArm).word = none ∧ (sArm hCopy).chartCheck (↑k5) hCopy (chart4 16) = none) ∧
    ((sArm (hdr [])).stopped = false ∧ 3 = cf (ent wArm).word 119 115 ∧
     (((sArm (hdr [])).takeHead (↑k5) QSel.fq fun o => o == opcode (ent wArm).word) = some (ent wArm, emptied)) ∧ opcode (ent wArm).word = 128 ∧
     (hdr [] ++ List.flatMap (fun w => natLE 8 (BitVec.toNat w)) (chart4 16) ++ List.replicate 96 0 = (sArm (hdr [])).tsRead (↑k5) (cf (ent wArm).word 111 80) 256) ∧
     (hdr [] = List.take 128 (hdr [] ++ List.flatMap (fun w => natLE 8 (BitVec.toNat w)) (chart4 16) ++ List.replicate 96 0)) ∧
     ([] = List.map (fun j => BitVec.ofNat 64 (blk (hdr [] ++ List.flatMap (fun w => natLE 8 (BitVec.toNat w)) (chart4 16) ++ List.replicate 96 0) (128 + 8 * j) 8)) (List.range (min 16 (hNinst (hdr []))))) ∧
     140 < 256 ∧
     ((sArm (hdr [])).armCheck (↑k5) (ent wArm).word = some 140 ∨ (sArm (hdr [])).armCheck (↑k5) (ent wArm).word = none ∧ (sArm (hdr [])).chartCheck (↑k5) (hdr []) [] = some 140)) ∧
    ((withStr hCopy StreamState.running (sArm hCopy)).stopped = false ∧ 3 = cf (ent wArm).word 119 115 ∧
     (((withStr hCopy StreamState.running (sArm hCopy)).takeHead (↑k5) QSel.fq fun o => o == opcode (ent wArm).word) = some (ent wArm, emptied)) ∧
     opcode (ent wArm).word = 128 ∧
     (hCopy ++ List.flatMap (fun w => natLE 8 (BitVec.toNat w)) (chart4 16) ++ List.replicate 96 0 = (withStr hCopy StreamState.running (sArm hCopy)).tsRead (↑k5) (cf (ent wArm).word 111 80) 256) ∧
     (hCopy = List.take 128 (hCopy ++ List.flatMap (fun w => natLE 8 (BitVec.toNat w)) (chart4 16) ++ List.replicate 96 0)) ∧
     (chart4 16 = List.map (fun j => BitVec.ofNat 64 (blk (hCopy ++ List.flatMap (fun w => natLE 8 (BitVec.toNat w)) (chart4 16) ++ List.replicate 96 0) (128 + 8 * j) 8)) (List.range (min 16 (hNinst hCopy)))) ∧
     141 < 256 ∧
     ((withStr hCopy StreamState.running (sArm hCopy)).armCheck (↑k5) (ent wArm).word = some 141 ∨ (withStr hCopy StreamState.running (sArm hCopy)).armCheck (↑k5) (ent wArm).word = none ∧ (withStr hCopy StreamState.running (sArm hCopy)).chartCheck (↑k5) hCopy (chart4 16) = some 141)) ∧
    ((withStr hCopy StreamState.done (fq wRearm)).stopped = false ∧ 3 = cf (ent wRearm).word 119 115 ∧
     (((withStr hCopy StreamState.done (fq wRearm)).takeHead (↑k5) QSel.fq fun o => o == opcode (ent wRearm).word) = some (ent wRearm, emptied)) ∧
     opcode (ent wRearm).word = 129 ∧ ((withStr hCopy StreamState.done (fq wRearm)).strm (↑k5) 3).state = StreamState.done ∧
     hPersist ((withStr hCopy StreamState.done (fq wRearm)).strm (↑k5) 3).header = true) ∧
    ((withStr hCopy StreamState.running (fq wRearm)).stopped = false ∧ 3 = cf (ent wRearm).word 119 115 ∧
     (((withStr hCopy StreamState.running (fq wRearm)).takeHead (↑k5) QSel.fq fun o => o == opcode (ent wRearm).word) = some (ent wRearm, emptied)) ∧
     opcode (ent wRearm).word = 129 ∧
     (((withStr hCopy StreamState.running (fq wRearm)).strm (↑k5) 3).state = StreamState.running ∨ ((withStr hCopy StreamState.running (fq wRearm)).strm (↑k5) 3).state = StreamState.halting) ∧
     hPersist ((withStr hCopy StreamState.running (fq wRearm)).strm (↑k5) 3).header = true) ∧
    ((withStr hCopy StreamState.halted (fq wRearm)).stopped = false ∧ 3 = cf (ent wRearm).word 119 115 ∧
     (((withStr hCopy StreamState.halted (fq wRearm)).takeHead (↑k5) QSel.fq fun o => o == opcode (ent wRearm).word) = some (ent wRearm, emptied)) ∧
     opcode (ent wRearm).word = 129 ∧
     (((withStr hCopy StreamState.halted (fq wRearm)).strm (↑k5) 3).state = StreamState.idle ∨ ((withStr hCopy StreamState.halted (fq wRearm)).strm (↑k5) 3).state = StreamState.halted ∨ ((withStr hCopy StreamState.halted (fq wRearm)).strm (↑k5) 3).state = StreamState.faulted ∨ hPersist ((withStr hCopy StreamState.halted (fq wRearm)).strm (↑k5) 3).header = false)) ∧
    ((withStr hCopy StreamState.running (fq (wNames 130))).stopped = false ∧
     (((withStr hCopy StreamState.running (fq (wNames 130))).takeHead (↑k5) QSel.fq fun o => o == 130) = some (ent (wNames 130), emptied))) :=
  ⟨by decide +kernel,
    by decide +kernel,
    by decide +kernel,
    by decide +kernel,
    by decide +kernel,
    by decide +kernel,
    by decide +kernel⟩

/-- States and operands that meet the hypotheses of Obligations.StreamsRunAndHalt, clause by clause (part 2). -/
theorem witness_StreamsRunAndHalt_2 :
    ((withStr hCopy StreamState.halted (fq (wNames 131))).stopped = false ∧
     (((withStr hCopy StreamState.halted (fq (wNames 131))).takeHead (↑k5) QSel.fq fun o => o == 131) = some (ent (wNames 131), emptied))) ∧
    ((withStr hCopy StreamState.halted).stopped = false ∧ (withStr hCopy StreamState.halted).reach (Reg.STRM_CTL ↑k5 ↑3) = Reach.ok) ∧
    ((withStr hCopy StreamState.faulted).stopped = false ∧ (withStr hCopy StreamState.faulted).reach (Reg.STRM_CTL ↑k5 ↑3) = Reach.ok) :=
  ⟨by decide +kernel,
    by decide +kernel,
    by decide +kernel⟩

/-- States and operands that meet the hypotheses of Obligations.ConvoysAndDeadlines, clause by clause (part 1). -/
theorem witness_ConvoysAndDeadlines_1 :
    ((withStr hConv StreamState.running (fq (wCredit 1 0))).stopped = false ∧
     (((withStr hConv StreamState.running (fq (wCredit 1 0))).takeHead (↑k5) QSel.fq fun o => o == 132) = some (ent (wCredit 1 0), emptied)) ∧
     (withStr hConv StreamState.running (fq (wCredit 1 0))).creditCheck (↑k5) (ent (wCredit 1 0)).word = none ∧
     1 = cf (ent (wCredit 1 0)).word 101 97 ∧
     strOf hConv StreamState.running = (withStr hConv StreamState.running (fq (wCredit 1 0))).strm (↑k5) (cf (ent (wCredit 1 0)).word 106 102) ∧
     3 = cf (ent (wCredit 1 0)).word 112 108 ∧ cb (ent (wCredit 1 0)).word 107 = true ∧
     (strOf hConv StreamState.running).issuedTiles ((strOf hConv StreamState.running).freed + 1) = false) ∧
    ((withStr hConv StreamState.running (fq (wCredit 0 0))).stopped = false ∧
     (((withStr hConv StreamState.running (fq (wCredit 0 0))).takeHead (↑k5) QSel.fq fun o => o == 132) = some (ent (wCredit 0 0), emptied)) ∧
     (withStr hConv StreamState.running (fq (wCredit 0 0))).creditCheck (↑k5) (ent (wCredit 0 0)).word = none ∧
     1 = cf (ent (wCredit 0 0)).word 101 97 ∧
     strOf hConv StreamState.running = (withStr hConv StreamState.running (fq (wCredit 0 0))).strm (↑k5) (cf (ent (wCredit 0 0)).word 106 102) ∧
     3 = cf (ent (wCredit 0 0)).word 112 108 ∧
     (cb (ent (wCredit 0 0)).word 107 = false ∨ (strOf hConv StreamState.running).issuedTiles ((strOf hConv StreamState.running).freed + 1) = true)) ∧
    ((withStr hConv StreamState.idle (fq (wCredit 0 0))).stopped = false ∧
     (((withStr hConv StreamState.idle (fq (wCredit 0 0))).takeHead (↑k5) QSel.fq fun o => o == 132) = some (ent (wCredit 0 0), emptied)) ∧
     (withStr hConv StreamState.idle (fq (wCredit 0 0))).creditCheck (↑k5) (ent (wCredit 0 0)).word = none ∧ 1 = cf (ent (wCredit 0 0)).word 101 97 ∧
     strOf hConv StreamState.idle = (withStr hConv StreamState.idle (fq (wCredit 0 0))).strm (↑k5) (cf (ent (wCredit 0 0)).word 106 102) ∧
     3 = cf (ent (wCredit 0 0)).word 112 108 ∧
     (cb (ent (wCredit 0 0)).word 107 = false ∨ (strOf hConv StreamState.idle).issuedTiles ((strOf hConv StreamState.idle).freed + 1) = true)) ∧
    ((sCredited StreamState.running).stopped = false ∧
     (sCredited StreamState.running).arrival 0 = some (Packet.mk Plane.reply (Endpoint.core 7) (Endpoint.core 5) (Payload.credit (↑3) 2)) ∧
     (sCredited StreamState.running).slotOf 5 = some ↑k5) ∧
    ((sCredited StreamState.idle).stopped = false ∧
     (sCredited StreamState.idle).arrival 0 = some (Packet.mk Plane.reply (Endpoint.core 7) (Endpoint.core 5) (Payload.credit (↑3) 2)) ∧
     (sCredited StreamState.idle).slotOf 5 = some ↑k5) ∧
    ((withStr hBound StreamState.running).stopped = false ∧ ((withStr hBound StreamState.running).strm ↑k5 ↑3).state ≠ StreamState.idle ∧
     hBounded ((withStr hBound StreamState.running).strm ↑k5 ↑3).header = true) ∧
    ((withStr hBound StreamState.running).stopped = false ∧ ((withStr hBound StreamState.running).strm ↑k5 ↑3).state ≠ StreamState.idle ∧
     hBounded ((withStr hBound StreamState.running).strm ↑k5 ↑3).header = true ∧
     ((withStr hBound StreamState.running).strm ↑k5 ↑3).state ≠ StreamState.done ∧ ((withStr hBound StreamState.running).strm ↑k5 ↑3).late = false) :=
  ⟨by decide +kernel,
    by decide +kernel,
    by decide +kernel,
    by decide +kernel,
    by decide +kernel,
    by decide +kernel,
    by decide +kernel⟩

/-- States and operands that meet the hypotheses of Obligations.ConvoysAndDeadlines, clause by clause (part 2). -/
theorem witness_ConvoysAndDeadlines_2 :
    ((((withStr hBound StreamState.running).modStrm 5 3 fun x => Stream.mk x.state x.ser x.insts x.bases x.header x.pos x.stop x.emitted x.emittedBytes x.issuedBytes x.tokens x.clim x.freed x.prevTiles x.arrBase x.deadline true x.walking x.fault x.shut).stopped = false) ∧
     ((((withStr hBound StreamState.running).modStrm 5 3 fun x => Stream.mk x.state x.ser x.insts x.bases x.header x.pos x.stop x.emitted x.emittedBytes x.issuedBytes x.tokens x.clim x.freed x.prevTiles x.arrBase x.deadline true x.walking x.fault x.shut).strm ↑k5 ↑3).state ≠ StreamState.idle) ∧
     (hBounded (((withStr hBound StreamState.running).modStrm 5 3 fun x => Stream.mk x.state x.ser x.insts x.bases x.header x.pos x.stop x.emitted x.emittedBytes x.issuedBytes x.tokens x.clim x.freed x.prevTiles x.arrBase x.deadline true x.walking x.fault x.shut).strm ↑k5 ↑3).header = true) ∧
     ((((withStr hBound StreamState.running).modStrm 5 3 fun x => Stream.mk x.state x.ser x.insts x.bases x.header x.pos x.stop x.emitted x.emittedBytes x.issuedBytes x.tokens x.clim x.freed x.prevTiles x.arrBase x.deadline true x.walking x.fault x.shut).strm ↑k5 ↑3).late = true)) :=
  by decide +kernel

/-- States and operands that meet the hypotheses of Obligations.TransfersMade, clause by clause (part 1). -/
theorem witness_TransfersMade_1 :
    ((withStr hPool StreamState.running).stopped = false ∧ ((withStr hPool StreamState.running).chartsRun 5).pickStrm ↑k5 = some (3, 1) ∧ 3 < 32 ∧
     (((withStr hPool StreamState.running).chartsRun 5).strm (↑k5) 3).emitted = [e16] ∧
     hPool = (((withStr hPool StreamState.running).chartsRun 5).strm (↑k5) 3).header ∧
     e16 = (((withStr hPool StreamState.running).chartsRun 5).mergeEmits (↑k5) (((withStr hPool StreamState.running).chartsRun 5).strm (↑k5) 3) e16 [] 0).1 ∧
     ((withStr hPool StreamState.running).chartsRun 5).badAddr (↑k5) hPool e16.src e16.dst e16.len = true) ∧
    ((withStr hCopy StreamState.running).stopped = false ∧ ((withStr hCopy StreamState.running).chartsRun 5).pickStrm ↑k5 = some (3, 1) ∧ 3 < 32 ∧
     (((withStr hCopy StreamState.running).chartsRun 5).strm (↑k5) 3).emitted = [e16] ∧
     hCopy = (((withStr hCopy StreamState.running).chartsRun 5).strm (↑k5) 3).header ∧
     e16 = (((withStr hCopy StreamState.running).chartsRun 5).mergeEmits (↑k5) (((withStr hCopy StreamState.running).chartsRun 5).strm (↑k5) 3) e16 [] 0).1 ∧
     ((withStr hCopy StreamState.running).chartsRun 5).badAddr (↑k5) hCopy e16.src e16.dst e16.len = false) ∧
    ((withStr hPut StreamState.running).stopped = false ∧ ((withStr hPut StreamState.running).chartsRun 5).pickStrm ↑k5 = some (3, 1) ∧ 3 < 32 ∧
     (((withStr hPut StreamState.running).chartsRun 5).strm (↑k5) 3).emitted = [e16] ∧
     hPut = (((withStr hPut StreamState.running).chartsRun 5).strm (↑k5) 3).header ∧
     e16 = (((withStr hPut StreamState.running).chartsRun 5).mergeEmits (↑k5) (((withStr hPut StreamState.running).chartsRun 5).strm (↑k5) 3) e16 [] 0).1 ∧
     ((withStr hPut StreamState.running).chartsRun 5).badAddr (↑k5) hPut e16.src e16.dst e16.len = false) ∧
    ((sLand (Payload.put 3 1024 [1, 2, 3] (some 2))).stopped = false ∧ (sLand (Payload.put 3 1024 [1, 2, 3] (some 2))).slotOf 5 = some 5 ∧ 5 < 72 ∧
     (sLand (Payload.put 3 1024 [1, 2, 3] (some 2))).closed 5 = false ∧
     (sLand (Payload.put 3 1024 [1, 2, 3] (some 2))).behind (Endpoint.core 5) = false ∧
     ((Payload.put 3 1024 [1, 2, 3] (some 2), Payload.xferAck 3 0) ∈ [(Payload.put 3 1024 [1, 2, 3] (some 2), Payload.xferAck 3 0), (Payload.bulk 3 1024 [1, 2, 3] (some 2), Payload.bulkAck 3 0), (Payload.result 3 1024 [1, 2, 3] (some 2), Payload.resultAck 3), (Payload.deliver 3 1024 [1, 2, 3] (some 2), Payload.deliverAck 3 0 [1, 2, 3].length)]) ∧
     (sLand (Payload.put 3 1024 [1, 2, 3] (some 2))).arrival 0 = some (Packet.mk Plane.data (Endpoint.core 7) (Endpoint.core 5) (Payload.put 3 1024 [1, 2, 3] (some 2), Payload.xferAck 3 0).1) ∧
     1024 + [1, 2, 3].length ≤ 8388608) ∧
    ((sLand (Payload.bulk 3 1024 [1, 2, 3] (some 2))).stopped = false ∧ (sLand (Payload.bulk 3 1024 [1, 2, 3] (some 2))).slotOf 5 = some 5 ∧ 5 < 72 ∧
     (sLand (Payload.bulk 3 1024 [1, 2, 3] (some 2))).closed 5 = false ∧
     (sLand (Payload.bulk 3 1024 [1, 2, 3] (some 2))).behind (Endpoint.core 5) = false ∧
     ((Payload.bulk 3 1024 [1, 2, 3] (some 2), Payload.bulkAck 3 0) ∈ [(Payload.put 3 1024 [1, 2, 3] (some 2), Payload.xferAck 3 0), (Payload.bulk 3 1024 [1, 2, 3] (some 2), Payload.bulkAck 3 0), (Payload.result 3 1024 [1, 2, 3] (some 2), Payload.resultAck 3), (Payload.deliver 3 1024 [1, 2, 3] (some 2), Payload.deliverAck 3 0 [1, 2, 3].length)]) ∧
     (sLand (Payload.bulk 3 1024 [1, 2, 3] (some 2))).arrival 0 = some (Packet.mk Plane.data (Endpoint.core 7) (Endpoint.core 5) (Payload.bulk 3 1024 [1, 2, 3] (some 2), Payload.bulkAck 3 0).1) ∧
     1024 + [1, 2, 3].length ≤ 8388608) ∧
    ((sData XferKind.fetch (Payload.xferData 9 0 [1, 2])).stopped = false ∧ (sData XferKind.fetch (Payload.xferData 9 0 [1, 2])).slotOf 5 = some 5 ∧
     5 < 72 ∧ (sData XferKind.fetch (Payload.xferData 9 0 [1, 2])).closed 5 = false ∧
     (sData XferKind.fetch (Payload.xferData 9 0 [1, 2])).behind (Endpoint.core 5) = false ∧
     (sData XferKind.fetch (Payload.xferData 9 0 [1, 2])).arrival 0 = some (Packet.mk Plane.data (Endpoint.core 7) (Endpoint.core 5) (Payload.xferData 9 0 [1, 2])) ∧
     5 < 64 ∧ (sData XferKind.fetch (Payload.xferData 9 0 [1, 2])).findOut 5 9 = some (out3 XferKind.fetch) ∧ (out3 XferKind.fetch).dropped = false ∧
     (out3 XferKind.fetch).stream < 32 ∧ (out3 XferKind.fetch).kind ≠ XferKind.put) ∧
    ((sData XferKind.writeOut (Payload.xferAck 9 0) hOut).stopped = false ∧ (sData XferKind.writeOut (Payload.xferAck 9 0) hOut).slotOf 5 = some 5 ∧
     5 < 72 ∧ 5 < 64 ∧
     (sData XferKind.writeOut (Payload.xferAck 9 0) hOut).arrival 0 = some (Packet.mk Plane.data (Endpoint.core 7) (Endpoint.core 5) (Payload.xferAck 9 0)) ∧
     (sData XferKind.writeOut (Payload.xferAck 9 0) hOut).findOut 5 9 = some (out3 XferKind.writeOut) ∧ (out3 XferKind.writeOut).stream < 32) :=
  ⟨by decide +kernel,
    by decide +kernel,
    by decide +kernel,
    by decide +kernel,
    by decide +kernel,
    by decide +kernel,
    by decide +kernel⟩

/-- States and operands that meet the hypotheses of Obligations.TransfersMade, clause by clause (part 2). -/
theorem witness_TransfersMade_2 :
    ((sData XferKind.writeOut (Payload.xferAck 9 11) hOut).stopped = false ∧ (sData XferKind.writeOut (Payload.xferAck 9 11) hOut).slotOf 5 = some 5 ∧
     5 < 72 ∧ 5 < 64 ∧
     (sData XferKind.writeOut (Payload.xferAck 9 11) hOut).arrival 0 = some (Packet.mk Plane.data (Endpoint.core 7) (Endpoint.core 5) (Payload.xferAck 9 11)) ∧
     (sData XferKind.writeOut (Payload.xferAck 9 11) hOut).findOut 5 9 = some (out3 XferKind.writeOut) ∧ (out3 XferKind.writeOut).stream < 32 ∧
     0 < 11 ∧ 11 < 256 ∧
     ((sData XferKind.writeOut (Payload.xferAck 9 11) hOut).strm 5 (out3 XferKind.writeOut).stream).ser = (out3 XferKind.writeOut).ser ∧
     ((sData XferKind.writeOut (Payload.xferAck 9 11) hOut).strm 5 (out3 XferKind.writeOut).stream).state ≠ StreamState.idle) :=
  by decide +kernel

/-- States and operands that meet the hypotheses of Obligations.MessagesIssued, clause by clause. -/
theorem witness_MessagesIssued :
    ((sMsg (wSend 4 0)).issues (↑k5) false ∧ (sMsg (wSend 4 0)).fetches (↑k5) false (ncxWord 2 1 0 3) ∧ 3 < 32 ∧ 1 < 32 ∧ 2 < 32 ∧
     wSend 4 0 = (sMsg (wSend 4 0)).getX (↑k5) false 1 ++ (sMsg (wSend 4 0)).getX (↑k5) false 2 ∧ (false = false ∨ opcode (wSend 4 0) = 161) ∧
     ((Instr.msgSend k5 false, 160, false) ∈ [(Instr.msgSend k5 false, 160, false), (Instr.msgReply k5 false, 161, false), (Instr.shortMulticast k5 false, 162, false), (Instr.bulkMulticast k5 false, 162, true), (Instr.msgComb k5 false, 163, false)]) ∧
     opcode (wSend 4 0) = (Instr.msgSend k5 false, 160, false).2.1 ∧ isBulk (wSend 4 0) = (Instr.msgSend k5 false, 160, false).2.2 ∧
     (sMsg (wSend 4 0)).msgCheck (Sender.core (↑k5) false) (wSend 4 0) = none ∧ (sMsg (wSend 4 0)).sendOcc (↑k5) false < 4 ∧
     (opcode (wSend 4 0) = 161 ∨ (sMsg (wSend 4 0)).stalled ↑k5 = false) ∧ (sMsg (wSend 4 0)).groupChanging (wSend 4 0) = false ∧
     (¬(opcode (wSend 4 0) = 160 ∧ cb (wSend 4 0) 107 = true ∧ (sMsg (wSend 4 0)).canReserve (Home.core (↑k5) (cf (wSend 4 0) 106 103)) = false))) ∧
    ((chan 3 1 (sMsg (wSend 4 1))).issues (↑k5) false ∧ (chan 3 1 (sMsg (wSend 4 1))).fetches (↑k5) false (ncxWord 2 1 0 3) ∧ 3 < 32 ∧ 1 < 32 ∧
     2 < 32 ∧ wSend 4 1 = (chan 3 1 (sMsg (wSend 4 1))).getX (↑k5) false 1 ++ (chan 3 1 (sMsg (wSend 4 1))).getX (↑k5) false 2 ∧
     (false = false ∨ opcode (wSend 4 1) = 161) ∧
     ((Instr.msgSend k5 false, 160, false) ∈ [(Instr.msgSend k5 false, 160, false), (Instr.msgReply k5 false, 161, false), (Instr.shortMulticast k5 false, 162, false), (Instr.bulkMulticast k5 false, 162, true), (Instr.msgComb k5 false, 163, false)]) ∧
     opcode (wSend 4 1) = (Instr.msgSend k5 false, 160, false).2.1 ∧ isBulk (wSend 4 1) = (Instr.msgSend k5 false, 160, false).2.2 ∧
     (chan 3 1 (sMsg (wSend 4 1))).msgCheck (Sender.core (↑k5) false) (wSend 4 1) = none ∧ (chan 3 1 (sMsg (wSend 4 1))).sendOcc (↑k5) false < 4 ∧
     (opcode (wSend 4 1) = 161 ∨ (chan 3 1 (sMsg (wSend 4 1))).stalled ↑k5 = false) ∧
     (chan 3 1 (sMsg (wSend 4 1))).groupChanging (wSend 4 1) = false ∧
     (¬(opcode (wSend 4 1) = 160 ∧ cb (wSend 4 1) 107 = true ∧ (chan 3 1 (sMsg (wSend 4 1))).canReserve (Home.core (↑k5) (cf (wSend 4 1) 106 103)) = false))) ∧
    ((send4 (sMsg (wSend 4 0))).issues (↑k5) false ∧ (send4 (sMsg (wSend 4 0))).fetches (↑k5) false (ncxWord 2 1 0 3) ∧ 3 < 32 ∧ 1 < 32 ∧ 2 < 32 ∧
     wSend 4 0 = (send4 (sMsg (wSend 4 0))).getX (↑k5) false 1 ++ (send4 (sMsg (wSend 4 0))).getX (↑k5) false 2 ∧
     (false = false ∨ opcode (wSend 4 0) = 161) ∧
     ((Instr.msgSend k5 false, 160, false) ∈ [(Instr.msgSend k5 false, 160, false), (Instr.msgReply k5 false, 161, false), (Instr.shortMulticast k5 false, 162, false), (Instr.bulkMulticast k5 false, 162, true), (Instr.msgComb k5 false, 163, false)]) ∧
     opcode (wSend 4 0) = (Instr.msgSend k5 false, 160, false).2.1 ∧ isBulk (wSend 4 0) = (Instr.msgSend k5 false, 160, false).2.2 ∧
     (send4 (sMsg (wSend 4 0))).msgCheck (Sender.core (↑k5) false) (wSend 4 0) = none ∧
     (4 ≤ (send4 (sMsg (wSend 4 0))).sendOcc (↑k5) false ∨ opcode (wSend 4 0) ≠ 161 ∧ (send4 (sMsg (wSend 4 0))).stalled ↑k5 = true ∨ (send4 (sMsg (wSend 4 0))).groupChanging (wSend 4 0) = true ∨ opcode (wSend 4 0) = 160 ∧ cb (wSend 4 0) 107 = true ∧ (send4 (sMsg (wSend 4 0))).canReserve (Home.core (↑k5) (cf (wSend 4 0) 106 103)) = false)) ∧
    ((sMsg (wSend 4 1)).issues (↑k5) false ∧ (sMsg (wSend 4 1)).fetches (↑k5) false (ncxWord 2 1 0 3) ∧ 3 < 32 ∧ 1 < 32 ∧ 2 < 32 ∧
     wSend 4 1 = (sMsg (wSend 4 1)).getX (↑k5) false 1 ++ (sMsg (wSend 4 1)).getX (↑k5) false 2 ∧ (false = false ∨ opcode (wSend 4 1) = 161) ∧
     ((Instr.msgSend k5 false, 160, false) ∈ [(Instr.msgSend k5 false, 160, false), (Instr.msgReply k5 false, 161, false), (Instr.shortMulticast k5 false, 162, false), (Instr.bulkMulticast k5 false, 162, true), (Instr.msgComb k5 false, 163, false)]) ∧
     opcode (wSend 4 1) = (Instr.msgSend k5 false, 160, false).2.1 ∧ isBulk (wSend 4 1) = (Instr.msgSend k5 false, 160, false).2.2 ∧
     (sMsg (wSend 4 1)).msgCheck (Sender.core (↑k5) false) (wSend 4 1) = some 130) :=
  ⟨⟨by unfold State.issues; decide +kernel, by unfold State.fetches; decide +kernel, by decide +kernel⟩,
    ⟨by unfold State.issues; decide +kernel, by unfold State.fetches; decide +kernel, by decide +kernel⟩,
    ⟨by unfold State.issues; decide +kernel, by unfold State.fetches; decide +kernel, by decide +kernel⟩,
    ⟨by unfold State.issues; decide +kernel, by unfold State.fetches; decide +kernel, by decide +kernel⟩⟩

/-- States and operands that meet the hypotheses of Obligations.MessagesArrive, clause by clause (part 1). -/
theorem witness_MessagesArrive_1 :
    (sRq.stopped = false ∧ sRq.slotOf 5 = some 5 ∧ 5 < 72 ∧ 2 < 16 ∧ sRq.behind (Endpoint.core 5) = false ∧ msg1.pay.length ≤ 4 ∧
     sRq.arrival 0 = some (Packet.mk Plane.request (Endpoint.core 7) (Endpoint.core 5) (Payload.msg 2 msg1)) ∧
     sRq.finalRefusal (Home.core 5 2) msg1 false = none ∧ sRq.needs (Home.core 5 2) msg1.pay.length ≤ sRq.ringFree (Home.core 5 2).blk ∧
     ((msg1.kind, msg1.sid) ∉ sRq.waiters 5 2 ∨ msg1.retry = true)) ∧
    (sRqSkip.stopped = false ∧ sRqSkip.slotOf 5 = some 5 ∧ 5 < 72 ∧ 2 < 16 ∧ sRqSkip.behind (Endpoint.core 5) = false ∧ msg1.pay.length ≤ 4 ∧
     sRqSkip.arrival 0 = some (Packet.mk Plane.request (Endpoint.core 7) (Endpoint.core 5) (Payload.msg 2 msg1)) ∧
     sRqSkip.finalRefusal (Home.core 5 2) msg1 false = none ∧ sRqSkip.needs (Home.core 5 2) msg1.pay.length ≤ sRqSkip.ringFree (Home.core 5 2).blk ∧
     ((msg1.kind, msg1.sid) ∉ sRqSkip.waiters 5 2 ∨ msg1.retry = true)) ∧
    ((sRp 1).stopped = false ∧ (sRp 1).slotOf 5 = some 5 ∧ 5 < 72 ∧ 2 < 16 ∧ (sRp 1).behind (Endpoint.core 5) = false ∧ msg2.pay.length ≤ 4 ∧
     (sRp 1).arrival 0 = some (Packet.mk Plane.reply (Endpoint.core 7) (Endpoint.core 5) (Payload.msg 2 msg2)) ∧
     (sRp 1).finalRefusal (Home.core 5 2) msg2 true = none ∧ 0 < (sRp 1).fld (Reg.CH_CFG 5 2 + 24) F.CH_STAT_RSVN) ∧
    (sRpSkip.stopped = false ∧ sRpSkip.slotOf 5 = some 5 ∧ 5 < 72 ∧ 2 < 16 ∧ sRpSkip.behind (Endpoint.core 5) = false ∧ msg2.pay.length ≤ 4 ∧
     sRpSkip.arrival 0 = some (Packet.mk Plane.reply (Endpoint.core 7) (Endpoint.core 5) (Payload.msg 2 msg2)) ∧
     sRpSkip.finalRefusal (Home.core 5 2) msg2 true = none ∧ 0 < sRpSkip.fld (Reg.CH_CFG 5 2 + 24) F.CH_STAT_RSVN) ∧
    (sRqFull.stopped = false ∧ sRqFull.slotOf 5 = some 5 ∧ 5 < 72 ∧ 2 < 16 ∧ sRqFull.behind (Endpoint.core 5) = false ∧ msg1.pay.length ≤ 4 ∧
     sRqFull.arrival 0 = some (Packet.mk Plane.request (Endpoint.core 7) (Endpoint.core 5) (Payload.msg 2 msg1)) ∧
     sRqFull.finalRefusal (Home.core 5 2) msg1 false = none ∧
     (sRqFull.ringFree (Home.core 5 2).blk < sRqFull.needs (Home.core 5 2) msg1.pay.length ∨ (msg1.kind, msg1.sid) ∈ sRqFull.waiters 5 2 ∧ msg1.retry = false) ∧
     sRqFull.fld (Reg.CH_CFG 5 2 + 24) F.CH_STAT_REFUSALS < 65535) ∧
    (sRqOff.stopped = false ∧ sRqOff.slotOf 5 = some 5 ∧ 5 < 72 ∧ 2 < 16 ∧ sRqOff.behind (Endpoint.core 5) = false ∧ msg1.pay.length ≤ 4 ∧
     sRqOff.arrival 0 = some (Packet.mk Plane.request (Endpoint.core 7) (Endpoint.core 5) (Payload.msg 2 msg1)) ∧
     sRqOff.finalRefusal (Home.core 5 2) msg1 false = some 9) ∧
    ((sRp 0).stopped = false ∧ (sRp 0).slotOf 5 = some 5 ∧ 5 < 72 ∧ 2 < 16 ∧ (sRp 0).behind (Endpoint.core 5) = false ∧ msg2.pay.length ≤ 4 ∧
     (sRp 0).arrival 0 = some (Packet.mk Plane.reply (Endpoint.core 7) (Endpoint.core 5) (Payload.msg 2 msg2)) ∧
     (sRp 0).finalRefusal (Home.core 5 2) msg2 true = none ∧ (sRp 0).fld (Reg.CH_CFG 5 2 + 24) F.CH_STAT_RSVN = 0) :=
  ⟨by decide +kernel,
    by decide +kernel,
    by decide +kernel,
    by decide +kernel,
    by decide +kernel,
    by decide +kernel,
    by decide +kernel⟩

/-- States and operands that meet the hypotheses of Obligations.MessagesArrive, clause by clause (part 2). -/
theorem witness_MessagesArrive_2 :
    ((sBack (Payload.admission 2 9) [(Endpoint.core 7, 2)] []).stopped = false ∧
     (sBack (Payload.admission 2 9) [(Endpoint.core 7, 2)] []).slotOf 5 = some 5 ∧ 5 < 72 ∧
     (sBack (Payload.admission 2 9) [(Endpoint.core 7, 2)] []).arrival 0 = some (Packet.mk Plane.data (Endpoint.core 7) (Endpoint.core 5) (Payload.admission 2 9)) ∧
     (List.find? (fun y => y.id == 9) ((sBack (Payload.admission 2 9) [(Endpoint.core 7, 2)] []).slot 5).sendM = some (entry9 [(Endpoint.core 7, 2)] [])) ∧
     [] = (entry9 [(Endpoint.core 7, 2)] []).waiting.erase (Endpoint.core 7, 2)) ∧
    ((sBack (Payload.admission 2 9) [(Endpoint.core 7, 2), (Endpoint.core 6, 2)] []).stopped = false ∧
     (sBack (Payload.admission 2 9) [(Endpoint.core 7, 2), (Endpoint.core 6, 2)] []).slotOf 5 = some 5 ∧ 5 < 72 ∧
     (sBack (Payload.admission 2 9) [(Endpoint.core 7, 2), (Endpoint.core 6, 2)] []).arrival 0 = some (Packet.mk Plane.data (Endpoint.core 7) (Endpoint.core 5) (Payload.admission 2 9)) ∧
     (List.find? (fun y => y.id == 9) ((sBack (Payload.admission 2 9) [(Endpoint.core 7, 2), (Endpoint.core 6, 2)] []).slot 5).sendM = some (entry9 [(Endpoint.core 7, 2), (Endpoint.core 6, 2)] [])) ∧
     [(Endpoint.core 6, 2)] = (entry9 [(Endpoint.core 7, 2), (Endpoint.core 6, 2)] []).waiting.erase (Endpoint.core 7, 2)) ∧
    ((sBack (Payload.refusal 2 9 0 msg1) [(Endpoint.core 7, 2)] []).stopped = false ∧
     (sBack (Payload.refusal 2 9 0 msg1) [(Endpoint.core 7, 2)] []).slotOf 5 = some 5 ∧ 5 < 72 ∧
     (sBack (Payload.refusal 2 9 0 msg1) [(Endpoint.core 7, 2)] []).arrival 0 = some (Packet.mk Plane.data (Endpoint.core 7) (Endpoint.core 5) (Payload.refusal 2 9 0 msg1)) ∧
     msg1.type ≠ 2 ∧
     (List.find? (fun y => y.id == 9) ((sBack (Payload.refusal 2 9 0 msg1) [(Endpoint.core 7, 2)] []).slot 5).sendM = some (entry9 [(Endpoint.core 7, 2)] [])) ∧
     ([entry9 [] [(Endpoint.core 7, 2)]] = List.map (fun y => if y.id = (entry9 [(Endpoint.core 7, 2)] []).id then SendEntry.mk (entry9 [(Endpoint.core 7, 2)] []).id (entry9 [(Endpoint.core 7, 2)] []).word (entry9 [(Endpoint.core 7, 2)] []).msg ((entry9 [(Endpoint.core 7, 2)] []).waiting.erase (Endpoint.core 7, 2)) ((entry9 [(Endpoint.core 7, 2)] []).refused ++ [(Endpoint.core 7, 2)]) (entry9 [(Endpoint.core 7, 2)] []).woken else y) ((sBack (Payload.refusal 2 9 0 msg1) [(Endpoint.core 7, 2)] []).slot 5).sendM)) ∧
    ((sBack (Payload.refusal 2 9 4 msg1) [(Endpoint.core 7, 2)] []).stopped = false ∧
     (sBack (Payload.refusal 2 9 4 msg1) [(Endpoint.core 7, 2)] []).slotOf 5 = some 5 ∧ 5 < 72 ∧
     (sBack (Payload.refusal 2 9 4 msg1) [(Endpoint.core 7, 2)] []).arrival 0 = some (Packet.mk Plane.data (Endpoint.core 7) (Endpoint.core 5) (Payload.refusal 2 9 4 msg1)) ∧
     0 < 4 ∧ 4 < 256 ∧ msg1.op < 256 ∧ msg1.rq = false ∧
     (msg1.type = 2 ∨ List.find? (fun y => y.id == 9) ((sBack (Payload.refusal 2 9 4 msg1) [(Endpoint.core 7, 2)] []).slot 5).sendM = some (entry9 [(Endpoint.core 7, 2)] []))) ∧
    ((sBack (Payload.refusal 2 9 4 msg2) [(Endpoint.core 7, 2)] []).stopped = false ∧
     (sBack (Payload.refusal 2 9 4 msg2) [(Endpoint.core 7, 2)] []).slotOf 5 = some 5 ∧ 5 < 72 ∧
     (sBack (Payload.refusal 2 9 4 msg2) [(Endpoint.core 7, 2)] []).arrival 0 = some (Packet.mk Plane.data (Endpoint.core 7) (Endpoint.core 5) (Payload.refusal 2 9 4 msg2)) ∧
     0 < 4 ∧ 4 < 256 ∧ msg2.op < 256 ∧ msg2.rq = false ∧
     (msg2.type = 2 ∨ List.find? (fun y => y.id == 9) ((sBack (Payload.refusal 2 9 4 msg2) [(Endpoint.core 7, 2)] []).slot 5).sendM = some (entry9 [(Endpoint.core 7, 2)] []))) ∧
    ((sBack (Payload.wake 2) [] [(Endpoint.core 7, 2)]).stopped = false ∧ (sBack (Payload.wake 2) [] [(Endpoint.core 7, 2)]).slotOf 5 = some 5 ∧
     5 < 72 ∧
     (sBack (Payload.wake 2) [] [(Endpoint.core 7, 2)]).arrival 0 = some (Packet.mk Plane.data (Endpoint.core 7) (Endpoint.core 5) (Payload.wake 2)) ∧
     (∀ y ∈ ((sBack (Payload.wake 2) [] [(Endpoint.core 7, 2)]).slot 5).sendM, (Endpoint.core 7, 2) ∉ y.waiting) ∧
     (sBack (Payload.wake 2) [] [(Endpoint.core 7, 2)]).stalled ((sBack (Payload.wake 2) [] [(Endpoint.core 7, 2)]).polderOf (Endpoint.core 5)) = false) ∧
    ((sBack (Payload.wake 2) [(Endpoint.core 7, 2)] [(Endpoint.core 7, 2)]).stopped = false ∧
     (sBack (Payload.wake 2) [(Endpoint.core 7, 2)] [(Endpoint.core 7, 2)]).slotOf 5 = some 5 ∧ 5 < 72 ∧
     (sBack (Payload.wake 2) [(Endpoint.core 7, 2)] [(Endpoint.core 7, 2)]).arrival 0 = some (Packet.mk Plane.data (Endpoint.core 7) (Endpoint.core 5) (Payload.wake 2)) ∧
     ((∃ y ∈ ((sBack (Payload.wake 2) [(Endpoint.core 7, 2)] [(Endpoint.core 7, 2)]).slot 5).sendM, (Endpoint.core 7, 2) ∈ y.waiting) ∨ (sBack (Payload.wake 2) [(Endpoint.core 7, 2)] [(Endpoint.core 7, 2)]).stalled ((sBack (Payload.wake 2) [(Endpoint.core 7, 2)] [(Endpoint.core 7, 2)]).polderOf (Endpoint.core 5)) = true)) :=
  ⟨by decide +kernel,
    by decide +kernel,
    by decide +kernel,
    by decide +kernel,
    by decide +kernel,
    by decide +kernel,
    by decide +kernel⟩

/-- States and operands that meet the hypotheses of Obligations.MessagesArrive, clause by clause (part 3). -/
theorem witness_MessagesArrive_3 :
    (sWakeS.stopped = false ∧ sWakeS.slotOf 5 = some 5 ∧ 5 < 72 ∧
     sWakeS.arrival 0 = some (Packet.mk Plane.reply (Endpoint.core 7) (Endpoint.core 5) (Payload.wake 2)) ∧
     ((∃ y ∈ (sWakeS.slot 5).sendM, (Endpoint.core 7, 2) ∈ y.waiting) ∨ sWakeS.stalled (sWakeS.polderOf (Endpoint.core 5)) = true)) :=
  by decide +kernel

/-- States and operands that meet the hypotheses of Obligations.ChannelsEnabledAndReset, clause by clause. -/
theorem witness_ChannelsEnabledAndReset :
    (s0.stopped = false ∧ s0.reach (Reg.CH_CFG ↑5 ↑2) = Reach.ok ∧ s0.flag (Reg.CH_CFG ↑5 ↑2) F.CH_CFG_EN = false ∧
     getF (chCfg 0 8388352) F.CH_CFG_SIZE ≤ 12 ∧ getF (chCfg 0 8388352) F.CH_CFG_BASE % 256 = 0 ∧
     getF (chCfg 0 8388352) F.CH_CFG_BASE + 256 * 2 ^ getF (chCfg 0 8388352) F.CH_CFG_SIZE ≤ 8388608) ∧
    (s0.stopped = false ∧ s0.reach (Reg.CH_CFG ↑5 ↑2) = Reach.ok ∧ s0.flag (Reg.CH_CFG ↑5 ↑2) F.CH_CFG_EN = false ∧
     getF (chCfg 1 8388352) F.CH_CFG_SIZE ≤ 12 ∧ getF (chCfg 1 8388352) F.CH_CFG_BASE % 256 = 0 ∧
     8388608 < getF (chCfg 1 8388352) F.CH_CFG_BASE + 256 * 2 ^ getF (chCfg 1 8388352) F.CH_CFG_SIZE) ∧
    ((Tests.em s0).stopped = false ∧ (Tests.em s0).reach (Reg.HCH_CFG ↑3) = Reach.ok ∧ (Tests.em s0).flag (Reg.HCH_CFG ↑3) F.CH_CFG_EN = false ∧
     getF (hchCfg 0 256) F.CH_CFG_SIZE ≤ 12 ∧ getF (hchCfg 0 256) F.HCH_CFG_BASE % 256 = 0 ∧
     ((Tests.em s0).regionFor (getF (hchCfg 0 256) F.HCH_CFG_BASE) (256 * 2 ^ getF (hchCfg 0 256) F.CH_CFG_SIZE)).isSome = true) ∧
    (s0.stopped = false ∧ s0.reach (Reg.HCH_CFG ↑3) = Reach.ok ∧ s0.flag (Reg.HCH_CFG ↑3) F.CH_CFG_EN = false ∧
     getF (hchCfg 0 256) F.CH_CFG_SIZE ≤ 12 ∧ getF (hchCfg 0 256) F.HCH_CFG_BASE % 256 = 0 ∧
     (s0.regionFor (getF (hchCfg 0 256) F.HCH_CFG_BASE) (256 * 2 ^ getF (hchCfg 0 256) F.CH_CFG_SIZE)).isSome = false) ∧
    (sRqFull.stopped = false ∧ sRqFull.reach (Reg.CH_CFG ↑5 ↑2) = Reach.ok) ∧
    ((Tests.em s0).stopped = false ∧ (Tests.em s0).reach (Reg.HCH_CFG ↑3) = Reach.ok) :=
  ⟨by decide +kernel,
    by decide +kernel,
    by decide +kernel,
    by decide +kernel,
    by decide +kernel,
    by decide +kernel⟩

/-- States and operands that meet the hypotheses of Obligations.GroupsAndNodes, clause by clause (part 1). -/
theorem witness_GroupsAndNodes_1 :
    ((sBulk bulk1 (Payload.bulkAck 9 0)).stopped = false ∧
     (List.find? (fun y => decide (y.pos < y.len)) ((sBulk bulk1 (Payload.bulkAck 9 0)).slot ↑k5).bulks = some bulk1) ∧
     (sBulk bulk1 (Payload.bulkAck 9 0)).sharedUsed ↑k5 + (sBulk bulk1 (Payload.bulkAck 9 0)).rsvSum ↑k5 < 512 ∧
     (sBulk bulk1 (Payload.bulkAck 9 0)).stalled ↑k5 = false ∧ 9 = mcGroup bulk1.word ∧ 256 = min 256 (bulk1.len - bulk1.pos) ∧
     (sBulk bulk1 (Payload.bulkAck 9 0)).groupAll 9 ≠ []) ∧
    ((sBulk (bulk2 256 [Endpoint.core 5, Endpoint.core 6]) (Payload.bulkAck 9 0)).stopped = false ∧
     (sBulk (bulk2 256 [Endpoint.core 5, Endpoint.core 6]) (Payload.bulkAck 9 0)).slotOf 5 = some ↑k5 ∧
     (sBulk (bulk2 256 [Endpoint.core 5, Endpoint.core 6]) (Payload.bulkAck 9 0)).arrival 0 = some (Packet.mk Plane.reply (Endpoint.core 6) (Endpoint.core 5) (Payload.bulkAck 9 0)) ∧
     (List.find? (fun y => y.out.any fun o => o.1 == 9) ((sBulk (bulk2 256 [Endpoint.core 5, Endpoint.core 6]) (Payload.bulkAck 9 0)).slot ↑k5).bulks = some (bulk2 256 [Endpoint.core 5, Endpoint.core 6])) ∧
     ([(9, [Endpoint.core 5])] = List.filter (fun o => !o.2.isEmpty) (List.map (fun o => if o.1 = 9 then (o.1, o.2.erase (Endpoint.core 6)) else o) (bulk2 256 [Endpoint.core 5, Endpoint.core 6]).out))) ∧
    ((sBulk (bulk2 272 [Endpoint.core 6]) (Payload.bulkAck 9 0)).stopped = false ∧
     (sBulk (bulk2 272 [Endpoint.core 6]) (Payload.bulkAck 9 0)).slotOf 5 = some ↑k5 ∧
     (sBulk (bulk2 272 [Endpoint.core 6]) (Payload.bulkAck 9 0)).arrival 0 = some (Packet.mk Plane.reply (Endpoint.core 6) (Endpoint.core 5) (Payload.bulkAck 9 0)) ∧
     (List.find? (fun y => y.out.any fun o => o.1 == 9) ((sBulk (bulk2 272 [Endpoint.core 6]) (Payload.bulkAck 9 0)).slot ↑k5).bulks = some (bulk2 272 [Endpoint.core 6])) ∧
     ([] = List.filter (fun o => !o.2.isEmpty) (List.map (fun o => if o.1 = 9 then (o.1, o.2.erase (Endpoint.core 6)) else o) (bulk2 272 [Endpoint.core 6]).out))) ∧
    ((sBulk (bulk2 272 [Endpoint.core 6]) (Payload.bulkAck 9 14)).stopped = false ∧
     (sBulk (bulk2 272 [Endpoint.core 6]) (Payload.bulkAck 9 14)).slotOf 5 = some ↑k5 ∧
     (sBulk (bulk2 272 [Endpoint.core 6]) (Payload.bulkAck 9 14)).arrival 0 = some (Packet.mk Plane.reply (Endpoint.core 6) (Endpoint.core 5) (Payload.bulkAck 9 14)) ∧
     0 < 14 ∧ 14 < 256 ∧
     (List.find? (fun y => y.out.any fun o => o.1 == 9) ((sBulk (bulk2 272 [Endpoint.core 6]) (Payload.bulkAck 9 14)).slot ↑k5).bulks = some (bulk2 272 [Endpoint.core 6]))) ∧
    ((sess 0 s0).stopped = false ∧ (sess 0 s0).reach (Reg.CN_CTL ↑c2) = Reach.ok ∧ 16 = (sess 0 s0).fld (Reg.CN_SESS ↑c2) F.CN_SESS_LEN ∧
     (sess 0 s0).cnState ↑c2 = 0 ∧ (sess 0 s0).fld (Reg.CN_SESS ↑c2) F.CN_SESS_NCONTRIB ≠ 0 ∧ 16 % 16 = 0 ∧ 16 ≤ 16 ∧ 16 ≤ 262144) ∧
    ((sess 1 s0).stopped = false ∧ (sess 1 s0).reach (Reg.CN_CTL ↑c2) = Reach.ok ∧ 16 = (sess 1 s0).fld (Reg.CN_SESS ↑c2) F.CN_SESS_LEN ∧
     ((sess 1 s0).cnState ↑c2 ≠ 0 ∨ (sess 1 s0).fld (Reg.CN_SESS ↑c2) F.CN_SESS_NCONTRIB = 0 ∨ 16 % 16 ≠ 0 ∨ 16 < 16 ∨ 262144 < 16)) ∧
    ((sess 2 s0).stopped = false ∧ (sess 2 s0).reach (Reg.CN_CTL ↑c2) = Reach.ok ∧ 16 = (sess 2 s0).fld (Reg.CN_SESS ↑c2) F.CN_SESS_LEN ∧
     (sess 2 s0).cnState ↑c2 ≠ 0) :=
  ⟨by decide +kernel,
    by decide +kernel,
    by decide +kernel,
    by decide +kernel,
    by decide +kernel,
    by decide +kernel,
    by decide +kernel⟩

/-- States and operands that meet the hypotheses of Obligations.GroupsAndNodes, clause by clause (part 2). -/
theorem witness_GroupsAndNodes_2 :
    ((sCon 0 8 1).stopped = false ∧
     (sCon 0 8 1).arrival 0 = some (Packet.mk Plane.data (Endpoint.core 6) (Endpoint.cn ↑c2) (Payload.contrib 0 8 [1, 0, 0, 0, 1, 0, 0, 0])) ∧
     ((sCon 0 8 1).cn ↑c2).queue = [] ∧ (sCon 0 8 1).behind (Endpoint.cn ↑c2) = false ∧ (sCon 0 8 1).stalled (80 + ↑c2 / 16) = false ∧
     (4 = if (sCon 0 8 1).flag (Reg.CN_SESS ↑c2) F.CN_SESS_ETYPE = true then 8 else 4) ∧ (sCon 0 8 1).cnState ↑c2 = 1 ∧ 0 = (sCon 0 8 1).cnGen ↑c2 ∧
     8 + [1, 0, 0, 0, 1, 0, 0, 0].length ≤ (sCon 0 8 1).fld (Reg.CN_SESS ↑c2) F.CN_SESS_LEN ∧
     (sCon 0 8 1).fld (Reg.CN_SESS ↑c2) F.CN_SESS_LEN ≤ 262144 ∧
     (sCon 0 8 1).fld (Reg.CN_COUNT ↑c2) F.CN_COUNT_BYTES + [1, 0, 0, 0, 1, 0, 0, 0].length < (sCon 0 8 1).fld (Reg.CN_SESS ↑c2) F.CN_SESS_NCONTRIB * (sCon 0 8 1).fld (Reg.CN_SESS ↑c2) F.CN_SESS_LEN) ∧
    ((sCon 0 0 1).stopped = false ∧
     (sCon 0 0 1).arrival 0 = some (Packet.mk Plane.data (Endpoint.core 6) (Endpoint.cn ↑c2) (Payload.contrib 0 0 [1, 0, 0, 0, 1, 0, 0, 0])) ∧
     ((sCon 0 0 1).cn ↑c2).queue = [] ∧ (sCon 0 0 1).behind (Endpoint.cn ↑c2) = false ∧ (sCon 0 0 1).stalled (80 + ↑c2 / 16) = false ∧
     (4 = if (sCon 0 0 1).flag (Reg.CN_SESS ↑c2) F.CN_SESS_ETYPE = true then 8 else 4) ∧ (sCon 0 0 1).cnState ↑c2 = 1 ∧ 0 = (sCon 0 0 1).cnGen ↑c2 ∧
     0 + [1, 0, 0, 0, 1, 0, 0, 0].length ≤ (sCon 0 0 1).fld (Reg.CN_SESS ↑c2) F.CN_SESS_LEN ∧
     (sCon 0 0 1).fld (Reg.CN_SESS ↑c2) F.CN_SESS_LEN ≤ 262144 ∧
     (sCon 0 0 1).fld (Reg.CN_COUNT ↑c2) F.CN_COUNT_BYTES + [1, 0, 0, 0, 1, 0, 0, 0].length < (sCon 0 0 1).fld (Reg.CN_SESS ↑c2) F.CN_SESS_NCONTRIB * (sCon 0 0 1).fld (Reg.CN_SESS ↑c2) F.CN_SESS_LEN) ∧
    (sConL.stopped = false ∧
     sConL.arrival 0 = some (Packet.mk Plane.data (Endpoint.core 6) (Endpoint.cn ↑c2) (Payload.contrib 0 8 [1, 0, 0, 0, 1, 0, 0, 0])) ∧
     (sConL.cn ↑c2).queue = [] ∧ sConL.behind (Endpoint.cn ↑c2) = false ∧ sConL.stalled (80 + ↑c2 / 16) = false ∧
     (4 = if sConL.flag (Reg.CN_SESS ↑c2) F.CN_SESS_ETYPE = true then 8 else 4) ∧ 16 = sConL.fld (Reg.CN_SESS ↑c2) F.CN_SESS_LEN ∧
     sConL.cnState ↑c2 = 1 ∧ 0 = sConL.cnGen ↑c2 ∧ 8 + [1, 0, 0, 0, 1, 0, 0, 0].length ≤ 16 ∧ 16 ≤ 262144 ∧
     sConL.fld (Reg.CN_COUNT ↑c2) F.CN_COUNT_BYTES + [1, 0, 0, 0, 1, 0, 0, 0].length = sConL.fld (Reg.CN_SESS ↑c2) F.CN_SESS_NCONTRIB * 16) ∧
    (sConLC.stopped = false ∧
     sConLC.arrival 0 = some (Packet.mk Plane.data (Endpoint.core 6) (Endpoint.cn ↑c2) (Payload.contrib 0 8 [1, 0, 0, 0, 1, 0, 0, 0])) ∧
     (sConLC.cn ↑c2).queue = [] ∧ sConLC.behind (Endpoint.cn ↑c2) = false ∧ sConLC.stalled (80 + ↑c2 / 16) = false ∧
     (4 = if sConLC.flag (Reg.CN_SESS ↑c2) F.CN_SESS_ETYPE = true then 8 else 4) ∧ 16 = sConLC.fld (Reg.CN_SESS ↑c2) F.CN_SESS_LEN ∧
     sConLC.cnState ↑c2 = 1 ∧ 0 = sConLC.cnGen ↑c2 ∧ 8 + [1, 0, 0, 0, 1, 0, 0, 0].length ≤ 16 ∧ 16 ≤ 262144 ∧
     sConLC.fld (Reg.CN_COUNT ↑c2) F.CN_COUNT_BYTES + [1, 0, 0, 0, 1, 0, 0, 0].length = sConLC.fld (Reg.CN_SESS ↑c2) F.CN_SESS_NCONTRIB * 16) ∧
    ((sCon 1 8 1).stopped = false ∧
     (sCon 1 8 1).arrival 0 = some (Packet.mk Plane.data (Endpoint.core 6) (Endpoint.cn ↑c2) (Payload.contrib 1 8 [1, 0, 0, 0, 1, 0, 0, 0])) ∧
     ((sCon 1 8 1).cn ↑c2).queue = [] ∧ (sCon 1 8 1).behind (Endpoint.cn ↑c2) = false ∧ (sCon 1 8 1).stalled (80 + ↑c2 / 16) = false ∧
     (sCon 1 8 1).cnState ↑c2 ≠ 2 ∧
     ((sCon 1 8 1).cnState ↑c2 ≠ 1 ∨ 1 ≠ (sCon 1 8 1).cnGen ↑c2 ∨ (sCon 1 8 1).fld (Reg.CN_SESS ↑c2) F.CN_SESS_LEN < 8 + [1, 0, 0, 0, 1, 0, 0, 0].length) ∧
     (sCon 1 8 1).fld (Reg.CN_STAT ↑c2) F.CN_STAT_DISCARDS < 65535) ∧
    ((sCon 0 8 2).stopped = false ∧
     (sCon 0 8 2).arrival 0 = some (Packet.mk Plane.data (Endpoint.core 6) (Endpoint.cn ↑c2) (Payload.contrib 0 8 [1, 0, 0, 0, 1, 0, 0, 0])) ∧
     ((sCon 0 8 2).cn ↑c2).queue = [] ∧ (sCon 0 8 2).behind (Endpoint.cn ↑c2) = false ∧ (sCon 0 8 2).stalled (80 + ↑c2 / 16) = false ∧
     (sCon 0 8 2).cnState ↑c2 = 2) ∧
    (sRa.stopped = false ∧ sRa.arrival 0 = some (Packet.mk Plane.reply (Endpoint.core 6) (Endpoint.cn ↑c2) (Payload.resultAck (sRa.cnGen ↑c2))) ∧
     sRa.cnState ↑c2 = 2 ∧ 1 < (sRa.cn ↑c2).outstanding) :=
  ⟨by decide +kernel,
    by decide +kernel,
    by decide +kernel,
    by decide +kernel,
    by decide +kernel,
    by decide +kernel,
    by decide +kernel⟩

/-- States and operands that meet the hypotheses of Obligations.GroupsAndNodes, clause by clause (part 3). -/
theorem witness_GroupsAndNodes_3 :
    (sRa1.stopped = false ∧ sRa1.arrival 0 = some (Packet.mk Plane.reply (Endpoint.core 6) (Endpoint.cn ↑c2) (Payload.resultAck (sRa1.cnGen ↑c2))) ∧
     sRa1.cnState ↑c2 = 2 ∧ (sRa1.cn ↑c2).outstanding ≤ 1) ∧
    (((∃ x, Payload.bulk 9 128 [1, 2, 3] (some 4) = Payload.bulk x 128 [1, 2, 3] (some 4) ∧ Payload.bulkAck 9 0 = Payload.bulkAck x 0) ∨ ∃ g, Payload.bulk 9 128 [1, 2, 3] (some 4) = Payload.result g 128 [1, 2, 3] (some 4) ∧ Payload.bulkAck 9 0 = Payload.resultAck g) ∧
     (sBulkIn (Endpoint.core 5)).stopped = false ∧
     (sBulkIn (Endpoint.core 5)).arrival 0 = some (Packet.mk Plane.data (Endpoint.core 6) (Endpoint.core 5) (Payload.bulk 9 128 [1, 2, 3] (some 4))) ∧
     (sBulkIn (Endpoint.core 5)).behind (Endpoint.core 5) = false ∧ (sBulkIn (Endpoint.core 5)).slotOf 5 = some 5 ∧ 5 < 72 ∧
     128 + [1, 2, 3].length ≤ 8388608) ∧
    (((∃ x, Payload.result 1 128 [1, 2, 3] none = Payload.bulk x 128 [1, 2, 3] none ∧ Payload.resultAck 1 = Payload.bulkAck x 0) ∨ ∃ g, Payload.result 1 128 [1, 2, 3] none = Payload.result g 128 [1, 2, 3] none ∧ Payload.resultAck 1 = Payload.resultAck g) ∧
     (sResIn (Endpoint.core 5)).stopped = false ∧
     (sResIn (Endpoint.core 5)).arrival 0 = some (Packet.mk Plane.data (Endpoint.cn 2) (Endpoint.core 5) (Payload.result 1 128 [1, 2, 3] none)) ∧
     (sResIn (Endpoint.core 5)).behind (Endpoint.core 5) = false ∧ (sResIn (Endpoint.core 5)).slotOf 5 = some 5 ∧ 5 < 72 ∧
     128 + [1, 2, 3].length ≤ 8388608) ∧
    (((∃ x, Payload.result 1 128 [1, 2, 3] none = Payload.bulk x 128 [1, 2, 3] none ∧ Payload.resultAck 1 = Payload.bulkAck x 0) ∨ ∃ g, Payload.result 1 128 [1, 2, 3] none = Payload.result g 128 [1, 2, 3] none ∧ Payload.resultAck 1 = Payload.resultAck g) ∧
     (sResIn (Endpoint.nmu 1)).stopped = false ∧
     (sResIn (Endpoint.nmu 1)).arrival 0 = some (Packet.mk Plane.data (Endpoint.cn 2) (Endpoint.nmu 1) (Payload.result 1 128 [1, 2, 3] none)) ∧
     (sResIn (Endpoint.nmu 1)).behind (Endpoint.nmu 1) = false ∧ 1 < 20 ∧ 128 + [1, 2, 3].length ≤ 1048576) :=
  ⟨by decide +kernel,
    ⟨.inl ⟨_, rfl, rfl⟩, by decide +kernel⟩,
    ⟨.inr ⟨_, rfl, rfl⟩, by decide +kernel⟩,
    ⟨.inr ⟨_, rfl, rfl⟩, by decide +kernel⟩⟩

/-- States and operands that meet the hypotheses of Obligations.PortsAndFrames, clause by clause (part 1). -/
theorem witness_PortsAndFrames_1 :
    (sPort.stopped = false ∧ (sPort.mpState ↑p1 = 2 ∨ sPort.mpState ↑p1 = 3) ∧ (sPort.port ↑p1).resend = [] ∧
     (∀ w ∈ (sPort.port ↑p1).wrQ, w.bytes.length = 256) ∧ (sPort.port ↑p1).txSeq < 1024 ∧ (sPort.port ↑p1).rxSeq < 1024) ∧
    ((pAct 3).stopped = false ∧ ((pAct 3).mpState ↑p1 = 2 ∨ (pAct 3).mpState ↑p1 = 3) ∧ ((pAct 3).port ↑p1).resend = [] ∧
     (∀ w ∈ ((pAct 3).port ↑p1).wrQ, w.bytes.length = 256) ∧ ((pAct 3).port ↑p1).txSeq < 1024 ∧ ((pAct 3).port ↑p1).rxSeq < 1024) ∧
    ((List.find? (fun x => x.1 == 5) (sPortR.port ↑p1).kept = some (5, frameA)) ∧ sPortR.stopped = false ∧
     (sPortR.mpState ↑p1 = 2 ∨ sPortR.mpState ↑p1 = 3) ∧ (sPortR.port ↑p1).resend = [5, 4]) ∧
    (sPortIn.stopped = false ∧ (sPortIn.mpState ↑p1 = 2 ∨ sPortIn.mpState ↑p1 = 3) ∧
     (fCrcOk (fromWire (sPortIn.port 1).rxLanes [1]).1 = false ∨ ctrlSeq (fCtrl (fromWire (sPortIn.port 1).rxLanes [1]).1) ≠ ((sPortIn.port ↑p1).rxSeq + 1) % 1024) ∧
     sPortIn.passages = [] ∧ sPortIn.fld (Reg.MP_ERR ↑p1) F.MP_ERR_REPLAY < 65535) ∧
    (fCrcOk (fromWire (sPortIn.port 1).rxLanes (wireIn (frameIn [] 0))).1 = true ∧
     ctrlSeq (fCtrl (fromWire (sPortIn.port 1).rxLanes (wireIn (frameIn [] 0))).1) = ((sPortIn.port ↑p1).rxSeq + 1) % 1024 ∧
     ctrlNak (fCtrl (fromWire (sPortIn.port 1).rxLanes (wireIn (frameIn [] 0))).1) = false ∧
     bit (fCtrl (fromWire (sPortIn.port 1).rxLanes (wireIn (frameIn [] 0))).1) 5 = false ∧
     (∀ i < 15, descType (fDesc (fromWire (sPortIn.port 1).rxLanes (wireIn (frameIn [] 0))).1 i) = 0) ∧
     (∀ w ∈ (sPortIn.port ↑p1).moves, w.tx = true ∨ w.atSeq ≠ ctrlSeq (fCtrl (fromWire (sPortIn.port 1).rxLanes (wireIn (frameIn [] 0))).1)) ∧
     sPortIn.stopped = false ∧ (sPortIn.mpState ↑p1 = 2 ∨ sPortIn.mpState ↑p1 = 3)) ∧
    ((fromWire (sPortIn.port 1).rxLanes (wireIn (frameIn [] 0))).1 = (fromWire (sRxM.port ↑p1).rxLanes (wireIn (frameIn [] 0))).1 ∧
     fCrcOk (fromWire (sPortIn.port 1).rxLanes (wireIn (frameIn [] 0))).1 = true ∧
     ctrlSeq (fCtrl (fromWire (sPortIn.port 1).rxLanes (wireIn (frameIn [] 0))).1) = ((sRxM.port ↑p1).rxSeq + 1) % 1024 ∧
     ctrlNak (fCtrl (fromWire (sPortIn.port 1).rxLanes (wireIn (frameIn [] 0))).1) = false ∧
     bit (fCtrl (fromWire (sPortIn.port 1).rxLanes (wireIn (frameIn [] 0))).1) 5 = false ∧
     (∀ i < 15, descType (fDesc (fromWire (sPortIn.port 1).rxLanes (wireIn (frameIn [] 0))).1 i) = 0) ∧
     (sRxM.port ↑p1).moves = [Swap.mk false 1 7 (ctrlSeq (fCtrl (fromWire (sPortIn.port 1).rxLanes (wireIn (frameIn [] 0))).1))] ∧
     sRxM.stopped = false ∧ (sRxM.mpState ↑p1 = 2 ∨ sRxM.mpState ↑p1 = 3) ∧ 7 < 32 ∧ 1 < 2) ∧
    (fCrcOk (fromWire (sPortIn.port 1).rxLanes (wireIn (frameIn [slot7] 0))).1 = true ∧
     ctrlSeq (fCtrl (fromWire (sPortIn.port 1).rxLanes (wireIn (frameIn [slot7] 0))).1) = ((sPortIn.port ↑p1).rxSeq + 1) % 1024 ∧
     ctrlNak (fCtrl (fromWire (sPortIn.port 1).rxLanes (wireIn (frameIn [slot7] 0))).1) = false ∧
     bit (fCtrl (fromWire (sPortIn.port 1).rxLanes (wireIn (frameIn [slot7] 0))).1) 5 = false ∧
     descType (fDesc (fromWire (sPortIn.port 1).rxLanes (wireIn (frameIn [slot7] 0))).1 0) = 1 ∧
     (∀ (i : ℕ), 0 < i → i < 15 → descType (fDesc (fromWire (sPortIn.port 1).rxLanes (wireIn (frameIn [slot7] 0))).1 i) = 0) ∧
     (List.find? (fun x => x.tag == descTag (fDesc (fromWire (sPortIn.port 1).rxLanes (wireIn (frameIn [slot7] 0))).1 0)) (sPortIn.port ↑p1).rdOut = some read7) ∧
     eccCheck (fSlot (fromWire (sPortIn.port 1).rxLanes (wireIn (frameIn [slot7] 0))).1 0) (bits (fDesc (fromWire (sPortIn.port 1).rxLanes (wireIn (frameIn [slot7] 0))).1 0) 0 48) = EccRes.good ∧
     sPortIn.stopped = false ∧ (sPortIn.mpState ↑p1 = 2 ∨ sPortIn.mpState ↑p1 = 3) ∧ (sPortIn.port ↑p1).moves = [] ∧
     read7.who = ReadFor.xfer (Endpoint.core 5) 9 4 8 none ∧ (sPortIn.port ↑p1).writing read7.blk = false) :=
  ⟨by decide +kernel,
    by decide +kernel,
    ⟨rfl, by decide +kernel⟩,
    by decide +kernel,
    ⟨by rw [air_p0]; exact fCrcOk_mkFrame _ _ (by decide) (by decide +kernel),
     by rw [air_p0, frameIn, fCtrl_mkFrame _ _ (by decide) (by decide +kernel)]; decide +kernel,
     by rw [air_p0, frameIn, fCtrl_mkFrame _ _ (by decide) (by decide +kernel)]; decide +kernel,
     by rw [air_p0, frameIn, fCtrl_mkFrame _ _ (by decide) (by decide +kernel)]; decide +kernel,
     fun i h1 => by rw [air_p0, frameIn, fDesc_mkFrame_empty [] _ (by decide) (by decide) i (Nat.zero_le i) h1]; rfl,
     by rw [air_p0, frameIn, fCtrl_mkFrame _ _ (by decide) (by decide +kernel)]; decide +kernel, by decide +kernel⟩,
    ⟨congrArg (fun n => (fromWire n (wireIn (frameIn [] 0))).1) (by decide +kernel),
     by rw [air_p0]; exact fCrcOk_mkFrame _ _ (by decide) (by decide +kernel),
     by rw [air_p0, frameIn, fCtrl_mkFrame _ _ (by decide) (by decide +kernel)]; decide +kernel,
     by rw [air_p0, frameIn, fCtrl_mkFrame _ _ (by decide) (by decide +kernel)]; decide +kernel,
     by rw [air_p0, frameIn, fCtrl_mkFrame _ _ (by decide) (by decide +kernel)]; decide +kernel,
     fun i h1 => by rw [air_p0, frameIn, fDesc_mkFrame_empty [] _ (by decide) (by decide) i (Nat.zero_le i) h1]; rfl,
     by rw [air_p0, frameIn, fCtrl_mkFrame _ _ (by decide) (by decide +kernel)]; decide +kernel, by decide +kernel⟩,
    ⟨by rw [air_p7]; exact fCrcOk_mkFrame _ _ (by decide) (by decide +kernel),
     by rw [air_p7, frameIn, fCtrl_mkFrame _ _ (by decide) (by decide +kernel)]; decide +kernel,
     by rw [air_p7, frameIn, fCtrl_mkFrame _ _ (by decide) (by decide +kernel)]; decide +kernel,
     by rw [air_p7, frameIn, fCtrl_mkFrame _ _ (by decide) (by decide +kernel)]; decide +kernel,
     by rw [air_p7, frameIn, slot7, fDesc_mkFrame_head _ _ _ _ (by decide) (by decide +kernel)]; decide +kernel,
     fun i h0 h1 => by rw [air_p7, frameIn, fDesc_mkFrame_empty [slot7] _ (by decide) (by decide +kernel) i h0 h1]; rfl,
     by rw [air_p7, frameIn, slot7, fDesc_mkFrame_head _ _ _ _ (by decide) (by decide +kernel)]; decide +kernel,
     by rw [air_p7, frameIn, slot7, fDesc_mkFrame_head _ _ _ _ (by decide) (by decide +kernel), fSlot_mkFrame_head _ _ _ _ (by decide +kernel)]; decide +kernel,
     by decide +kernel⟩⟩

/-- States and operands that meet the hypotheses of Obligations.PortsAndFrames, clause by clause (part 2). -/
theorem witness_PortsAndFrames_2 :
    (pOff.stopped = false ∧ ↑p1 < pOff.opts.memPorts ∧ pOff.phyOff = true) ∧
    ((pAct 1).stopped = false ∧ ↑p1 < (pAct 1).opts.memPorts ∧ (pAct 1).phyOff = false ∧ (pAct 1).mpState ↑p1 = 1 ∧ (pAct 1).xfHeld = [] ∧
     (∀ (d : Bool), lanesOf (List.map (fun i => (pAct 1).fld (Reg.MP_LANES ↑p1) (spareFld d i)) (List.range 2)) = lanesOf (List.map (fun i => (pAct 1).fld (Reg.MP_LANES ↑p1) (spareFld d i)) (List.range 2))) ∧
     (assignLanes 32 2 (lanesOf (List.map (fun i => (pAct 1).fld (Reg.MP_LANES ↑p1) (spareFld false i)) (List.range 2))) [2, 32] = some ([(2, 1)], false)) ∧
     (assignLanes 16 2 (lanesOf (List.map (fun i => (pAct 1).fld (Reg.MP_LANES ↑p1) (spareFld true i)) (List.range 2))) [1, 3, 5] = some ([(1, 0), (3, 1)], true))) ∧
    ((pAct 1).stopped = false ∧ ↑p1 < (pAct 1).opts.memPorts ∧ (pAct 1).phyOff = false ∧ (pAct 1).mpState ↑p1 = 1 ∧ (pAct 1).xfHeld = [] ∧
     (∀ (d : Bool), lanesOf (List.map (fun i => (pAct 1).fld (Reg.MP_LANES ↑p1) (spareFld d i)) (List.range 2)) = lanesOf (List.map (fun i => (pAct 1).fld (Reg.MP_LANES ↑p1) (spareFld d i)) (List.range 2))) ∧
     (assignLanes 32 2 (lanesOf (List.map (fun i => (pAct 1).fld (Reg.MP_LANES ↑p1) (spareFld false i)) (List.range 2))) [] = some ([], false)) ∧
     (assignLanes 16 2 (lanesOf (List.map (fun i => (pAct 1).fld (Reg.MP_LANES ↑p1) (spareFld true i)) (List.range 2))) [] = some ([], false))) ∧
    ((pAct 1).stopped = false ∧ ↑p1 < (pAct 1).opts.memPorts ∧ (pAct 1).phyOff = false ∧ (pAct 1).mpState ↑p1 = 1 ∧ (pAct 1).passages = []) ∧
    (sPortIn.stopped = false ∧ ↑p1 < sPortIn.opts.memPorts ∧ sPortIn.reach (Reg.MP_CTL ↑p1) = Reach.ok ∧ sPortIn.mpLost ↑p1 = false ∧
     sPortIn.passages = [] ∧ sPortIn.xfHeld = []) ∧
    (sPort.stopped = false ∧ ↑p1 < sPort.opts.memPorts ∧ sPort.reach (Reg.MP_CTL ↑p1) = Reach.ok ∧ sPort.mpLost ↑p1 = false ∧ sPort.passages = [] ∧
     sPort.xfHeld = [] ∧ (sPort.port ↑p1).wrOut = [] ∧ (sPort.port ↑p1).wrQ = [write9] ∧ (sPort.port ↑p1).wrHeld = [] ∧ write9.old.length = 256) ∧
    (sPortIn.stopped = false ∧ ↑p1 < sPortIn.opts.memPorts ∧ sPortIn.reach (Reg.MP_CTL ↑p1) = Reach.ok ∧
     (sPortIn.mpState ↑p1 = 2 ∨ sPortIn.mpState ↑p1 = 3) ∧ sPortIn.passages = []) :=
  ⟨by decide +kernel,
    by decide +kernel,
    by decide +kernel,
    by decide +kernel,
    by decide +kernel,
    by decide +kernel,
    by decide +kernel⟩

/-- States and operands that meet the hypotheses of Obligations.PortsAndFrames, clause by clause (part 3). -/
theorem witness_PortsAndFrames_3 :
    ((pAct 4).stopped = false ∧ ↑p1 < (pAct 4).opts.memPorts ∧ (pAct 4).reach (Reg.MP_CTL ↑p1) = Reach.ok ∧ (pAct 4).mpState ↑p1 ≠ 2 ∧
     (pAct 4).mpState ↑p1 ≠ 3) ∧
    ((∀ (n : ℕ), spareOk (pAct 2) n = (!bit ((pAct 2).fld (Reg.MP_LANES ↑p1) (spareFld false n)) 7 && !(((pAct 2).port ↑p1).swaps ++ ((pAct 2).port ↑p1).moves).any fun w => w.tx == false && w.spare == n)) ∧
     (pAct 2).stopped = false ∧ ↑p1 < (pAct 2).opts.memPorts ∧ (3 < if false = true then 16 else 32) ∧
     ((pAct 2).mpState ↑p1 = 2 ∨ (pAct 2).mpState ↑p1 = 3) ∧ (pAct 2).passages = [] ∧ 0 < 2 ∧ spareOk (pAct 2) 0 = true ∧
     (0 = 1 → spareOk (pAct 2) 0 = false)) ∧
    ((∀ (n : ℕ), spareOk sLane2 n = (!bit (sLane2.fld (Reg.MP_LANES ↑p1) (spareFld false n)) 7 && !((sLane2.port ↑p1).swaps ++ (sLane2.port ↑p1).moves).any fun w => w.tx == false && w.spare == n)) ∧
     sLane2.stopped = false ∧ ↑p1 < sLane2.opts.memPorts ∧ (31 < if false = true then 16 else 32) ∧
     (sLane2.mpState ↑p1 = 2 ∨ sLane2.mpState ↑p1 = 3) ∧ sLane2.passages = [] ∧ spareOk sLane2 0 = false ∧ spareOk sLane2 1 = false) :=
  ⟨by decide +kernel,
    ⟨fun n => rfl, by decide +kernel⟩,
    ⟨fun n => rfl, by decide +kernel⟩⟩

/-- States and operands that meet the hypotheses of Obligations.MemoryReadAndWritten, clause by clause (part 1). -/
theorem witness_MemoryReadAndWritten_1 :
    ((dike sWr 84).stopped = false ∧ (dike sWr 84).asks = [] ∧ 1 < 20 ∧
     (dike sWr 84).arrival 0 = some (Packet.mk Plane.data (Endpoint.core 5) (Endpoint.port 1) (Payload.mem 9 (req true [1, 2, 3, 4]))) ∧
     (req true [1, 2, 3, 4]).write = true ∧ (req true [1, 2, 3, 4]).len = (req true [1, 2, 3, 4]).bytes.length ∧
     (dike sWr 84).behind (Endpoint.port 1) = true) ∧
    ((noReg sWr).stopped = false ∧ (noReg sWr).asks = [] ∧ 1 < 20 ∧
     (noReg sWr).arrival 0 = some (Packet.mk Plane.data (Endpoint.core 5) (Endpoint.port 1) (Payload.mem 9 (req true [1, 2, 3, 4]))) ∧
     (req true [1, 2, 3, 4]).write = true ∧ (req true [1, 2, 3, 4]).len = (req true [1, 2, 3, 4]).bytes.length ∧
     (noReg sWr).behind (Endpoint.port 1) = false ∧ (noReg sWr).place (req true [1, 2, 3, 4]).pa = none) ∧
    (sWr.stopped = false ∧ sWr.asks = [] ∧ 1 < 20 ∧
     sWr.arrival 0 = some (Packet.mk Plane.data (Endpoint.core 5) (Endpoint.port 1) (Payload.mem 9 (req true [1, 2, 3, 4]))) ∧
     (req true [1, 2, 3, 4]).write = true ∧ (req true [1, 2, 3, 4]).len = (req true [1, 2, 3, 4]).bytes.length ∧
     sWr.place (req true [1, 2, 3, 4]).pa = some (Place.mk 1 64 0 0) ∧ (Place.mk 1 64 0 0).stack = 1 ∧ 0 = (Place.mk 1 64 0 0).loc / 256 ∧
     (Place.mk 1 64 0 0).loc % 256 + (req true [1, 2, 3, 4]).len ≤ 256 ∧ sWr.mpLost 1 = false ∧ sWr.badBlock 1 0 = false ∧
     sWr.blockRead (req true [1, 2, 3, 4]).cls 1 0 = (0, (sWr.blockRead (req true [1, 2, 3, 4]).cls 1 0).2.1, (sWr.blockRead (req true [1, 2, 3, 4]).cls 1 0).2.2) ∧
     (sWr.blockRead (req true [1, 2, 3, 4]).cls 1 0).2.1.length = 256 ∧ (sWr.blockRead (req true [1, 2, 3, 4]).cls 1 0).2.2.asks ≠ [] ∧
     ((req true [1, 2, 3, 4]).len < 256 ∨ ∃ r, sWr.protectedAt (Place.mk 1 64 0 0).loc = some r ∧ sWr.mpLost (sWr.parityStack r (Place.mk 1 64 0 0).loc) = false)) ∧
    (sWrG.stopped = false ∧ sWrG.asks = [] ∧ 1 < 20 ∧
     sWrG.arrival 0 = some (Packet.mk Plane.data (Endpoint.core 5) (Endpoint.port 1) (Payload.mem 9 (req true [1, 2, 3, 4]))) ∧
     (req true [1, 2, 3, 4]).write = true ∧ (req true [1, 2, 3, 4]).len = (req true [1, 2, 3, 4]).bytes.length ∧
     sWrG.place (req true [1, 2, 3, 4]).pa = some (Place.mk 1 64 0 0) ∧ (Place.mk 1 64 0 0).stack = 1 ∧ 0 = (Place.mk 1 64 0 0).loc / 256 ∧
     (Place.mk 1 64 0 0).loc % 256 + (req true [1, 2, 3, 4]).len ≤ 256 ∧ sWrG.mpLost 1 = false ∧ sWrG.badBlock 1 0 = false ∧
     sWrG.blockRead (req true [1, 2, 3, 4]).cls 1 0 = (0, List.replicate 256 0, (sWrG.blockRead (req true [1, 2, 3, 4]).cls 1 0).2.2) ∧
     (List.replicate 256 0).length = 256 ∧ sWrG.protectedAt (Place.mk 1 64 0 0).loc = none ∧
     ((req true [1, 2, 3, 4]).len = 256 ∨ (sWrG.blockRead (req true [1, 2, 3, 4]).cls 1 0).2.2.asks = [])) ∧
    (sWrPG.stopped = false ∧ sWrPG.asks = [] ∧ 1 < 20 ∧
     sWrPG.arrival 0 = some (Packet.mk Plane.data (Endpoint.core 5) (Endpoint.port 1) (Payload.mem 9 (reqP true [1, 2, 3, 4]))) ∧
     (reqP true [1, 2, 3, 4]).write = true ∧ (reqP true [1, 2, 3, 4]).len = (reqP true [1, 2, 3, 4]).bytes.length ∧
     sWrPG.place (reqP true [1, 2, 3, 4]).pa = some (Place.mk 1 64 1 0) ∧ (Place.mk 1 64 1 0).stack = 1 ∧ 0 = (Place.mk 1 64 1 0).loc / 256 ∧
     (Place.mk 1 64 1 0).loc % 256 + (reqP true [1, 2, 3, 4]).len ≤ 256 ∧ sWrPG.mpLost 1 = false ∧ sWrPG.badBlock 1 0 = false ∧
     sWrPG.blockRead (reqP true [1, 2, 3, 4]).cls 1 0 = (0, List.replicate 256 0, (sWrPG.blockRead (req true [1, 2, 3, 4]).cls 1 0).2.2) ∧
     (List.replicate 256 0).length = 256 ∧ sWrPG.protectedAt (Place.mk 1 64 1 0).loc = some 0 ∧
     sWrPG.mpLost (sWrPG.parityStack 0 (Place.mk 1 64 1 0).loc) = false ∧ (sWrPG.blockRead (req true [1, 2, 3, 4]).cls 1 0).2.2.asks = []) ∧
    (sParG.stopped = false ∧ sParG.asks = [] ∧ blk5.length = 256 ∧
     sParG.arrival 0 = some (Packet.mk Plane.data (Endpoint.port 0) (Endpoint.port 1) (Payload.delta (Endpoint.core 5) 9 0 blk5)) ∧
     sParG.mpLost 1 = false ∧ 0 ≠ 1 ∧ sParG.blockRead clsWalker 1 0 = (0, List.replicate 256 0, (sParG.blockRead clsWalker 1 0).2.2) ∧
     (List.replicate 256 0).length = 256 ∧ (sParG.blockRead clsWalker 1 0).2.2.asks = [] ∧
     (List.find? (fun x => x.blk == 0) (sParG.port 0).wrHeld = some held0)) ∧
    (sRd.stopped = false ∧ sRd.asks = [] ∧
     sRd.arrival 0 = some (Packet.mk Plane.data (Endpoint.core 5) (Endpoint.port ↑1) (Payload.mem 9 (req false []))) ∧ (req false []).write = false ∧
     (req false []).alloc = false ∧ sRd.behind (Endpoint.port ↑1) = false ∧ sRd.place (req false []).pa = some (Place.mk 1 64 0 0) ∧
     sRd.mpLost ↑1 = false ∧ sRd.badBlock (↑1) ((Place.mk 1 64 0 0).loc / 256) = false ∧ (sRd.port ↑1).writing ((Place.mk 1 64 0 0).loc / 256) = false) :=
  ⟨by decide +kernel,
    by decide +kernel,
    by decide +kernel,
    by decide +kernel,
    by decide +kernel,
    by decide +kernel,
    by decide +kernel⟩

/-- States and operands that meet the hypotheses of Obligations.MemoryReadAndWritten, clause by clause (part 2). -/
theorem witness_MemoryReadAndWritten_2 :
    (sRdW.stopped = false ∧ sRdW.asks = [] ∧
     sRdW.arrival 0 = some (Packet.mk Plane.data (Endpoint.core 5) (Endpoint.port ↑1) (Payload.mem 9 (req false []))) ∧ (req false []).write = false ∧
     (req false []).alloc = false ∧ sRdW.behind (Endpoint.port ↑1) = false ∧ sRdW.place (req false []).pa = some (Place.mk 1 64 0 0) ∧
     sRdW.mpLost ↑1 = false ∧ sRdW.badBlock (↑1) ((Place.mk 1 64 0 0).loc / 256) = false ∧
     (sRdW.port ↑1).writing ((Place.mk 1 64 0 0).loc / 256) = true) ∧
    (sRdL.stopped = false ∧ sRdL.asks = [] ∧
     sRdL.arrival 0 = some (Packet.mk Plane.data (Endpoint.core 5) (Endpoint.port ↑1) (Payload.mem 9 (req false []))) ∧ (req false []).write = false ∧
     (req false []).alloc = false ∧ sRdL.behind (Endpoint.port ↑1) = false ∧ sRdL.place (req false []).pa = some (Place.mk 1 64 0 0) ∧
     sRdL.mpLost ↑1 = true ∧ sRdL.protectedAt (Place.mk 1 64 0 0).loc = none) ∧
    (sRebD.stopped = false ∧ sRebD.asks = [] ∧ (sRebD.port ↑1).rebuilds[0]? = some (0, ReadFor.xfer (Endpoint.core 5) 9 4 8 none) ∧
     sRebD.rebuild (↑1) 0 = ((sRebD.rebuild 1 0).1, (sRebD.rebuild 1 0).2.1, (sRebD.rebuild 1 0).2.2) ∧ sRebD.deltaPending 0 = true) ∧
    (sRebG.stopped = false ∧ sRebG.asks = [] ∧ (sRebG.port ↑1).rebuilds[0]? = some (0, ReadFor.xfer (Endpoint.core 5) 9 4 8 none) ∧
     sRebG.rebuild (↑1) 0 = ((sRebG.rebuild 1 0).1, (sRebG.rebuild 1 0).2.1, (sRebG.rebuild 1 0).2.2) ∧ sRebG.deltaPending 0 = false ∧
     (sRebG.rebuild 1 0).2.2.asks = [] ∧ (sRebG.rebuild 1 0).1 = 0 ∧ (sRebG.rebuild 1 0).2.1.length = 256) ∧
    (sRebX.stopped = false ∧ sRebX.asks = [] ∧ (sRebX.port ↑1).rebuilds[0]? = some (0, ReadFor.xfer (Endpoint.core 5) 9 4 8 none) ∧
     sRebX.rebuild (↑1) 0 = ((sRebX.rebuild 1 0).1, (sRebX.rebuild 1 0).2.1, (sRebX.rebuild 1 0).2.2) ∧ sRebX.deltaPending 0 = false ∧
     (sRebX.rebuild 1 0).2.2.asks = [] ∧ (sRebX.rebuild 1 0).1 ≠ 0) ∧
    (sScr.stopped = false ∧ sScr.asks = [] ∧ (sScr.mpState ↑1 = 2 ∨ sScr.mpState ↑1 = 3) ∧ sScr.fld (Reg.MP_CTL ↑1) F.MP_CTL_SCRUB_H ≠ 0 ∧
     (sScr.port ↑1).writing (sScr.port ↑1).scrub = false) :=
  ⟨by decide +kernel,
    by decide +kernel,
    by decide +kernel,
    by decide +kernel,
    by decide +kernel,
    by decide +kernel⟩

/-- States and operands that meet the hypotheses of Obligations.TranslationKept, clause by clause (part 1). -/
theorem witness_TranslationKept_1 :
    ((walkStr (tabled (Tests.em sRun))).stopped = false ∧ ((walkStr (tabled (Tests.em sRun))).strm ↑k5 ↑3).walking = true ∧
     ((walkStr (tabled (Tests.em sRun))).strm ↑k5 ↑3).emitted = [e16] ∧
     (walkStr (tabled (Tests.em sRun))).walkerFull ((walkStr (tabled (Tests.em sRun))).slot ↑k5).fleet = false ∧
     (walkStr (tabled (Tests.em sRun))).asks = [] ∧
     512 = BitVec.toNat (farOf ((walkStr (tabled (Tests.em sRun))).strm ↑k5 ↑3).header e16.src e16.dst) ∧
     (walkStr (tabled (Tests.em sRun))).secTranslate 0 0 512 (strmAccess hFetch) (FaultBy.mk 0 5 3) = (walkStr (tabled (Tests.em sRun))).secTranslate (↑k5 / 9) ((walkStr (tabled (Tests.em sRun))).slot ↑k5).fleet 512 (strmAccess ((walkStr (tabled (Tests.em sRun))).strm ↑k5 ↑3).header) (FaultBy.mk 0 ((walkStr (tabled (Tests.em sRun))).idOf ↑k5) ↑3) ∧
     ((walkStr (tabled (Tests.em sRun))).secTranslate 0 0 512 (strmAccess hFetch) (FaultBy.mk 0 5 3)).2.asks ≠ []) ∧
    ((walkStr (xl sRun)).stopped = false ∧ ((walkStr (xl sRun)).strm ↑k5 ↑3).walking = true ∧ ((walkStr (xl sRun)).strm ↑k5 ↑3).emitted = [e16] ∧
     (walkStr (xl sRun)).walkerFull ((walkStr (xl sRun)).slot ↑k5).fleet = false ∧ (walkStr (xl sRun)).asks = [] ∧
     512 = BitVec.toNat (farOf ((walkStr (xl sRun)).strm ↑k5 ↑3).header e16.src e16.dst) ∧
     (walkStr (xl sRun)).secTranslate 0 0 512 (strmAccess hFetch) (FaultBy.mk 0 5 3) = (walkStr (xl sRun)).secTranslate (↑k5 / 9) ((walkStr (xl sRun)).slot ↑k5).fleet 512 (strmAccess ((walkStr (xl sRun)).strm ↑k5 ↑3).header) (FaultBy.mk 0 ((walkStr (xl sRun)).idOf ↑k5) ↑3) ∧
     ((walkStr (xl sRun)).secTranslate 0 0 512 (strmAccess hFetch) (FaultBy.mk 0 5 3)).2.asks = [] ∧
     ((walkStr (xl sRun)).secTranslate 0 0 512 (strmAccess hFetch) (FaultBy.mk 0 5 3)).1.1 = 0) ∧
    ((walkStr sRun).stopped = false ∧ ((walkStr sRun).strm ↑k5 ↑3).walking = true ∧ ((walkStr sRun).strm ↑k5 ↑3).emitted = [e16] ∧
     (walkStr sRun).walkerFull ((walkStr sRun).slot ↑k5).fleet = false ∧ (walkStr sRun).asks = [] ∧
     512 = BitVec.toNat (farOf ((walkStr sRun).strm ↑k5 ↑3).header e16.src e16.dst) ∧
     (walkStr sRun).secTranslate 0 0 512 (strmAccess hFetch) (FaultBy.mk 0 5 3) = (walkStr sRun).secTranslate (↑k5 / 9) ((walkStr sRun).slot ↑k5).fleet 512 (strmAccess ((walkStr sRun).strm ↑k5 ↑3).header) (FaultBy.mk 0 ((walkStr sRun).idOf ↑k5) ↑3) ∧
     ((walkStr sRun).secTranslate 0 0 512 (strmAccess hFetch) (FaultBy.mk 0 5 3)).2.asks = [] ∧
     0 < ((walkStr sRun).secTranslate 0 0 512 (strmAccess hFetch) (FaultBy.mk 0 5 3)).1.1 ∧
     ((walkStr sRun).secTranslate 0 0 512 (strmAccess hFetch) (FaultBy.mk 0 5 3)).1.1 < 256) ∧
    ((xl sRun).stopped = false ∧ (xl sRun).flag Reg.XL_INV F.XL_INV_BUSY = false) ∧
    (((xl sRun).setFld Reg.XL_INV F.XL_INV_BUSY 1).stopped = false ∧
     ((xl sRun).setFld Reg.XL_INV F.XL_INV_BUSY 1).flag Reg.XL_INV F.XL_INV_BUSY = true) ∧
    (((xl sRun).setFld Reg.XL_INV F.XL_INV_BUSY 1).stopped = false ∧
     (∀ x ∈ ((xl sRun).setFld Reg.XL_INV F.XL_INV_BUSY 1).slots, ∀ o ∈ x.2.outs, o.inv = false) ∧
     (∀ x ∈ ((xl sRun).setFld Reg.XL_INV F.XL_INV_BUSY 1).hm, x.inv = false) ∧
     (∀ x ∈ ((xl sRun).setFld Reg.XL_INV F.XL_INV_BUSY 1).remote, x.inv = false) ∧
     (∀ x ∈ ((xl sRun).setFld Reg.XL_INV F.XL_INV_BUSY 1).xlNet, x ∉ ((xl sRun).setFld Reg.XL_INV F.XL_INV_BUSY 1).net) ∧
     (∀ x ∈ ((xl sRun).setFld Reg.XL_INV F.XL_INV_BUSY 1).nmus, x.2.preAsked = [])) ∧
    (sInvW.stopped = false ∧
     ((∃ x ∈ sInvW.slots, ∃ o ∈ x.2.outs, o.inv = true) ∨ (∃ x ∈ sInvW.hm, x.inv = true) ∨ (∃ x ∈ sInvW.remote, x.inv = true) ∨ ∃ x ∈ sInvW.xlNet, x ∈ sInvW.net)) :=
  ⟨by decide +kernel,
    by decide +kernel,
    by decide +kernel,
    by decide +kernel,
    by decide +kernel,
    by decide +kernel,
    by decide +kernel⟩

/-- States and operands that meet the hypotheses of Obligations.TranslationKept, clause by clause (part 2). -/
theorem witness_TranslationKept_2 :
    ((Tests.em s0).stopped = false ∧ (Tests.em s0).flag Reg.XF_RING F.XF_RING_EN = false ∧ getF ringV F.XF_RING_SIZE ≤ 8 ∧ (Tests.em s0).xfHeld = []) ∧
    (s0.stopped = false ∧ s0.flag Reg.XF_RING F.XF_RING_EN = false ∧ getF ringV F.XF_RING_SIZE ≤ 8 ∧ s0.xfHeld = []) ∧
    (sXf.stopped = false ∧ 64 < 2 ^ 32 ∧ (64 + 2 ^ 32 - sXf.fld Reg.XF_PTR F.XF_PTR_RP) % 2 ^ 32 ≤ sXf.xfUsed ∧ sXf.xfHeld = []) ∧
    (sXf.stopped = false ∧ 65 < 2 ^ 32 ∧ sXf.xfUsed < (65 + 2 ^ 32 - sXf.fld Reg.XF_PTR F.XF_PTR_RP) % 2 ^ 32) :=
  ⟨by decide +kernel,
    by decide +kernel,
    by decide +kernel,
    by decide +kernel⟩

/-- States and operands that meet the hypotheses of Obligations.NmuCommandsRun, clause by clause (part 1). -/
theorem witness_NmuCommandsRun_1 :
    (((Instr.mv, 16) ∈ nmuCommands) ∧ (nmq (nmsg 16 true 1) (sNm pMv)).stopped = false ∧ (nmq (nmsg 16 true 1) (sNm pMv)).asks = [] ∧
     ((nmq (nmsg 16 true 1) (sNm pMv)).nmu ↑n1).run = none ∧ ((nmq (nmsg 16 true 1) (sNm pMv)).nmu ↑n1).headOp = some (nmsg 16 true 1) ∧
     (nmsg 16 true 1).nop = (Instr.mv, 16).2 ∧ 130 ≠ 0 ∧ (nmq (nmsg 16 true 1) (sNm pMv)).nmuCheck (↑n1) (nmsg 16 true 1) = some 130) ∧
    (((Instr.mv, 16) ∈ nmuCommands) ∧ (nmq (nmsg 16) (sNm pMv)).stopped = false ∧ (nmq (nmsg 16) (sNm pMv)).asks = [] ∧
     ((nmq (nmsg 16) (sNm pMv)).nmu ↑n1).run = none ∧ ((nmq (nmsg 16) (sNm pMv)).nmu ↑n1).headOp = some (nmsg 16) ∧ (nmsg 16).nop = (Instr.mv, 16).2 ∧
     (nmq (nmsg 16) (sNm pMv)).nmuCheck (↑n1) (nmsg 16) = none ∧ collects (nmsg 16).nop ((nmq (nmsg 16) (sNm pMv)).pblkOf (↑n1) (nmsg 16)) = false) ∧
    (((Instr.stage, 1) ∈ nmuCommands) ∧ (nmq (nmsg 1) (sNm pMv)).stopped = false ∧ (nmq (nmsg 1) (sNm pMv)).asks = [] ∧
     ((nmq (nmsg 1) (sNm pMv)).nmu ↑n1).run = none ∧ ((nmq (nmsg 1) (sNm pMv)).nmu ↑n1).headOp = some (nmsg 1) ∧ (nmsg 1).nop = (Instr.stage, 1).2 ∧
     (nmq (nmsg 1) (sNm pMv)).nmuCheck (↑n1) (nmsg 1) = none ∧ collects (nmsg 1).nop ((nmq (nmsg 1) (sNm pMv)).pblkOf (↑n1) (nmsg 1)) = false) ∧
    (((Instr.mv, 16) ∈ nmuCommands) ∧ (nmr rMv (sNmG pMv)).stopped = false ∧ (nmr rMv (sNmG pMv)).asks = [] ∧
     ((nmr rMv (sNmG pMv)).nmu ↑n1).run = some rMv ∧ rMv.msg.nop = (Instr.mv, 16).2 ∧ rMv.over = false ∧
     (nmr rMv (sNmG pMv)).nmuWaits (↑n1) rMv = false ∧ (nmr rMv (sNmG pMv)).walkerFull rMv.fleet = false ∧
     (nmr rMv (sNmG pMv)).stalled (84 + ↑n1 / 2) = false ∧ ((nmr rMv (sNmG pMv)).nmuUnit 1 rMv).1.asks = []) ∧
    (((Instr.scatter, 65) ∈ nmuCommands) ∧ (nmr rSc (sNmG pGa)).stopped = false ∧ (nmr rSc (sNmG pGa)).asks = [] ∧
     ((nmr rSc (sNmG pGa)).nmu ↑n1).run = some rSc ∧ rSc.msg.nop = (Instr.scatter, 65).2 ∧ rSc.over = false ∧
     (nmr rSc (sNmG pGa)).nmuWaits (↑n1) rSc = false ∧ (nmr rSc (sNmG pGa)).walkerFull rSc.fleet = false ∧
     (nmr rSc (sNmG pGa)).stalled (84 + ↑n1 / 2) = false ∧ ((nmr rSc (sNmG pGa)).nmuUnit 1 rSc).1.asks = []) ∧
    (rSt.msg.nop = 1 ∧ rSt.msg.pblk + 16 ≤ 1048576) ∧
    (rMv.msg.nop = 16 ∧ rMv.blk.cols = false ∧ rMv.blk.nv = 1 ∧ rMv.blk.dkind = 3 ∧ rMv.blk.daddr + 4 * rMv.next + 4 ≤ 1048576 ∧ rMv.status = 0 ∧
     (sNmG pMv).mvRow 1 rMv rMv.next = (0, ((sNmG pMv).mvRow 1 rMv 0).2.1, ((sNmG pMv).mvRow 1 rMv 0).2.2) ∧
     (((sNmG pMv).mvRow 1 rMv 0).2.2.nmu 1).staging = ((sNmG pMv).nmu 1).staging) :=
  ⟨⟨by simp [nmuCommands], by decide +kernel⟩,
    ⟨by simp [nmuCommands], by decide +kernel⟩,
    ⟨by simp [nmuCommands], by decide +kernel⟩,
    ⟨by simp [nmuCommands], by decide +kernel⟩,
    ⟨by simp [nmuCommands], by decide +kernel⟩,
    by decide +kernel,
    by decide +kernel⟩

/-- States and operands that meet the hypotheses of Obligations.NmuCommandsRun, clause by clause (part 2). -/
theorem witness_NmuCommandsRun_2 :
    (rGa.msg.nop = 64 ∧ rGa.blk.dkind = 3 ∧
     (sNmG pGa).nmuLoad 1 rGa.msg.nmuCls rGa.fleet (rGa.blk.opa + leNat ((sNmG pGa).stRead 1 (rGa.blk.x + 4 * rGa.next) 4) * rGa.blk.str * 16) rGa.blk.k = (0, ((sNmG pGa).nmuLoad 1 rGa.msg.nmuCls rGa.fleet 4096 16).2.1, ((sNmG pGa).nmuLoad 1 rGa.msg.nmuCls rGa.fleet 4096 16).2.2) ∧
     rGa.blk.daddr + rGa.next * rGa.blk.k + ((sNmG pGa).nmuLoad 1 rGa.msg.nmuCls rGa.fleet 4096 16).2.1.length ≤ 1048576) ∧
    (rSc.msg.nop = 65 ∧ (sNm pGa).stRead 1 784 32 = (sNm pGa).stRead 1 (rSc.blk.x + rSc.next * rSc.blk.scatEntry) (16 + rSc.blk.k) ∧
     (sNm pGa).nmuStores 1 rSc.msg.nmuCls rSc.fleet [(rSc.blk.opa + leNat (List.take 4 ((sNm pGa).stRead 1 784 32)) * rSc.blk.str * 16, List.drop 16 ((sNm pGa).stRead 1 784 32))] = (0, ((sNm pGa).nmuStores 1 rSc.msg.nmuCls rSc.fleet [(4096, List.replicate 16 0)]).2)) ∧
    ((nmr rDone s0).stopped = false ∧ ↑n1 < (nmr rDone s0).opts.memPorts ∧ (nmr rDone s0).asks = [] ∧ ((nmr rDone s0).nmu ↑n1).run = some rDone ∧
     rDone.already = false ∧ rDone.over = true ∧ rDone.hold = [] ∧ collects rDone.msg.nop rDone.blk = false ∧
     (nmr rDone s0).nmuLanded (↑n1) rDone = true ∧ rDone.status ≠ 3 ∧ rDone.status ≠ 4 ∧ rDone.status ≠ 11 ∧ rDone.status ≠ 144) ∧
    ((nmr rTally s0).stopped = false ∧ ↑n1 < (nmr rTally s0).opts.memPorts ∧ (nmr rTally s0).asks = [] ∧ ((nmr rTally s0).nmu ↑n1).run = some rTally ∧
     rTally.already = false ∧ rTally.over = true ∧ rTally.hold = [] ∧ collects rTally.msg.nop rTally.blk = false ∧
     (nmr rTally s0).nmuLanded (↑n1) rTally = true ∧ rTally.status ≠ 3 ∧ rTally.status ≠ 4 ∧ rTally.status ≠ 11 ∧ rTally.status ≠ 144) ∧
    ((nmr rMv s0).stopped = false ∧ ↑n1 < (nmr rMv s0).opts.memPorts ∧ (nmr rMv s0).asks = [] ∧ (nmr rMv s0).reach (Reg.NMU_CTL ↑n1) = Reach.ok ∧
     ((nmr rMv s0).nmu ↑n1).run = some rMv ∧ rMv.fleet = ↑0 ∧ ((nmr rMv s0).nmu ↑n1).intake = []) ∧
    ((nmr rSgd s0).stopped = false ∧ ↑n1 < (nmr rSgd s0).opts.memPorts ∧ (nmr rSgd s0).asks = [] ∧ (nmr rSgd s0).reach (Reg.NMU_CTL ↑n1) = Reach.ok ∧
     ((nmr rSgd s0).nmu ↑n1).run = some rSgd ∧ rSgd.fleet = ↑0 ∧ ((nmr rSgd s0).nmu ↑n1).intake = []) ∧
    ((withTag (tag0 [1]) s0).stopped = false ∧ ↑n1 < (withTag (tag0 [1]) s0).opts.memPorts ∧ (withTag (tag0 [1]) s0).asks = [] ∧
     (withTag (tag0 [1]) s0).reach (Reg.NMU_CTL ↑n1) = Reach.ok ∧ (withTag (tag0 [1]) s0).tagOf (↑n1) 17 = some (tag0 [1]) ∧
     (tag0 [1]).ended = false ∧ (tag0 [1]).full = false ∧ (tag0 [1]).waiters = []) :=
  ⟨by decide +kernel,
    by decide +kernel,
    by decide +kernel,
    by decide +kernel,
    by decide +kernel,
    by decide +kernel,
    by decide +kernel⟩

/-- States and operands that meet the hypotheses of Obligations.NmuCommandsRun, clause by clause (part 3). -/
theorem witness_NmuCommandsRun_3 :
    ((withTag tagF s0).stopped = false ∧ ↑n1 < (withTag tagF s0).opts.memPorts ∧ (withTag tagF s0).asks = [] ∧
     tfind ((withTag tagF s0).nmu ↑n1).tags 17 = some tagF ∧ 17 = tagF.tag % 64 ∧ tagF.ended = false ∧ tagF.status = 0 ∧ tagF.ready = true ∧
     tagF.fin = some (Run.start (nmsg 80) (PBlk.ofBytes pTag) 0) ∧
     ((Run.start (nmsg 80) (PBlk.ofBytes pTag) 0).status ≠ 0 ∨ tagF.finUnits ≤ (Run.start (nmsg 80) (PBlk.ofBytes pTag) 0).next) ∧
     (withTag tagF s0).walkerFull tagF.fleet = false ∧ collects 80 tagF.blk = false) ∧
    (((Instr.mv, 16) ∈ nmuCommands) ∧ (nmr rMv (sNm pMv)).stopped = false ∧ (nmr rMv (sNm pMv)).asks = [] ∧
     ((nmr rMv (sNm pMv)).nmu ↑n1).run = some rMv ∧ rMv.msg.nop = (Instr.mv, 16).2 ∧ rMv.over = false ∧
     (nmr rMv (sNm pMv)).nmuWaits (↑n1) rMv = false ∧ (nmr rMv (sNm pMv)).walkerFull rMv.fleet = false ∧
     (nmr rMv (sNm pMv)).stalled (84 + ↑n1 / 2) = false ∧ ((nmr rMv (sNm pMv)).nmuUnit 1 rMv).1.asks ≠ []) ∧
    ((withTag tagF s0).stopped = false ∧ ↑n1 < (withTag tagF s0).opts.memPorts ∧ (withTag tagF s0).asks = [] ∧
     (withTag tagF s0).reach (Reg.NMU_CTL ↑n1) = Reach.ok ∧ (withTag tagF s0).tagOf (↑n1) 17 = some tagF ∧ tagF.ended = false ∧ tagF.full = true) :=
  ⟨by decide +kernel,
    ⟨by simp [nmuCommands], by decide +kernel⟩,
    by decide +kernel⟩

/-- States and operands that meet the hypotheses of Obligations.ReductionsCollected, clause by clause (part 1). -/
theorem witness_ReductionsCollected_1 :
    ((sTag pMv 80).stopped = false ∧ ↑n1 < (sTag pMv 80).opts.memPorts ∧ (nmsg 80).tag < 2 ^ 16 ∧ (nmsg 80).fleet < 16 ∧
     ((sTag pMv 80).nmu ↑n1).headRed 80 = some (nmsg 80) ∧ (sTag pMv 80).asks = [] ∧ (sTag pMv 80).walkerFull (nmsg 80).nmuFleet = false ∧
     (sTag pMv 80).tagCheck (↑n1) (nmsg 80) = some 130) ∧
    ((sTagG pTag 80).stopped = false ∧ ↑n1 < (sTagG pTag 80).opts.memPorts ∧ (nmsg 80).tag < 2 ^ 16 ∧ (nmsg 80).fleet < 16 ∧
     ((sTagG pTag 80).nmu ↑n1).headRed 80 = some (nmsg 80) ∧ (sTagG pTag 80).asks = [] ∧ (sTagG pTag 80).walkerFull (nmsg 80).nmuFleet = false ∧
     (sTagG pTag 80).tagCheck (↑n1) (nmsg 80) = none ∧
     (sTagG pTag 80).bucketPages (↑n1) (nmsg 80).nmuFleet ((sTagG pTag 80).pblkOf (↑n1) (nmsg 80)) = (some (((sTagG pTag 80).bucketPages 1 (nmsg 80).nmuFleet ((sTagG pTag 80).pblkOf 1 (nmsg 80))).1.getD []), ((sTagG pTag 80).bucketPages 1 (nmsg 80).nmuFleet ((sTagG pTag 80).pblkOf 1 (nmsg 80))).2) ∧
     ((sTagG pTag 80).bucketPages 1 (nmsg 80).nmuFleet ((sTagG pTag 80).pblkOf 1 (nmsg 80))).2.asks = []) ∧
    ((withTag tagE (sTag pTag 81)).stopped = false ∧ ↑n1 < (withTag tagE (sTag pTag 81)).opts.memPorts ∧ (nmsg 81).tag < 2 ^ 16 ∧
     (nmsg 81).fleet < 16 ∧ ((withTag tagE (sTag pTag 81)).nmu ↑n1).headRed 81 = some (nmsg 81) ∧
     (withTag tagE (sTag pTag 81)).tagOf (↑n1) (nmsg 81).tag = some tagE ∧ tagE.ended = true ∧
     (withTag tagE (sTag pTag 81)).fld (Reg.NMU_TAG ↑n1) F.NMU_TAG_OLDEST = (nmsg 81).tag) ∧
    ((sTag pTag 81).stopped = false ∧ ↑n1 < (sTag pTag 81).opts.memPorts ∧ (nmsg 81).tag < 2 ^ 16 ∧ (nmsg 81).fleet < 16 ∧
     ((sTag pTag 81).nmu ↑n1).headRed 81 = some (nmsg 81) ∧
     ((sTag pTag 81).tagOf (↑n1) (nmsg 81).tag = none ∨ (sTag pTag 81).fld (Reg.NMU_TAG ↑n1) F.NMU_TAG_OLDEST ≠ (nmsg 81).tag ∨ ∃ g, (sTag pTag 81).tagOf (↑n1) (nmsg 81).tag = some g ∧ g.ended = false)) ∧
    ((sRed none false 5).stopped = false ∧ (sRed none false 5).routeTo 12 = some 3 ∧ (sRed none false 5).flLost 3 = false ∧
     (sRed none false 5).asks = [] ∧ (sRed none false 5).redWaits (↑n1) 17 = false ∧
     (sRed none false 5).arrival 0 = some (Packet.mk Plane.reply (Endpoint.link 3) (Endpoint.nmu ↑n1) (Payload.red false 12 17 5 0 redBs)) ∧
     (sRed none false 5).tagLive (↑n1) 17 = none ∧ (sRed none false 5).fld (Reg.RD_STAT (17 % 64)) F.RD_STAT_REFUSALS < 65535) ∧
    ((sRed none true 5).stopped = false ∧ (sRed none true 5).routeTo 12 = some 3 ∧ (sRed none true 5).flLost 3 = false ∧
     (sRed none true 5).asks = [] ∧ (sRed none true 5).redWaits (↑n1) 17 = false ∧
     (sRed none true 5).arrival 0 = some (Packet.mk Plane.reply (Endpoint.link 3) (Endpoint.nmu ↑n1) (Payload.red true 12 17 5 0 redBs)) ∧
     (sRed none true 5).tagLive (↑n1) 17 = none ∧ (sRed none true 5).fld (Reg.RD_STAT (17 % 64)) F.RD_STAT_REFUSALS < 65535) ∧
    ((sRed (some tagN) false 64).stopped = false ∧ (sRed (some tagN) false 64).routeTo 12 = some 3 ∧ (sRed (some tagN) false 64).flLost 3 = false ∧
     (sRed (some tagN) false 64).asks = [] ∧ (sRed (some tagN) false 64).redWaits (↑n1) 17 = false ∧
     (sRed (some tagN) false 64).arrival 0 = some (Packet.mk Plane.reply (Endpoint.link 3) (Endpoint.nmu ↑n1) (Payload.red false 12 17 64 0 redBs)) ∧
     (sRed (some tagN) false 64).tagOf (↑n1) 17 = some tagN ∧ tagN.ended = false ∧ tagN.status = 0 ∧
     (List.findIdx? (fun x => x == 64) tagN.share = some 64) ∧ (false = false → (sRed (some tagN) false 64).rankAt tagN.fleet 12 = some 1) ∧
     tagN.inWindow 64 = false ∧ tagN.wb ≤ 64 ∧ tagN.doneB = [] ∧ tagN.nextR 64 ≤ 1 ∧ tagN.moor = []) :=
  ⟨by decide +kernel,
    by decide +kernel,
    by decide +kernel,
    by decide +kernel,
    by decide +kernel,
    by decide +kernel,
    by decide +kernel⟩

/-- States and operands that meet the hypotheses of Obligations.ReductionsCollected, clause by clause (part 2). -/
theorem witness_ReductionsCollected_2 :
    ((sRed (some tagN) true 64).stopped = false ∧ (sRed (some tagN) true 64).routeTo 12 = some 3 ∧ (sRed (some tagN) true 64).flLost 3 = false ∧
     (sRed (some tagN) true 64).asks = [] ∧ (sRed (some tagN) true 64).redWaits (↑n1) 17 = false ∧
     (sRed (some tagN) true 64).arrival 0 = some (Packet.mk Plane.reply (Endpoint.link 3) (Endpoint.nmu ↑n1) (Payload.red true 12 17 64 0 redBs)) ∧
     (sRed (some tagN) true 64).tagOf (↑n1) 17 = some tagN ∧ tagN.ended = false ∧ tagN.status = 0 ∧
     (List.findIdx? (fun x => x == 64) tagN.share = some 64) ∧ (true = false → (sRed (some tagN) true 64).rankAt tagN.fleet 12 = some 0) ∧
     tagN.inWindow 64 = false ∧ tagN.wb ≤ 64 ∧ tagN.doneB = [] ∧ tagN.nextR 64 ≤ 0 ∧ tagN.moor = []) ∧
    ((sRed (some tagW) false 1).stopped = false ∧ (sRed (some tagW) false 1).routeTo 12 = some 3 ∧ (sRed (some tagW) false 1).flLost 3 = false ∧
     (sRed (some tagW) false 1).asks = [] ∧ (sRed (some tagW) false 1).redWaits (↑n1) 17 = false ∧
     (sRed (some tagW) false 1).arrival 0 = some (Packet.mk Plane.reply (Endpoint.link 3) (Endpoint.nmu ↑n1) (Payload.red false 12 17 1 0 redBs)) ∧
     (sRed (some tagW) false 1).tagOf (↑n1) 17 = some tagW ∧ tagW.ended = false ∧ tagW.status = 0 ∧
     (List.findIdx? (fun x => x == 1) tagW.share = some 1) ∧ (sRed (some tagW) false 1).rankAt tagW.fleet 12 = some 1 ∧
     (1 < tagW.wb ∨ 1 ∈ tagW.doneB ∨ 1 < tagW.nextR 1 ∨ ∃ m ∈ tagW.moor, m.b = 1 ∧ m.r = 1) ∧
     (sRed (some tagW) false 1).fld (Reg.NMU_ERR ↑n1) F.NMU_ERR_DUPS < 65535) ∧
    ((sRedG false).stopped = false ∧ (sRedG false).routeTo 12 = some 3 ∧ (sRedG false).flLost 3 = false ∧ (sRedG false).asks = [] ∧
     (sRedG false).redWaits (↑n1) 17 = false ∧
     (sRedG false).arrival 0 = some (Packet.mk Plane.reply (Endpoint.link 3) (Endpoint.nmu ↑n1) (Payload.red false 12 17 1 0 redBs)) ∧
     (sRedG false).tagOf (↑n1) 17 = some tagS ∧ tagS.ended = false ∧ tagS.status = 0 ∧ (List.findIdx? (fun x => x == 1) tagS.share = some 1) ∧
     (sRedG false).rankAt tagS.fleet 12 = some 1 ∧ tagS.inWindow 1 = true ∧ (1 ∉ tagS.doneB) ∧ 1 = tagS.nextR 1 ∧
     (∀ m ∈ tagS.moor, m.b ≠ 1 ∨ m.r ≠ 1) ∧
     (uDue = (((sRedG false).takePacket 0).tagPass (↑n1) (TagSlot.mk tagS.msg tagS.tag tagS.fleet tagS.blk tagS.share tagS.wb (tput tagS.sums 1 (if 1 = 0 then redBs else addByType tagS.type (tget [] tagS.sums 1) redBs)) (tput tagS.nexts 1 (1 + 1)) tagS.moor tagS.doneB tagS.sendPos tagS.results tagS.sent tagS.waiters tagS.fin tagS.status tagS.ended tagS.already)).ctlTo 12 (ctlCack 17 1)) ∧
     uDue.asks = []) ∧
    (((let x := ((sRedG true).takePacket 0).finishBlock 1 1 tagS redBs; if x.1.status = 0 then (x.2.tagPass 1 x.1).ctlTo 12 (ctlCack 17 1) else (x.2.setTag 1 x.1).rdRefuse 12 17 1 2) = if (((sRedG true).takePacket 0).finishBlock 1 1 tagS redBs).1.status = 0 then ((((sRedG true).takePacket 0).finishBlock 1 1 tagS redBs).2.tagPass (↑n1) (((sRedG true).takePacket 0).finishBlock 1 1 tagS redBs).1).ctlTo 12 (ctlCack 17 1) else ((((sRedG true).takePacket 0).finishBlock 1 1 tagS redBs).2.setTag (↑n1) (((sRedG true).takePacket 0).finishBlock 1 1 tagS redBs).1).rdRefuse 12 17 1 2) ∧
     ((let x := ((sRedG true).takePacket 0).finishBlock 1 1 tagS redBs; if x.1.status = 0 then (x.2.tagPass 1 x.1).ctlTo 12 (ctlCack 17 1) else (x.2.setTag 1 x.1).rdRefuse 12 17 1 2).asks = []) ∧
     (sRedG true).stopped = false ∧ (sRedG true).routeTo 12 = some 3 ∧ (sRedG true).flLost 3 = false ∧ (sRedG true).asks = [] ∧
     (sRedG true).redWaits (↑n1) 17 = false ∧
     (sRedG true).arrival 0 = some (Packet.mk Plane.reply (Endpoint.link 3) (Endpoint.nmu ↑n1) (Payload.red true 12 17 1 0 redBs)) ∧
     (sRedG true).tagOf (↑n1) 17 = some tagS ∧ tagS.ended = false ∧ tagS.status = 0 ∧ (List.findIdx? (fun x => x == 1) tagS.share = some 1) ∧
     tagS.inWindow 1 = true) ∧
    ((sRedG true).stopped = false ∧ (sRedG true).routeTo 12 = some 3 ∧ (sRedG true).flLost 3 = false ∧ (sRedG true).asks = [] ∧
     (sRedG true).redWaits (↑n1) 17 = false ∧ tfind ((sRedG true).nmu ↑n1).tags 17 = some tagS ∧ tagS.ended = false ∧ tagS.status = 0 ∧
     (sRedG true).walkerFull tagS.fleet = false ∧ (sRedG true).stalled (84 + ↑n1 / 2) = false ∧
     tfind (((sRedG true).tagPass 1 tagS).nmu ↑n1).tags 17 = some sndC ∧ sndC.status = 0 ∧ (((sRedG true).tagPass 1 tagS).nmu ↑n1).unacked < 256 ∧
     sndC.again = none ∧ sndC.results = [] ∧ sndC.sendPos < sndC.share.length ∧
     (uSnd = if sndC.owner (sndC.g sndC.sendPos) = sndC.ownRank then ((sRedG true).tagPass 1 tagS).setTag (↑n1) (TagSlot.mk sndC.msg sndC.tag sndC.fleet sndC.blk sndC.share sndC.wb sndC.sums sndC.nexts sndC.moor sndC.doneB (sndC.sendPos + 1) sndC.results sndC.sent sndC.waiters sndC.fin sndC.status sndC.ended sndC.already) else ((sRedG true).tagPass 1 tagS).redRead (↑n1) (TagSlot.mk sndC.msg sndC.tag sndC.fleet sndC.blk sndC.share sndC.wb sndC.sums sndC.nexts sndC.moor sndC.doneB (sndC.sendPos + 1) sndC.results sndC.sent sndC.waiters sndC.fin sndC.status sndC.ended sndC.already) (sndC.g sndC.sendPos) (sndC.owner (sndC.g sndC.sendPos)) false) ∧
     uSnd.asks = []) ∧
    ((sColl 3).stopped = false ∧ (sColl 3).asks = [] ∧
     (sColl 3).arrival 0 = some (Packet.mk Plane.data (Endpoint.nmu 2) (Endpoint.nmu 1) (Payload.scout 0 17 0 768 9)) ∧
     ((sColl 3).nmu 1).collects = [coll 3] ∧ (coll 3).fleet = 0 ∧ (coll 3).tag = 17 ∧ (coll 3).par = 0 ∧ (coll 3).got + 1 < (sColl 3).opts.memPorts) ∧
    (sCollG.stopped = false ∧ sCollG.asks = [] ∧
     sCollG.arrival 0 = some (Packet.mk Plane.data (Endpoint.nmu 2) (Endpoint.nmu 1) (Payload.scout 0 17 0 768 9)) ∧
     (sCollG.nmu 1).collects = [coll 19] ∧ (coll 19).fleet = 0 ∧ (coll 19).tag = 17 ∧ (coll 19).par = 0 ∧ sCollG.opts.memPorts ≤ (coll 19).got + 1 ∧
     scaleFrom 9 127 = scaleFrom (max (coll 19).max 9) 127 ∧
     (uCol2 = ((sCollG.takePacket 0).modNmu 1 fun x => Nmu.mk x.staging x.intake x.wait x.run x.tags [Collect.mk (coll 19).fleet (coll 19).tag (coll 19).par (coll 19).scale ((coll 19).got + 1) (max (coll 19).max 9)] x.tlb x.pre x.preAsked).nmuStores 1 (clsPrio 0) 0 [(768 + 8 * (1 - 0), natLE 4 (scaleFrom 9 127).1 ++ natLE 4 (scaleFrom 9 127).2)]) ∧
     uCol2.2.asks = []) :=
  ⟨by decide +kernel,
    by decide +kernel,
    by decide +kernel,
    ⟨rfl, rfl, by decide +kernel⟩,
    by decide +kernel,
    by decide +kernel,
    by decide +kernel⟩

/-- States and operands that meet the hypotheses of Obligations.ReductionsCollected, clause by clause (part 3). -/
theorem witness_ReductionsCollected_3 :
    ((nmq (nmsg 80) (ranks (sNm pTag))).stopped = false ∧ ↑n1 < (nmq (nmsg 80) (ranks (sNm pTag))).opts.memPorts ∧ (nmsg 80).tag < 2 ^ 16 ∧
     (nmsg 80).fleet < 16 ∧ ((nmq (nmsg 80) (ranks (sNm pTag))).nmu ↑n1).headRed 80 = some (nmsg 80) ∧ (nmq (nmsg 80) (ranks (sNm pTag))).asks = [] ∧
     (nmq (nmsg 80) (ranks (sNm pTag))).walkerFull (nmsg 80).nmuFleet = false ∧ (nmq (nmsg 80) (ranks (sNm pTag))).tagCheck (↑n1) (nmsg 80) = none ∧
     (nmq (nmsg 80) (ranks (sNm pTag))).bucketPages (↑n1) (nmsg 80).nmuFleet ((nmq (nmsg 80) (ranks (sNm pTag))).pblkOf (↑n1) (nmsg 80)) = (none, ((nmq (nmsg 80) (ranks (sNm pTag))).bucketPages 1 (nmsg 80).nmuFleet ((nmq (nmsg 80) (ranks (sNm pTag))).pblkOf 1 (nmsg 80))).2) ∧
     ((nmq (nmsg 80) (ranks (sNm pTag))).bucketPages 1 (nmsg 80).nmuFleet ((nmq (nmsg 80) (ranks (sNm pTag))).pblkOf 1 (nmsg 80))).2.asks = []) :=
  by decide +kernel

/-- States and operands that meet the hypotheses of Obligations.LinksServed, clause by clause (part 1). -/
theorem witness_LinksServed_1 :
    (fromWire (sFl.link 1).rxLanes (wireFl (flIn [] 0)) = ((fromWire (sFl.link 1).rxLanes (wireFl (flIn [] 0))).1, (fromWire (sFl.link 1).rxLanes (wireFl (flIn [] 0))).2) ∧
     sFl.flInOrder (↑l1) (fromWire (sFl.link 1).rxLanes (wireFl (flIn [] 0))).1 = true ∧
     ctrlNak (fCtrl (fromWire (sFl.link 1).rxLanes (wireFl (flIn [] 0))).1) = false ∧
     (∀ i < 15, descType (fDesc (fromWire (sFl.link 1).rxLanes (wireFl (flIn [] 0))).1 i) = 0) ∧
     (∀ w ∈ (sFl.link 1).moves, w.tx = true ∨ w.atSeq ≠ ctrlSeq (fCtrl (fromWire (sFl.link 1).rxLanes (wireFl (flIn [] 0))).1)) ∧
     sFl.stopped = false ∧ sFl.flUp ↑l1 = true ∧ sFl.asks = [] ∧ sFl.fld (Reg.FL_ERR ↑l1) F.FL_ERR_CORR < 65535) ∧
    (fromWire (sFl.link 1).rxLanes (wireFl (flIn [slot3 9] 0)) = ((fromWire (sFl.link 1).rxLanes (wireFl (flIn [slot3 9] 0))).1, (fromWire (sFl.link 1).rxLanes (wireFl (flIn [slot3 9] 0))).2) ∧
     sFl.flInOrder (↑l1) (fromWire (sFl.link 1).rxLanes (wireFl (flIn [slot3 9] 0))).1 = true ∧
     ctrlNak (fCtrl (fromWire (sFl.link 1).rxLanes (wireFl (flIn [slot3 9] 0))).1) = false ∧
     (∀ (i : ℕ), 0 < i → i < 15 → descType (fDesc (fromWire (sFl.link 1).rxLanes (wireFl (flIn [slot3 9] 0))).1 i) = 0) ∧
     (frameSlot (fromWire (sFl.link 1).rxLanes (wireFl (flIn [slot3 9] 0))).1 0).type = 3 ∧
     (frameSlot (fromWire (sFl.link 1).rxLanes (wireFl (flIn [slot3 9] 0))).1 0).dnode = sFl.cfg.ownNode ∧
     (List.find? (fun y => y.sent && !y.write && y.node == (frameSlot (fromWire (sFl.link 1).rxLanes (wireFl (flIn [slot3 9] 0))).1 0).snode && y.tag == bits (frameSlot (fromWire (sFl.link 1).rxLanes (wireFl (flIn [slot3 9] 0))).1 0).low 26 10) sFl.remote = some (rreq true false)) ∧
     sFl.stopped = false ∧ sFl.flUp ↑l1 = true ∧ sFl.asks = [] ∧ sFl.fld (Reg.FL_ERR ↑l1) F.FL_ERR_CORR < 65535 ∧ (rreq true false).fill = none) ∧
    (fromWire (sFl.link 1).rxLanes (wireFl (flIn [slot3 12] 0)) = ((fromWire (sFl.link 1).rxLanes (wireFl (flIn [slot3 12] 0))).1, (fromWire (sFl.link 1).rxLanes (wireFl (flIn [slot3 12] 0))).2) ∧
     sFl.flInOrder (↑l1) (fromWire (sFl.link 1).rxLanes (wireFl (flIn [slot3 12] 0))).1 = true ∧
     ctrlNak (fCtrl (fromWire (sFl.link 1).rxLanes (wireFl (flIn [slot3 12] 0))).1) = false ∧
     (∀ (i : ℕ), 0 < i → i < 15 → descType (fDesc (fromWire (sFl.link 1).rxLanes (wireFl (flIn [slot3 12] 0))).1 i) = 0) ∧
     (frameSlot (fromWire (sFl.link 1).rxLanes (wireFl (flIn [slot3 12] 0))).1 0).type = 3 ∧
     (frameSlot (fromWire (sFl.link 1).rxLanes (wireFl (flIn [slot3 12] 0))).1 0).dnode ≠ sFl.cfg.ownNode ∧
     sFl.routeTo (frameSlot (fromWire (sFl.link 1).rxLanes (wireFl (flIn [slot3 12] 0))).1 0).dnode = some 3 ∧ sFl.stopped = false ∧
     sFl.flUp ↑l1 = true ∧ sFl.asks = [] ∧ sFl.fld (Reg.FL_ERR ↑l1) F.FL_ERR_CORR < 65535 ∧ sFl.flLost 3 = false ∧ 3 < 8) ∧
    (fromWire (sFl.link 1).rxLanes [1, 2] = ((fromWire (sFl.link 1).rxLanes [1, 2]).1, (fromWire (sFl.link 1).rxLanes [1, 2]).2) ∧
     sFl.stopped = false ∧ sFl.flUp ↑l1 = true ∧ sFl.asks = [] ∧ sFl.fld (Reg.FL_ERR ↑l1) F.FL_ERR_CORR < 65535 ∧
     sFl.flInOrder (↑l1) (fromWire (sFl.link 1).rxLanes [1, 2]).1 = false ∧ sFl.fld (Reg.FL_ERR ↑l1) F.FL_ERR_REPLAY < 65535 ∧
     sFl.fld (Reg.FL_ERR ↑l1) F.FL_ERR_CRC < 65535) ∧
    (sFlTx.stopped = false ∧ sFlTx.flUp ↑l1 = true ∧ (sFlTx.link ↑l1).resend = [] ∧ (sFlTx.link ↑l1).kept.length < 512 ∧
     (sFlTx.link ↑l1).txSeq < 1024 ∧ (sFlTx.link ↑l1).rxSeq < 1024) ∧
    (sFlRe.stopped = false ∧ sFlRe.flUp ↑l1 = true ∧ (sFlRe.link ↑l1).resend = [5, 4] ∧
     (List.find? (fun x => x.1 == 5) (sFlRe.link ↑l1).kept = some (5, [2]))) ∧
    (lOff.stopped = false ∧ ↑l1 < lOff.opts.linkPorts ∧ lOff.phyOff = true) :=
  ⟨⟨Prod.mk.eta.symm,
     by rw [air_l0, State.flInOrder, flIn, fCrcOk_mkFrame _ _ (by decide) (by decide +kernel), fCtrl_mkFrame _ _ (by decide) (by decide +kernel)]; decide +kernel,
     by rw [air_l0, flIn, fCtrl_mkFrame _ _ (by decide) (by decide +kernel)]; decide +kernel,
     fun i h1 => by rw [air_l0, flIn, fDesc_mkFrame_empty [] _ (by decide) (by decide) i (Nat.zero_le i) h1]; rfl,
     by rw [air_l0, flIn, fCtrl_mkFrame _ _ (by decide) (by decide +kernel)]; decide +kernel, by decide +kernel⟩,
    ⟨Prod.mk.eta.symm,
     by rw [air_l9, State.flInOrder, flIn, fCrcOk_mkFrame _ _ (by decide) (by decide +kernel), fCtrl_mkFrame _ _ (by decide) (by decide +kernel)]; decide +kernel,
     by rw [air_l9, flIn, fCtrl_mkFrame _ _ (by decide) (by decide +kernel)]; decide +kernel,
     fun i h0 h1 => by rw [air_l9, flIn, fDesc_mkFrame_empty [slot3 9] _ (by decide) (by decide +kernel) i h0 h1]; rfl,
     by rw [air_l9, frameSlot, flIn, slot3, fDesc_mkFrame_head _ _ _ _ (by decide) (by decide +kernel), fSlot_mkFrame_head _ _ _ _ (by decide +kernel)]; decide +kernel,
     by rw [air_l9, frameSlot, flIn, slot3, fDesc_mkFrame_head _ _ _ _ (by decide) (by decide +kernel), fSlot_mkFrame_head _ _ _ _ (by decide +kernel)]; decide +kernel,
     by rw [air_l9, frameSlot, flIn, slot3, fDesc_mkFrame_head _ _ _ _ (by decide) (by decide +kernel), fSlot_mkFrame_head _ _ _ _ (by decide +kernel)]; decide +kernel,
     by decide +kernel⟩,
    ⟨Prod.mk.eta.symm,
     by rw [air_l12, State.flInOrder, flIn, fCrcOk_mkFrame _ _ (by decide) (by decide +kernel), fCtrl_mkFrame _ _ (by decide) (by decide +kernel)]; decide +kernel,
     by rw [air_l12, flIn, fCtrl_mkFrame _ _ (by decide) (by decide +kernel)]; decide +kernel,
     fun i h0 h1 => by rw [air_l12, flIn, fDesc_mkFrame_empty [slot3 12] _ (by decide) (by decide +kernel) i h0 h1]; rfl,
     by rw [air_l12, frameSlot, flIn, slot3, fDesc_mkFrame_head _ _ _ _ (by decide) (by decide +kernel), fSlot_mkFrame_head _ _ _ _ (by decide +kernel)]; decide +kernel,
     by rw [air_l12, frameSlot, flIn, slot3, fDesc_mkFrame_head _ _ _ _ (by decide) (by decide +kernel), fSlot_mkFrame_head _ _ _ _ (by decide +kernel)]; decide +kernel,
     by rw [air_l12, frameSlot, flIn, slot3, fDesc_mkFrame_head _ _ _ _ (by decide) (by decide +kernel), fSlot_mkFrame_head _ _ _ _ (by decide +kernel)]; decide +kernel,
     by decide +kernel⟩,
    ⟨Prod.mk.eta.symm, by decide +kernel⟩,
    by decide +kernel,
    by decide +kernel,
    by decide +kernel⟩

/-- States and operands that meet the hypotheses of Obligations.LinksServed, clause by clause (part 2). -/
theorem witness_LinksServed_2 :
    ((∀ (n : ℕ), tfind (sPeer 12).cfg.peers ↑l1 = some n → n = 12) ∧ (sPeer 12).stopped = false ∧ ↑l1 < (sPeer 12).opts.linkPorts ∧
     (sPeer 12).phyOff = false ∧ (sPeer 12).flState ↑l1 = 1 ∧
     assignLanes 16 1 (lanesOf [(sPeer 12).fld (Reg.FL_LANES ↑l1) F.FL_LANES_RXS]) [3] = some ([(3, 0)], false) ∧
     assignLanes 16 1 (lanesOf [(sPeer 12).fld (Reg.FL_LANES ↑l1) F.FL_LANES_TXS]) [] = some ([], false) ∧ 12 < 2 ^ 12) ∧
    ((∀ (n : ℕ), tfind (sPeer 12).cfg.peers ↑l1 = some n → n = 12) ∧ (sPeer 12).stopped = false ∧ ↑l1 < (sPeer 12).opts.linkPorts ∧
     (sPeer 12).phyOff = false ∧ (sPeer 12).flState ↑l1 = 1 ∧
     assignLanes 16 1 (lanesOf [(sPeer 12).fld (Reg.FL_LANES ↑l1) F.FL_LANES_RXS]) [3, 4] = some ([(3, 0)], true) ∧
     assignLanes 16 1 (lanesOf [(sPeer 12).fld (Reg.FL_LANES ↑l1) F.FL_LANES_TXS]) [] = some ([], false) ∧ 12 < 2 ^ 12) ∧
    ((sPeer 12).stopped = false ∧ ↑l1 < (sPeer 12).opts.linkPorts ∧ (sPeer 12).phyOff = false ∧ (sPeer 12).flState ↑l1 = 1 ∧
     tfind (sPeer 12).cfg.peers ↑l1 = some 12 ∧ 12 ≠ 13) ∧
    ((sPeer 12).stopped = false ∧ ↑l1 < (sPeer 12).opts.linkPorts ∧ (sPeer 12).phyOff = false ∧ (sPeer 12).flState ↑l1 = 1) ∧
    (sFlRem.stopped = false ∧ ↑l1 < sFlRem.opts.linkPorts ∧ sFlRem.reach (Reg.FL_CTL ↑l1) = Reach.ok ∧ sFlRem.flLost ↑l1 = false) ∧
    (sFlRe.stopped = false ∧ ↑l1 < sFlRe.opts.linkPorts ∧ sFlRe.reach (Reg.FL_CTL ↑l1) = Reach.ok ∧ sFlRe.flLost ↑l1 = false ∧
     2 = (sFlRe.link ↑l1).kept.length) ∧
    ((lUp 4 s0).stopped = false ∧ ↑l1 < (lUp 4 s0).opts.linkPorts ∧ (lUp 4 s0).reach (Reg.FL_CTL ↑l1) = Reach.ok ∧ (lUp 4 s0).flLost ↑l1 = true) :=
  ⟨⟨by intro n h; rw [show tfind (sPeer 12).cfg.peers ↑l1 = some 12 by decide +kernel] at h; exact (Option.some.inj h).symm, by decide +kernel⟩,
    ⟨by intro n h; rw [show tfind (sPeer 12).cfg.peers ↑l1 = some 12 by decide +kernel] at h; exact (Option.some.inj h).symm, by decide +kernel⟩,
    by decide +kernel,
    by decide +kernel,
    by decide +kernel,
    by decide +kernel,
    by decide +kernel⟩

/-- States and operands that meet the hypotheses of Obligations.LinksServed, clause by clause (part 3). -/
theorem witness_LinksServed_3 :
    ((sLane1 0).stopped = false ∧ ↑l1 < (sLane1 0).opts.linkPorts ∧ 15 < 16 ∧ (sLane1 0).flUp ↑l1 = true ∧
     bit ((sLane1 0).fld (Reg.FL_LANES ↑l1) F.FL_LANES_RXS) 7 = false) ∧
    ((sLane1 128).stopped = false ∧ ↑l1 < (sLane1 128).opts.linkPorts ∧ 0 < 16 ∧ (sLane1 128).flUp ↑l1 = true ∧
     bit ((sLane1 128).fld (Reg.FL_LANES ↑l1) F.FL_LANES_RXS) 7 = true) ∧
    (sRdw.stopped = false ∧ ↑l1 < sRdw.opts.linkPorts ∧ sRdw.reach (Reg.RD_STAT ↑3) = Reach.ok ∧ tget [] sRdw.rdWait ↑3 = [12] ∧
     sRdw.routeTo 12 = some 3 ∧ sRdw.flLost 3 = false) ∧
    (fromWire (sFl.link 1).rxLanes (wireFl (flIn [slotBad] 0)) = ((fromWire (sFl.link 1).rxLanes (wireFl (flIn [slotBad] 0))).1, (fromWire (sFl.link 1).rxLanes (wireFl (flIn [slotBad] 0))).2) ∧
     sFl.flInOrder (↑l1) (fromWire (sFl.link 1).rxLanes (wireFl (flIn [slotBad] 0))).1 = true ∧
     protoBad (fromWire (sFl.link 1).rxLanes (wireFl (flIn [slotBad] 0))).1 = true ∧ sFl.stopped = false ∧ sFl.flUp ↑l1 = true ∧ sFl.asks = [] ∧
     sFl.fld (Reg.FL_ERR ↑l1) F.FL_ERR_CORR < 65535 ∧ sFl.fld (Reg.FL_ERR ↑l1) F.FL_ERR_PROTO < 65535) :=
  ⟨by decide +kernel,
    by decide +kernel,
    by decide +kernel,
    ⟨Prod.mk.eta.symm,
     by rw [air_lb, State.flInOrder, flIn, fCrcOk_mkFrame _ _ (by decide) (by decide +kernel), fCtrl_mkFrame _ _ (by decide) (by decide +kernel)]; decide +kernel,
     by rw [air_lb]; decide +kernel, by decide +kernel⟩⟩

/-- States and operands that meet the hypotheses of Obligations.PassagesHeld, clause by clause (part 1). -/
theorem witness_PassagesHeld_1 :
    (uRk sDue9 = { (sDue9.draw).2 with rkDue := sDue9.time + (sDue9.draw).1.toNat % 40001 } ∧ sDue9.stopped = false ∧ setB 512 [] = sDue9.descBytes ∧
     (∀ x ∈ sDue9.passages, x.1 < 32) ∧ sDue9.time < sDue9.rkDue) ∧
    (uRk s0 = { (s0.draw).2 with rkDue := s0.time + (s0.draw).1.toNat % 40001 } ∧ s0.stopped = false ∧ setB 512 [] = s0.descBytes ∧
     (∀ x ∈ s0.passages, x.1 < 32) ∧ s0.rkDue ≤ s0.time ∧ descOk (setB 512 []) = false) ∧
    (uRk sAdmX = { (sAdmX.draw).2 with rkDue := sAdmX.time + (sAdmX.draw).1.toNat % 40001 } ∧ sAdmX.stopped = false ∧ descOf5 = sAdmX.descBytes ∧
     (∀ x ∈ sAdmX.passages, x.1 < 32) ∧ sAdmX.rkDue ≤ sAdmX.time ∧ descOk descOf5 = true ∧ sAdmX.admitCheck descOf5 = some (1, 0)) ∧
    (uRk sAdm = { (sAdm.draw).2 with rkDue := sAdm.time + (sAdm.draw).1.toNat % 40001 } ∧ sAdm.stopped = false ∧ descOf5 = sAdm.descBytes ∧
     (∀ x ∈ sAdm.passages, x.1 < 32) ∧ sAdm.rkDue ≤ sAdm.time ∧ descOk descOf5 = true ∧ sAdm.admitCheck descOf5 = none ∧
     (List.find? (fun x => (tfind sAdm.passages x).isNone) (List.range 32) = some 0)) ∧
    (uRk (sPt 1) = { ((sPt 1).draw).2 with rkDue := (sPt 1).time + ((sPt 1).draw).1.toNat % 40001 } ∧ (sPt 1).stopped = false ∧
     (∀ x ∈ (sPt 1).drawn, x.2.1 < 100) ∧ (sPt 1).rkDue ≤ (sPt 1).time ∧ 0 < 32 ∧ (sPt 1).pidAt 7 = some 0 ∧ (sPt 1).ptState 0 = 1) ∧
    (uRk (sPt 2) = { ((sPt 2).draw).2 with rkDue := (sPt 2).time + ((sPt 2).draw).1.toNat % 40001 } ∧ (sPt 2).stopped = false ∧
     (∀ x ∈ (sPt 2).drawn, x.2.1 < 100) ∧ (sPt 2).rkDue ≤ (sPt 2).time ∧
     ((sPt 2).pidAt 7 = none ∨ ∃ q, (sPt 2).pidAt 7 = some q ∧ (sPt 2).ptState q ≠ 1)) ∧
    (uRk (sPt 1) = { ((sPt 1).draw).2 with rkDue := (sPt 1).time + ((sPt 1).draw).1.toNat % 40001 } ∧ (sPt 1).stopped = false ∧
     (∀ x ∈ (sPt 1).drawn, x.2.1 < 100) ∧ (sPt 1).rkDue ≤ (sPt 1).time ∧
     ((sPt 1).pidAt 8 = none ∨ ∃ q, (sPt 1).pidAt 8 = some q ∧ (sPt 1).ptState q ≠ 1)) :=
  ⟨⟨rfl, by decide +kernel⟩,
    ⟨rfl, by decide +kernel⟩,
    ⟨rfl, by decide +kernel⟩,
    ⟨rfl, by decide +kernel⟩,
    ⟨rfl, by decide +kernel⟩,
    ⟨rfl, by decide +kernel⟩,
    ⟨rfl, by decide +kernel⟩⟩

/-- States and operands that meet the hypotheses of Obligations.PassagesHeld, clause by clause (part 2). -/
theorem witness_PassagesHeld_2 :
    ((sPt 2).stopped = false ∧ tfind (sPt 2).passages ↑0 = some pass5 ∧ (sPt 2).ptState ↑0 = 2 ∧ pass5.missed = false ∧
     (sPt 2).fld Reg.RK_STAT F.RK_STAT_MISSES < 65535) ∧
    (s0.stopped = false ∧ (tfind s0.passages ↑0 = none ∨ s0.ptState ↑0 ≠ 2 ∨ ∃ p, tfind s0.passages ↑0 = some p ∧ p.missed = true)) ∧
    (sPtMissed.stopped = false ∧
     (tfind sPtMissed.passages ↑0 = none ∨ sPtMissed.ptState ↑0 ≠ 2 ∨ ∃ p, tfind sPtMissed.passages ↑0 = some p ∧ p.missed = true)) ∧
    ((sPt 1).stopped = false) ∧
    ((sPt 2).stopped = false) :=
  ⟨by decide +kernel,
    by decide +kernel,
    by decide +kernel,
    by decide +kernel,
    by decide +kernel⟩

/-- States and operands that meet the hypotheses of Obligations.PaceAndPower, clause by clause (part 1). -/
theorem witness_PaceAndPower_1 :
    (sPace.stopped = false ∧ (∀ x ∈ sPace.passages, x.1 < 32) ∧ (200 = min 1023 (100 * 2048 / if sPace.rtMode = true then 256 else 1024)) ∧
     sPace.present ↑5 = true ∧ sPace.closed ↑5 = false ∧ 60 < 256) ∧
    (sPace.stopped = false ∧ (∀ x ∈ sPace.passages, x.1 < 32) ∧ (229 = min 1023 (100 * 2345 / if sPace.rtMode = true then 256 else 1024)) ∧
     sPace.present ↑5 = true ∧ sPace.closed ↑5 = false ∧ 85 < 256) ∧
    ((sQuar 5).stopped = false ∧ (∀ x ∈ (sQuar 5).passages, x.1 < 32) ∧
     (200 = min 1023 (100 * 2048 / if (sQuar 5).rtMode = true then 256 else 1024)) ∧ ((sQuar 5).present ↑5 = false ∨ (sQuar 5).closed ↑5 = true)) ∧
    (sPace.stopped = false ∧ (∀ x ∈ sPace.passages, x.1 < 32) ∧ (200 = min 1023 (100 * 2048 / if sPace.rtMode = true then 256 else 1024))) ∧
    (sPow.stopped = false ∧ sPow.need 5 15 = sPow.need (↑5) 15 - (sPow.floor ↑5 + sPow.granted ↑5) ∧ sPow.need 5 15 ≠ 0 ∧ sPow.closed ↑5 = false ∧
     ((sPow.grantQ.any fun r => r.polder == ↑5) = false)) ∧
    (sPow.stopped = false ∧ 0 = sPow.need (↑6) 15 - (sPow.floor ↑6 + sPow.granted ↑6) ∧
     (0 = 0 ∨ sPow.closed ↑6 = true ∨ (sPow.grantQ.any fun r => r.polder == ↑6) = true)) ∧
    ((s0.setFld Reg.CP_STAT F.CP_STAT_FROZEN 1).stopped = false ∧ (s0.setFld Reg.CP_STAT F.CP_STAT_FROZEN 1).frozen = true) :=
  ⟨by decide +kernel,
    by decide +kernel,
    by decide +kernel,
    by decide +kernel,
    by decide +kernel,
    by decide +kernel,
    by decide +kernel⟩

/-- States and operands that meet the hypotheses of Obligations.PaceAndPower, clause by clause (part 2). -/
theorem witness_PaceAndPower_2 :
    ((mayBe sPowP = fun x => sPowP.hotAllows x.polder x.quanta && sPowP.shareAllows x.polder x.quanta) ∧ sPowP.stopped = false ∧
     sPowP.frozen = false ∧ (List.find? (fun x => sPowP.reserveFits x && mayBe sPowP x) sPowP.grantQ = some (GrantReq.mk 5 3)) ∧
     sPowP.reserveFor (GrantReq.mk 5 3) = some (0, (GrantReq.mk 5 3).quanta) ∧ sPowP.granted (GrantReq.mk 5 3).polder + (GrantReq.mk 5 3).quanta < 256) ∧
    ((mayBe (sReqd sPow) = fun x => (sReqd sPow).hotAllows x.polder x.quanta && (sReqd sPow).shareAllows x.polder x.quanta) ∧
     (sReqd sPow).stopped = false ∧ (sReqd sPow).frozen = false ∧
     (List.find? (fun x => (sReqd sPow).reserveFits x && mayBe (sReqd sPow) x) (sReqd sPow).grantQ = none) ∧ (sReqd sPow).grantQ = [GrantReq.mk 5 3] ∧
     (3 = (GrantReq.mk 5 3).quanta - (Option.map (fun x => x.2) ((sReqd sPow).reserveFor (GrantReq.mk 5 3))).getD 0) ∧
     (3 ≤ (sReqd sPow).poolRoom ∧ (sReqd sPow).rampAllows 3 = true ∧ mayBe (sReqd sPow) (GrantReq.mk 5 3) = true) ∧
     (sReqd sPow).granted (GrantReq.mk 5 3).polder + (GrantReq.mk 5 3).quanta < 256) ∧
    ((mayBe (sReqd s0) = fun x => (sReqd s0).hotAllows x.polder x.quanta && (sReqd s0).shareAllows x.polder x.quanta) ∧ (sReqd s0).stopped = false ∧
     (sReqd s0).frozen = false ∧ (List.find? (fun x => (sReqd s0).reserveFits x && mayBe (sReqd s0) x) (sReqd s0).grantQ = none) ∧
     (sReqd s0).grantQ = [GrantReq.mk 5 3] ∧
     (3 = (GrantReq.mk 5 3).quanta - (Option.map (fun x => x.2) ((sReqd s0).reserveFor (GrantReq.mk 5 3))).getD 0) ∧
     ((sReqd s0).poolRoom < 3 ∨ (sReqd s0).rampAllows 3 = false ∨ mayBe (sReqd s0) (GrantReq.mk 5 3) = false)) ∧
    (sWarned.stopped = false) :=
  ⟨⟨rfl, by decide +kernel⟩,
    ⟨rfl, by decide +kernel⟩,
    ⟨rfl, by decide +kernel⟩,
    by decide +kernel⟩

/-- States and operands that meet the hypotheses of Obligations.ImagesLoadedAndCommanded, clause by clause (part 1). -/
theorem witness_ImagesLoadedAndCommanded_1 :
    (s0.znSource none = ((s0.znSource none).1, (s0.znSource none).2) ∧ s0.stopped = false ∧ s0.asks = [] ∧ (s0.znState = 0 ∨ s0.znState = 2)) ∧
    ((zn 2 [1]).znSource none = (((zn 2 [1]).znSource none).1, ((zn 2 [1]).znSource none).2) ∧ (zn 2 [1]).stopped = false ∧ (zn 2 [1]).asks = [] ∧
     ((zn 2 [1]).znState = 0 ∨ (zn 2 [1]).znState = 2)) ∧
    ((zn 1 []).znSource none = (((zn 1 []).znSource none).1, ((zn 1 []).znSource none).2) ∧ (zn 1 []).stopped = false ∧ (zn 1 []).asks = [] ∧
     (zn 1 []).znState = 1 ∧ ((zn 1 []).znSource none).2.asks = [] ∧
     ((zn 1 []).znSource none).2.imageCheck ((zn 1 []).znSource none).1 = some (4, 0, 0) ∧ 4 < 256 ∧ 0 < 16 ∧ 0 < 256) ∧
    ((zn 1 []).znSource (some imgSigned) = (((zn 1 []).znSource (some imgSigned)).1, ((zn 1 []).znSource (some imgSigned)).2) ∧
     (zn 1 []).stopped = false ∧ (zn 1 []).asks = [] ∧ (zn 1 []).znState = 1 ∧ ((zn 1 []).znSource (some imgSigned)).2.asks = [] ∧
     ((zn 1 []).znSource (some imgSigned)).2.imageCheck ((zn 1 []).znSource (some imgSigned)).1 = some (9, 1, 0) ∧ 9 < 256 ∧ 1 < 16 ∧ 0 < 256) ∧
    ((zn 1 [] (keyed s0)).znSource (some imgSigned) = (((zn 1 [] (keyed s0)).znSource (some imgSigned)).1, ((zn 1 [] (keyed s0)).znSource (some imgSigned)).2) ∧
     (zn 1 [] (keyed s0)).stopped = false ∧ (zn 1 [] (keyed s0)).asks = [] ∧ (zn 1 [] (keyed s0)).znState = 1 ∧
     ((zn 1 [] (keyed s0)).znSource (some imgSigned)).2.asks = [] ∧
     ((zn 1 [] (keyed s0)).znSource (some imgSigned)).2.imageCheck ((zn 1 [] (keyed s0)).znSource (some imgSigned)).1 = none ∧
     ((zn 1 [] (keyed s0)).znSource (some imgSigned)).1 = some imgSigned) ∧
    (sSrcEm.znSource none = ((sSrcEm.znSource none).1, (sSrcEm.znSource none).2) ∧ sSrcEm.stopped = false ∧ sSrcEm.asks = [] ∧ sSrcEm.znState = 1 ∧
     (sSrcEm.znSource none).2.asks ≠ []) ∧
    (s0.znSource (some imgSigned) = ((s0.znSource (some imgSigned)).1, (s0.znSource (some imgSigned)).2) ∧ s0.stopped = false ∧ s0.asks = [] ∧
     s0.znState ≠ 1) :=
  ⟨⟨rfl, by decide +kernel⟩,
    ⟨rfl, by decide +kernel⟩,
    ⟨rfl, by decide +kernel⟩,
    ⟨rfl, by decide +kernel⟩,
    ⟨rfl, by decide +kernel⟩,
    ⟨rfl, by decide +kernel⟩,
    ⟨rfl, by decide +kernel⟩⟩

/-- States and operands that meet the hypotheses of Obligations.ImagesLoadedAndCommanded, clause by clause (part 2). -/
theorem witness_ImagesLoadedAndCommanded_2 :
    (sZp.stopped = false ∧ sZp.znState = 2 ∧ imDelta sZp.zen.buf = true ∧ sZp.planOf sZp.zen.buf = [setp 5, setp 72, setp 80, setp 81] ∧
     sZp.stepClose (setp 5) ≠ []) ∧
    ((zn 2 (imgHead false)).stopped = false ∧ (zn 2 (imgHead false)).znState = 2 ∧ imDelta (zn 2 (imgHead false)).zen.buf = false) ∧
    ((zn 2 (imgHead true)).stopped = false ∧ (zn 2 (imgHead true)).znState = 2 ∧ imDelta (zn 2 (imgHead true)).zen.buf = true) ∧
    ((zn 3 []).stopped = false ∧ ((zn 3 []).znState = 3 ∨ (zn 3 []).znState = 4) ∧ (Instr.load ∈ [Instr.load, Instr.apply, Instr.stageWarm])) ∧
    ((planned 4 (setp 5)).stopped = false ∧ ((planned 4 (setp 5)).znState = 3 ∨ (planned 4 (setp 5)).znState = 4) ∧
     (planned 4 (setp 5)).zen.committed = false ∧ (planned 4 (setp 5)).zen.closing = []) ∧
    ((closing [5] (setp 5)).stopped = false ∧ ((closing [5] (setp 5)).znState = 3 ∨ (closing [5] (setp 5)).znState = 4) ∧
     ((closing [5] (setp 5)).zen.committed = true ∨ (closing [5] (setp 5)).zen.closing ≠ [])) ∧
    ((zn 5 []).stopped = false ∧ ((zn 5 []).znState = 2 ∨ (zn 5 []).znState = 5)) :=
  ⟨by decide +kernel,
    by decide +kernel,
    by decide +kernel,
    by decide +kernel,
    by decide +kernel,
    by decide +kernel,
    by decide +kernel⟩

/-- States and operands that meet the hypotheses of Obligations.ImagesLoadedAndCommanded, clause by clause (part 3). -/
theorem witness_ImagesLoadedAndCommanded_3 :
    ((zn 5 []).stopped = false ∧
     ((Instr.apply, [0, 1, 5]) ∈ [(Instr.load, [1, 5]), (Instr.apply, [0, 1, 5]), (Instr.stageWarm, [0, 1, 5]), (Instr.znAbort, [0, 1, 2, 5]), (Instr.discard, [0, 1, 3, 4])]) ∧
     ((zn 5 []).znState ∈ (Instr.apply, [0, 1, 5]).2)) :=
  by decide +kernel

/-- States and operands that meet the hypotheses of Obligations.SluicesCloseAndApply, clause by clause (part 1). -/
theorem witness_SluicesCloseAndApply_1 :
    ((planned 3 (setp 5)).stopped = false ∧ (planned 3 (setp 5)).zen.plan = [setp 5] ∧ (planned 3 (setp 5)).stepClose (setp 5) ≠ [] ∧
     (∀ n ∈ (planned 3 (setp 5)).stepClose (setp 5), n < 100) ∧ (∀ x ∈ (planned 3 (setp 5)).passages, x.1 < 32) ∧ (planned 3 (setp 5)).znState = 3 ∧
     (planned 3 (setp 5)).zen.closing = [] ∧ (planned 3 (setp 5)).stepWait (setp 5) = Wait.no) ∧
    ((planned 3 (setp 5) (sPt 2)).stopped = false ∧ (planned 3 (setp 5) (sPt 2)).zen.plan = [setp 5] ∧
     (planned 3 (setp 5) (sPt 2)).stepClose (setp 5) ≠ [] ∧ (∀ n ∈ (planned 3 (setp 5) (sPt 2)).stepClose (setp 5), n < 100) ∧
     (∀ x ∈ (planned 3 (setp 5) (sPt 2)).passages, x.1 < 32) ∧ (planned 3 (setp 5) (sPt 2)).znState = 3 ∧
     (planned 3 (setp 5) (sPt 2)).zen.closing = [] ∧ (planned 3 (setp 5) (sPt 2)).stepWait (setp 5) = Wait.no) ∧
    ((planned 3 (setp 5) sRtPass).stopped = false ∧ (planned 3 (setp 5) sRtPass).zen.plan = [setp 5] ∧
     (planned 3 (setp 5) sRtPass).stepClose (setp 5) ≠ [] ∧ (∀ n ∈ (planned 3 (setp 5) sRtPass).stepClose (setp 5), n < 100) ∧
     (∀ x ∈ (planned 3 (setp 5) sRtPass).passages, x.1 < 32) ∧ (planned 3 (setp 5) sRtPass).znState = 3 ∧
     (planned 3 (setp 5) sRtPass).zen.closing = [] ∧ (planned 3 (setp 5) sRtPass).stepWait (setp 5) = Wait.passage 0 ∧ Wait.passage 0 ≠ Wait.no) ∧
    ((planned 3 fleetStep sRun).stopped = false ∧ (planned 3 fleetStep sRun).zen.plan = [fleetStep] ∧
     (planned 3 fleetStep sRun).stepClose fleetStep ≠ [] ∧ (∀ n ∈ (planned 3 fleetStep sRun).stepClose fleetStep, n < 100) ∧
     (∀ x ∈ (planned 3 fleetStep sRun).passages, x.1 < 32) ∧ (planned 3 fleetStep sRun).znState = 3 ∧ (planned 3 fleetStep sRun).zen.closing = [] ∧
     (planned 3 fleetStep sRun).stepWait fleetStep = Wait.object ∧ Wait.object ≠ Wait.no) ∧
    ((planned 4 (setp 5)).stopped = false ∧ (planned 4 (setp 5)).zen.plan = [setp 5] ∧ (planned 4 (setp 5)).stepClose (setp 5) ≠ [] ∧
     (∀ n ∈ (planned 4 (setp 5)).stepClose (setp 5), n < 100) ∧ (∀ x ∈ (planned 4 (setp 5)).passages, x.1 < 32) ∧ (planned 4 (setp 5)).znState = 4 ∧
     (planned 4 (setp 5)).stepWait (setp 5) = Wait.no) ∧
    ((planned 4 fleetStep sRun).stopped = false ∧ (planned 4 fleetStep sRun).zen.plan = [fleetStep] ∧
     (planned 4 fleetStep sRun).stepClose fleetStep ≠ [] ∧ (∀ n ∈ (planned 4 fleetStep sRun).stepClose fleetStep, n < 100) ∧
     (∀ x ∈ (planned 4 fleetStep sRun).passages, x.1 < 32) ∧ (planned 4 fleetStep sRun).znState = 4 ∧
     (planned 4 fleetStep sRun).stepWait fleetStep ≠ Wait.no) ∧
    ((closing [5] (setp 5)).stopped = false ∧ 5 < 100 ∧ 0 < 256 ∧ 0 < 3 ∧ (closing [5] (setp 5)).zen.closing = [5] ∧
     (closing [5] (setp 5)).closed 5 = false ∧ (closing [5] (setp 5)).zen.plan = [PlanStep.mk 2 [Change.setpoint 5 0 0]] ∧
     (closing [5] (setp 5)).drained [5] 5 = true ∧ (closing [5] (setp 5)).changeWait (Change.setpoint 5 0 0) = Wait.no) :=
  ⟨by decide +kernel,
    by decide +kernel,
    by decide +kernel,
    by decide +kernel,
    by decide +kernel,
    by decide +kernel,
    by decide +kernel⟩

/-- States and operands that meet the hypotheses of Obligations.SluicesCloseAndApply, clause by clause (part 2). -/
theorem witness_SluicesCloseAndApply_2 :
    ((closing [5] (setp 5) sHolds).stopped = false ∧ 5 < 100 ∧ 0 < 256 ∧ 0 < 3 ∧ (closing [5] (setp 5) sHolds).zen.closing = [5] ∧
     (closing [5] (setp 5) sHolds).closed 5 = false ∧ (closing [5] (setp 5) sHolds).zen.plan = [PlanStep.mk 2 [Change.setpoint 5 0 0]] ∧
     (closing [5] (setp 5) sHolds).drained [5] 5 = true ∧ (closing [5] (setp 5) sHolds).changeWait (Change.setpoint 5 0 0) = Wait.passage 0 ∧
     Wait.passage 0 ≠ Wait.no) ∧
    (sBusyDrain.stopped = false ∧ 5 < 100 ∧ 0 < 256 ∧ 0 < 3 ∧ sBusyDrain.zen.closing = [5] ∧ sBusyDrain.closed 5 = false ∧
     sBusyDrain.zen.plan = [PlanStep.mk 2 [Change.setpoint 5 0 0]] ∧ sBusyDrain.drained [5] 5 = false) :=
  ⟨by decide +kernel,
    by decide +kernel⟩

/-- States and operands that meet the hypotheses of Obligations.ReliefMovesTheCore, clause by clause (part 1). -/
theorem witness_ReliefMovesTheCore_1 :
    (s0.stopped = false ∧ s0.slotOf ↑5 = some 5 ∧ s0.rpBusy = false ∧ s0.hasSpare (5 / 9) = true ∧ s0.reliefWaits 5 = false ∧ s0.spares (5 / 9) = [8]) ∧
    ((closing [5] (setp 5) s0).stopped = false ∧ (closing [5] (setp 5) s0).slotOf ↑5 = some 5 ∧ (closing [5] (setp 5) s0).rpBusy = false ∧
     (closing [5] (setp 5) s0).hasSpare (5 / 9) = true ∧ (closing [5] (setp 5) s0).reliefWaits 5 = true) ∧
    ((noSpare s0).stopped = false ∧ (noSpare s0).slotOf ↑5 = some 5 ∧ (noSpare s0).rpBusy = false ∧ (noSpare s0).hasSpare (5 / 9) = false) ∧
    ((busyS 73 false s0).stopped = false ∧ (busyS 73 false s0).slotOf ↑5 = some 5 ∧ (busyS 73 false s0).rpBusy = true) ∧
    (sUnb.stopped = false ∧ sUnb.slotOf ↑5 = none) ∧
    ((sRelf 2 false).stopped = false ∧ (sRelf 2 false).repair.relief = some (rel0 2 false) ∧ (rel0 2 false).pause = false ∧
     (rel0 2 false).dirty.length ≤ (sRelf 2 false).dirtyLimit ∧ (sRelf 2 false).blocker [(rel0 2 false).x] (sRelf 2 false).reliefTime = none) ∧
    ((sRelf 2 false sRtPass).stopped = false ∧ (sRelf 2 false sRtPass).repair.relief = some (rel0 2 false) ∧ (rel0 2 false).pause = false ∧
     (rel0 2 false).dirty.length ≤ (sRelf 2 false sRtPass).dirtyLimit ∧
     (sRelf 2 false sRtPass).blocker [(rel0 2 false).x] (sRelf 2 false sRtPass).reliefTime = some 0) :=
  ⟨by decide +kernel,
    by decide +kernel,
    by decide +kernel,
    by decide +kernel,
    by decide +kernel,
    by decide +kernel,
    by decide +kernel⟩

/-- States and operands that meet the hypotheses of Obligations.ReliefMovesTheCore, clause by clause (part 2). -/
theorem witness_ReliefMovesTheCore_2 :
    ((lowLimit 1 4 (sRelf 2 false)).stopped = false ∧ (lowLimit 1 4 (sRelf 2 false)).repair.relief = some (rel0 2 false) ∧
     (rel0 2 false).pause = false ∧ (lowLimit 1 4 (sRelf 2 false)).dirtyLimit < (rel0 2 false).dirty.length ∧
     (rel0 2 false).passes + 1 < (lowLimit 1 4 (sRelf 2 false)).passLimit) ∧
    ((lowLimit 1 2 (sRelf 2 false)).stopped = false ∧ (lowLimit 1 2 (sRelf 2 false)).repair.relief = some (rel0 2 false) ∧
     (rel0 2 false).pause = false ∧ (lowLimit 1 2 (sRelf 2 false)).dirtyLimit < (rel0 2 false).dirty.length ∧
     (lowLimit 1 2 (sRelf 2 false)).passLimit ≤ (rel0 2 false).passes + 1) ∧
    (sRelHalt.stopped = false ∧ sRelHalt.repair.relief = some (rel0 2 true) ∧ (rel0 2 true).pause = true ∧
     (sRelHalt.slot (rel0 2 true).x).halt = HaltPhase.halted ∧ (rel0 2 true).lid < 64 ∧ (rel0 2 true).y / 9 = (rel0 2 true).lid / 8 ∧
     (rel0 2 true).x < 72 ∧ (rel0 2 true).x ≠ (rel0 2 true).y ∧ swf resetWord sRelHalt.drs = true) ∧
    ((sRelf 2 false).stopped = false ∧ (sRelf 2 false).repair.relief = some (rel0 2 false) ∧
     ((rel0 2 false).pause = false ∨ ((sRelf 2 false).slot (rel0 2 false).x).halt ≠ HaltPhase.halted)) :=
  ⟨by decide +kernel,
    by decide +kernel,
    by decide +kernel,
    by decide +kernel⟩

/-- States and operands that meet the hypotheses of Obligations.SoundingsMade, clause by clause (part 1). -/
theorem witness_SoundingsMade_1 :
    (s0.stopped = false ∧ (∀ x ∈ s0.passages, x.1 < 32) ∧ s0.rpBusy = false ∧ s0.soundable ↑8 = true ∧ s0.soundWaits ↑8 = false) ∧
    (s0.stopped = false ∧ (∀ x ∈ s0.passages, x.1 < 32) ∧ s0.rpBusy = false ∧ s0.soundable ↑72 = true ∧ s0.soundWaits ↑72 = false) ∧
    ((closing [8] (setp 8) s0).stopped = false ∧ (∀ x ∈ (closing [8] (setp 8) s0).passages, x.1 < 32) ∧ (closing [8] (setp 8) s0).rpBusy = false ∧
     (closing [8] (setp 8) s0).soundable ↑8 = true ∧ (closing [8] (setp 8) s0).soundWaits ↑8 = true) ∧
    (s0.stopped = false ∧ (∀ x ∈ s0.passages, x.1 < 32) ∧ (s0.rpBusy = true ∨ s0.soundable ↑5 = false)) ∧
    (s0.stopped = false ∧ (∀ x ∈ s0.passages, x.1 < 32) ∧ s0.periodH ≠ 0 ∧ s0.hasSpare ↑0 = true ∧ tget (0, 9) s0.repair.turn ↑0 = (0, 9) ∧
     (List.find? (fun k => (s0.coreOf k).isNone && !s0.isRetired k && !s0.closed k) (List.range' (9 * ↑0) 9) = some 8) ∧ s0.soundable 8 = true ∧
     s0.soundWaits 8 = false) ∧
    ((closing [8] (setp 8) s0).stopped = false ∧ (∀ x ∈ (closing [8] (setp 8) s0).passages, x.1 < 32) ∧ (closing [8] (setp 8) s0).periodH ≠ 0 ∧
     (closing [8] (setp 8) s0).hasSpare ↑0 = true ∧ tget (0, 9) (closing [8] (setp 8) s0).repair.turn ↑0 = (0, 9) ∧
     (List.find? (fun k => ((closing [8] (setp 8) s0).coreOf k).isNone && !(closing [8] (setp 8) s0).isRetired k && !(closing [8] (setp 8) s0).closed k) (List.range' (9 * ↑0) 9) = some 8) ∧
     (closing [8] (setp 8) s0).soundable 8 = true ∧ (closing [8] (setp 8) s0).soundWaits 8 = true) ∧
    (sPeriod0.stopped = false ∧ (∀ x ∈ sPeriod0.passages, x.1 < 32) ∧ sPeriod0.periodH = 0) :=
  ⟨by decide +kernel,
    by decide +kernel,
    by decide +kernel,
    by decide +kernel,
    by decide +kernel,
    by decide +kernel,
    by decide +kernel⟩

/-- States and operands that meet the hypotheses of Obligations.SoundingsMade, clause by clause (part 2). -/
theorem witness_SoundingsMade_2 :
    ((wait5 s0).stopped = false ∧ (∀ x ∈ (wait5 s0).passages, x.1 < 32) ∧ (wait5 s0).repair.waiting[0]? = some (Waiting.mk false 8 0 false) ∧
     (wait5 s0).soundable 8 = true ∧ (wait5 s0).soundWaits 8 = false) ∧
    (sRelfW.stopped = false ∧ (∀ x ∈ sRelfW.passages, x.1 < 32) ∧ sRelfW.repair.waiting[0]? = some (Waiting.mk true 5 0 false) ∧
     sRelfW.reliefOf 5 = some (rel0 2 false) ∧ (rel0 2 false).dirty.length ≤ sRelfW.dirtyLimit ∧
     sRelfW.blocker [(rel0 2 false).x] sRelfW.reliefTime = none) ∧
    ((busyS 5 true (sQuar 5)).stopped = false ∧
     (List.find? (fun x => x.polder == ↑5) (busyS 5 true (sQuar 5)).repair.soundings = some (Sounding.mk 5 3 true)) ∧
     (Sounding.mk 5 3 true).unq = true ∧ (busyS 5 true (sQuar 5)).fld (Reg.DK_P ↑5) F.DK_P_STATE = 4) ∧
    ((busyS 72 true (sQuar 72)).stopped = false ∧
     (List.find? (fun x => x.polder == ↑72) (busyS 72 true (sQuar 72)).repair.soundings = some (Sounding.mk 72 3 true)) ∧
     (Sounding.mk 72 3 true).unq = true ∧ (busyS 72 true (sQuar 72)).fld (Reg.DK_P ↑72) F.DK_P_STATE = 4) ∧
    (s0.stopped = false ∧ (List.find? (fun x => x.polder == ↑5) s0.repair.soundings = none)) ∧
    ((sQuar 5).stopped = false ∧ (sQuar 5).rpBusy = false ∧ (sQuar 5).present ↑5 = true ∧ (sQuar 5).fld (Reg.DK_P ↑5) F.DK_P_STATE = 4) ∧
    (s0.stopped = false ∧ (s0.rpBusy = true ∨ s0.present ↑5 = false ∨ s0.fld (Reg.DK_P ↑5) F.DK_P_STATE ≠ 4)) :=
  ⟨by decide +kernel,
    by decide +kernel,
    by decide +kernel,
    by decide +kernel,
    by decide +kernel,
    by decide +kernel,
    by decide +kernel⟩

/-- States and operands that meet the hypotheses of Obligations.SoundingsMade, clause by clause (part 3). -/
theorem witness_SoundingsMade_3 :
    ((busyS 8 false s0).stopped = false ∧ (List.find? (fun x => x.polder == ↑8) (busyS 8 false s0).repair.soundings = some (Sounding.mk 8 3 false)) ∧
     (Sounding.mk 8 3 false).unq = false ∧ (soundCloses ↑8 = true → (busyS 8 false s0).drained [↑8] ↑8 = true)) ∧
    ((busyS 72 false s0).stopped = false ∧
     (List.find? (fun x => x.polder == ↑72) (busyS 72 false s0).repair.soundings = some (Sounding.mk 72 3 false)) ∧
     (Sounding.mk 72 3 false).unq = false ∧ (soundCloses ↑72 = true → (busyS 72 false s0).drained [↑72] ↑72 = true)) :=
  ⟨by decide +kernel,
    by decide +kernel⟩

/-- States and operands that meet the hypotheses of Obligations.SemaphoresServed, clause by clause. -/
theorem witness_SemaphoresServed :
    ((sSem 0 0 1).stopped = false ∧ 0 = (sSem 0 0 1).semValue ↑7 ∧ 5 < 99 ∧ (sSem 0 0 1).present 5 = true ∧
     ((Instr.down 0 5 7, 9, 0, 1, 0, 0) ∈ [(Instr.down 0 5 7, if (sSem 0 0 1).semAbandoned ↑7 = true then 7 else if 0 = 0 then 9 else 0, if (sSem 0 0 1).semAbandoned ↑7 = true then (0, 1, 5, 0) else if 0 = 0 then (0, b01 ((sSem 0 0 1).semOwned ↑7), (sSem 0 0 1).fld (Reg.SEM_V ↑7) F.SEM_V_OWNER, 0) else if 0 = 1 then (0, 1, 5, 0) else (0, b01 ((sSem 0 0 1).semOwned ↑7), (sSem 0 0 1).fld (Reg.SEM_V ↑7) F.SEM_V_OWNER, 0 - 1)), (Instr.up 0 5 7, if (sSem 0 0 1).semAbandoned ↑7 = true then 9 else if 0 = 2 ^ 32 - 1 then 6 else 0, if (sSem 0 0 1).semAbandoned ↑7 = true then (1, b01 ((sSem 0 0 1).semOwned ↑7), (sSem 0 0 1).fld (Reg.SEM_V ↑7) F.SEM_V_OWNER, 0) else if 0 = 2 ^ 32 - 1 then (0, b01 ((sSem 0 0 1).semOwned ↑7), (sSem 0 0 1).fld (Reg.SEM_V ↑7) F.SEM_V_OWNER, 0) else (0, 0, 0, 0 + 1)), (Instr.init 0 7 (3 % 2 ^ 32), 0, 0, 0, 0, 3 % 2 ^ 32)])) ∧
    ((sSem 1 0 0).stopped = false ∧ 1 = (sSem 1 0 0).semValue ↑7 ∧ 5 < 99 ∧ (sSem 1 0 0).present 5 = true ∧
     ((Instr.down 0 5 7, 0, 0, 1, 5, 0) ∈ [(Instr.down 0 5 7, if (sSem 1 0 0).semAbandoned ↑7 = true then 7 else if 1 = 0 then 9 else 0, if (sSem 1 0 0).semAbandoned ↑7 = true then (0, 1, 5, 1) else if 1 = 0 then (0, b01 ((sSem 1 0 0).semOwned ↑7), (sSem 1 0 0).fld (Reg.SEM_V ↑7) F.SEM_V_OWNER, 0) else if 1 = 1 then (0, 1, 5, 0) else (0, b01 ((sSem 1 0 0).semOwned ↑7), (sSem 1 0 0).fld (Reg.SEM_V ↑7) F.SEM_V_OWNER, 1 - 1)), (Instr.up 0 5 7, if (sSem 1 0 0).semAbandoned ↑7 = true then 9 else if 1 = 2 ^ 32 - 1 then 6 else 0, if (sSem 1 0 0).semAbandoned ↑7 = true then (1, b01 ((sSem 1 0 0).semOwned ↑7), (sSem 1 0 0).fld (Reg.SEM_V ↑7) F.SEM_V_OWNER, 1) else if 1 = 2 ^ 32 - 1 then (0, b01 ((sSem 1 0 0).semOwned ↑7), (sSem 1 0 0).fld (Reg.SEM_V ↑7) F.SEM_V_OWNER, 1) else (0, 0, 0, 1 + 1)), (Instr.init 0 7 (3 % 2 ^ 32), 0, 0, 0, 0, 3 % 2 ^ 32)])) ∧
    ((sSem 2 1 1).stopped = false ∧ 2 = (sSem 2 1 1).semValue ↑7 ∧ (99 = 99 ∨ (sSem 2 1 1).present 99 = false) ∧
     (Instr.down 0 99 7 ∈ [Instr.down 0 99 7, Instr.up 0 99 7])) ∧
    ((sSem 2 1 1).stopped = false ∧ 2 = (sSem 2 1 1).semValue ↑7 ∧ (99 = 99 ∨ (sSem 2 1 1).present 99 = false) ∧
     (Instr.up 0 99 7 ∈ [Instr.down 0 99 7, Instr.up 0 99 7])) :=
  ⟨by decide +kernel,
    by decide +kernel,
    by decide +kernel,
    by decide +kernel⟩

/-- States and operands that meet the hypotheses of Obligations.HostReachesTheBlock, clause by clause (part 1). -/
theorem witness_HostReachesTheBlock_1 :
    ((ha sRun).stopped = false ∧ (ha sRun).haReady = true ∧ (ha sRun).haOut = [] ∧ drsShape (Reg.KL_STAT 5) 8 = true ∧
     (true = true ∨ (ha sRun).drsRight 0 (Reg.KL_STAT 5) true 8 = true) ∧ (ha sRun).drsReach (some Endpoint.attach) (Reg.KL_STAT 5) = Reach.ok) ∧
    ((ha sRun).stopped = false ∧ (ha sRun).haReady = true ∧ (ha sRun).haOut = [] ∧ drsShape (Reg.KL_STAT 5) 4 = true ∧
     (true = true ∨ (ha sRun).drsRight 0 (Reg.KL_STAT 5) true 4 = true) ∧ (ha sRun).drsReach (some Endpoint.attach) (Reg.KL_STAT 5) = Reach.ok) ∧
    (sHclosed.stopped = false ∧ sHclosed.haReady = true ∧ sHclosed.haOut = [] ∧ drsShape (Reg.KL_STAT 5) 8 = true ∧
     (true = true ∨ sHclosed.drsRight 0 (Reg.KL_STAT 5) true 8 = true) ∧ sHclosed.drsReach (some Endpoint.attach) (Reg.KL_STAT 5) = Reach.closed) ∧
    ((ha sSluice).stopped = false ∧ (ha sSluice).haReady = true ∧ (ha sSluice).haOut = [] ∧ drsShape (Reg.KL_STAT 5) 8 = true ∧
     (true = true ∨ (ha sSluice).drsRight 0 (Reg.KL_STAT 5) true 8 = true) ∧ (ha sSluice).drsReach (some Endpoint.attach) (Reg.KL_STAT 5) = Reach.wait) ∧
    ((ha sSluice).stopped = false ∧ (ha sSluice).haReady = true ∧ drsShape (Reg.KL_STAT 5) [1, 2, 3, 4, 5, 6, 7, 8].length = true ∧
     (true = true ∨ (ha sSluice).drsRight 0 (Reg.KL_STAT 5) false [1, 2, 3, 4, 5, 6, 7, 8].length = true) ∧
     (ha sSluice).drsReach (some Endpoint.attach) (Reg.KL_STAT 5) ≠ Reach.closed) ∧
    ((ha sRun).stopped = false ∧ (ha sRun).haReady = true ∧ drsShape Reg.HC_ENTRY [1, 2, 3, 4, 5, 6, 7, 8].length = true ∧
     (true = true ∨ (ha sRun).drsRight 0 Reg.HC_ENTRY false [1, 2, 3, 4, 5, 6, 7, 8].length = true) ∧
     (ha sRun).drsReach (some Endpoint.attach) Reg.HC_ENTRY ≠ Reach.closed) ∧
    ((ha sRun).stopped = false ∧ (ha sRun).haReady = true ∧ (ha sRun).haOut = [] ∧ drsShape (Reg.KL_STAT 5) 8 = true ∧
     (ha sRun).drsRight 0 (Reg.KL_STAT 5) true 8 = false) :=
  ⟨by decide +kernel,
    by decide +kernel,
    by decide +kernel,
    by decide +kernel,
    by decide +kernel,
    by decide +kernel,
    by decide +kernel⟩

/-- States and operands that meet the hypotheses of Obligations.HostReachesTheBlock, clause by clause (part 2). -/
theorem witness_HostReachesTheBlock_2 :
    ((ha sRun).stopped = false ∧ (ha sRun).haReady = true ∧ (ha sRun).haOut = [] ∧ drsShape 6 8 = false) ∧
    ((ha sRun).stopped = false ∧ (ha sRun).haReady = true ∧
     (drsShape 6 [1, 2, 3, 4, 5, 6, 7, 8].length = false ∨ true = false ∧ (ha sRun).drsRight 0 6 false [1, 2, 3, 4, 5, 6, 7, 8].length = false ∨ (ha sRun).drsReach (some Endpoint.attach) 6 = Reach.closed) ∧
     (ha sRun).fld Reg.HA_ERR F.HA_ERR_DENIED < 65535) ∧
    (sHclosed.stopped = false ∧ sHclosed.haReady = true ∧
     (drsShape (Reg.KL_CTL 5) [1, 2, 3, 4, 5, 6, 7, 8].length = false ∨ true = false ∧ sHclosed.drsRight 0 (Reg.KL_CTL 5) false [1, 2, 3, 4, 5, 6, 7, 8].length = false ∨ sHclosed.drsReach (some Endpoint.attach) (Reg.KL_CTL 5) = Reach.closed) ∧
     sHclosed.fld Reg.HA_ERR F.HA_ERR_DENIED < 65535) ∧
    (sHaEmG.stopped = false ∧ sHaEmG.haReady = true ∧ sHaEmG.asks = [] ∧ sHaEmG.haOut = [] ∧ emShape 64 16 = true ∧
     sHaEmG.emLoadBy Endpoint.attach (clsPrio 0) 64 16 = (0, sHaEm.emBytes 0 64 16, (sHaEmG.emLoad (clsPrio 0) 64 16).2.2) ∧
     (sHaEmG.emLoad (clsPrio 0) 64 16).2.2.asks = [] ∧ (sHaEmG.emLoad (clsPrio 0) 64 16).2.2.haReady = true ∧
     (sHaEmG.emLoad (clsPrio 0) 64 16).2.2.haOut = []) ∧
    (sHaEm.stopped = false ∧ sHaEm.haReady = true ∧ sHaEm.asks = [] ∧ sHaEm.haOut = [] ∧ emShape 64 16 = true ∧ sHaEm.haRight 0 F.HA_RIGHTS_EM = false) ∧
    ((haWith F.HA_RIGHTS_EM ha).stopped = false ∧ (haWith F.HA_RIGHTS_EM ha).haReady = true ∧ (haWith F.HA_RIGHTS_EM ha).asks = [] ∧
     (haWith F.HA_RIGHTS_EM ha).haOut = [] ∧ emShape 64 16 = true ∧ (haWith F.HA_RIGHTS_EM ha).haRight 0 F.HA_RIGHTS_EM = true ∧
     (haWith F.HA_RIGHTS_EM ha).walkerFull 0 = false ∧
     (haWith F.HA_RIGHTS_EM ha).haXlate 0 false (piecesOf 64 16) = (((haWith F.HA_RIGHTS_EM ha).haXlate 0 false (piecesOf 64 16)).1, ((haWith F.HA_RIGHTS_EM ha).haXlate 0 false (piecesOf 64 16)).2.1, ((haWith F.HA_RIGHTS_EM ha).haXlate 0 false (piecesOf 64 16)).2.2) ∧
     ((haWith F.HA_RIGHTS_EM ha).haXlate 0 false (piecesOf 64 16)).1 ≠ 0 ∧
     ((haWith F.HA_RIGHTS_EM ha).haXlate 0 false (piecesOf 64 16)).2.2.asks = [] ∧
     ((haWith F.HA_RIGHTS_EM ha).haXlate 0 false (piecesOf 64 16)).2.2.haReady = true ∧
     ((haWith F.HA_RIGHTS_EM ha).haXlate 0 false (piecesOf 64 16)).2.2.haOut = []) ∧
    (sHaFleetG.stopped = false ∧ sHaFleetG.haReady = true ∧ sHaFleetG.asks = [] ∧ sHaFleetG.haOut = [] ∧ emShape 64 16 = true ∧
     sHaFleetG.haRight 0 F.HA_RIGHTS_EM = true ∧ sHaFleetG.walkerFull 0 = false ∧
     (sHaFleetG.haXlate 0 false (piecesOf 64 16) = (0, [(Target.em 64, 16, (List.map (fun x => x.2.2) (sHaFleetG.haXlate 0 false (piecesOf 64 16)).2.1).headD XlUse.none)], (sHaFleetG.haXlate 0 false (piecesOf 64 16)).2.2)) ∧
     (sHaFleetG.haXlate 0 false (piecesOf 64 16)).2.2.emLoadBy Endpoint.attach (clsPrio 0) 64 16 = (0, sHaEm.emBytes 0 64 16, ((sHaFleetG.haXlate 0 false (piecesOf 64 16)).2.2.emLoad (clsPrio 0) 64 16).2.2) ∧
     ((sHaFleetG.haXlate 0 false (piecesOf 64 16)).2.2.emLoad (clsPrio 0) 64 16).2.2.asks = [] ∧
     ((sHaFleetG.haXlate 0 false (piecesOf 64 16)).2.2.emLoad (clsPrio 0) 64 16).2.2.haReady = true ∧
     ((sHaFleetG.haXlate 0 false (piecesOf 64 16)).2.2.emLoad (clsPrio 0) 64 16).2.2.haOut = []) :=
  ⟨by decide +kernel,
    by decide +kernel,
    by decide +kernel,
    by decide +kernel,
    by decide +kernel,
    by decide +kernel,
    by decide +kernel⟩

/-- States and operands that meet the hypotheses of Obligations.HostReachesTheBlock, clause by clause (part 3). -/
theorem witness_HostReachesTheBlock_3 :
    (sHaEm.stopped = false ∧ sHaEm.haReady = true ∧ sHaEm.asks = [] ∧ sHaEm.haOut = [] ∧ emShape 64 0 = false) ∧
    (sHaEmG.stopped = false ∧ sHaEmG.haReady = true ∧ sHaEmG.asks = [] ∧ emShape 64 [1, 2, 3].length = true ∧
     sHaEmG.place 64 = some (Place.mk 0 64 0 0) ∧ 64 % 256 + [1, 2, 3].length ≤ 256 ∧ (Place.mk 0 64 0 0).loc % 256 = 64 % 256 ∧
     sHaEmG.emWay Endpoint.attach 64 [1, 2, 3].length = Reach.ok ∧ sHaEmG.behind (Endpoint.port (Place.mk 0 64 0 0).stack) = false ∧
     sHaEmG.mpLost (Place.mk 0 64 0 0).stack = false ∧ sHaEmG.protectedAt (Place.mk 0 64 0 0).loc = none ∧
     sHaEmG.blockRead (clsPrio 0) (Place.mk 0 64 0 0).stack ((Place.mk 0 64 0 0).loc / 256) = (0, List.replicate 256 0, (sHaEmG.blockRead (clsPrio 0) 0 0).2.2) ∧
     (List.replicate 256 0).length = 256 ∧ ([1, 2, 3].length = 256 ∨ (sHaEmG.blockRead (clsPrio 0) 0 0).2.2.asks = [])) ∧
    (sHaFleetG.stopped = false ∧ sHaFleetG.haReady = true ∧ sHaFleetG.asks = [] ∧ emShape 64 [1, 2, 3].length = true ∧
     sHaFleetG.haRight 0 F.HA_RIGHTS_EM = true ∧ sHaFleetG.walkerFull 0 = false ∧
     (sHaFleetG.haXlate 0 true (piecesOf 64 [1, 2, 3].length) = (0, [(Target.em 64, [1, 2, 3].length, (List.map (fun x => x.2.2) (sHaFleetG.haXlate 0 true (piecesOf 64 3)).2.1).headD XlUse.none)], (sHaFleetG.haXlate 0 true (piecesOf 64 3)).2.2)) ∧
     (sHaFleetG.haXlate 0 true (piecesOf 64 3)).2.2.emStoreBy Endpoint.attach (clsPrio 0) 64 [1, 2, 3] = (0, ((sHaFleetG.haXlate 0 true (piecesOf 64 3)).2.2.emStore (clsPrio 0) 64 [1, 2, 3]).2) ∧
     ((sHaFleetG.haXlate 0 true (piecesOf 64 3)).2.2.emStore (clsPrio 0) 64 [1, 2, 3]).2.asks = []) ∧
    (sHaFleet.stopped = false ∧ sHaFleet.haReady = true ∧ sHaFleet.asks = [] ∧
     (emShape (2 ^ 48) [1].length = false ∨ true = false ∧ sHaFleet.haRight 0 F.HA_RIGHTS_EM = false) ∧
     sHaFleet.fld Reg.HA_ERR F.HA_ERR_DENIED < 65535) ∧
    (sHaEm.stopped = false ∧ sHaEm.haReady = true ∧ sHaEm.asks = [] ∧
     (emShape 64 [1].length = false ∨ false = false ∧ sHaEm.haRight 0 F.HA_RIGHTS_EM = false) ∧ sHaEm.fld Reg.HA_ERR F.HA_ERR_DENIED < 65535) ∧
    (sHaEm.stopped = false ∧ sHaEm.haReady = true ∧ sHaEm.asks = [] ∧ sHaEm.haOut = [] ∧ emShape 64 16 = true ∧
     sHaEm.emLoadBy Endpoint.attach (clsPrio 0) 64 16 = (0, (sHaEm.emLoad (clsPrio 0) 64 16).2.1, (sHaEm.emLoad (clsPrio 0) 64 16).2.2) ∧
     (sHaEm.emLoad (clsPrio 0) 64 16).2.2.asks ≠ []) ∧
    (sHaEm.stopped = false ∧ sHaEm.haReady = true ∧ sHaEm.asks = [] ∧ emShape 64 [1, 2, 3].length = true ∧ sHaEm.place 64 = some (Place.mk 0 64 0 0) ∧
     64 % 256 + [1, 2, 3].length ≤ 256 ∧ (Place.mk 0 64 0 0).loc % 256 = 64 % 256 ∧ sHaEm.emWay Endpoint.attach 64 [1, 2, 3].length = Reach.ok ∧
     sHaEm.behind (Endpoint.port (Place.mk 0 64 0 0).stack) = false ∧ sHaEm.mpLost (Place.mk 0 64 0 0).stack = false ∧
     sHaEm.protectedAt (Place.mk 0 64 0 0).loc = none ∧
     sHaEm.blockRead (clsPrio 0) (Place.mk 0 64 0 0).stack ((Place.mk 0 64 0 0).loc / 256) = (0, (sHaEm.blockRead (clsPrio 0) 0 0).2.1, (sHaEm.blockRead (clsPrio 0) 0 0).2.2) ∧
     (sHaEm.blockRead (clsPrio 0) 0 0).2.1.length = 256 ∧ [1, 2, 3].length < 256 ∧ (sHaEm.blockRead (clsPrio 0) 0 0).2.2.asks ≠ []) :=
  ⟨by decide +kernel,
    by decide +kernel,
    by decide +kernel,
    by decide +kernel,
    by decide +kernel,
    by decide +kernel,
    by decide +kernel⟩

/-- States and operands that meet the hypotheses of Obligations.HostPortServed, clause by clause (part 1). -/
theorem witness_HostPortServed_1 :
    (sHput.stopped = false ∧ sHput.haReady = true ∧ sHput.slotOf 5 = some 5 ∧ sHput.closed 5 = false ∧ [1, 2, 3] ≠ [] ∧ [1, 2, 3].length ≤ 4096 ∧
     64 + [1, 2, 3].length ≤ 8388608 ∧ (∀ (x : ℕ), some 3 = some x → x < 16) ∧
     (true = true ∨ sHput.haRight 0 F.HA_RIGHTS_HPUT = true ∧ sHput.fleetOf 5 = some 0) ∧
     sHput.held (Packet.mk Plane.data Endpoint.attach (Endpoint.core 5) (Payload.deliver sHput.nextPut 64 [1, 2, 3] (some 3))) = false ∧
     (∀ p ∈ sHput.net, ¬(p.plane = Plane.data ∧ p.src = Endpoint.attach ∧ p.dst = Endpoint.core 5))) ∧
    (sHput.stopped = false ∧ sHput.haReady = true ∧ sHput.slotOf 5 = some 5 ∧ sHput.closed 5 = false ∧ [1, 2, 3] ≠ [] ∧ [1, 2, 3].length ≤ 4096 ∧
     64 + [1, 2, 3].length ≤ 8388608 ∧ (∀ (x : ℕ), none = some x → x < 16) ∧
     (false = true ∨ sHput.haRight 0 F.HA_RIGHTS_HPUT = true ∧ sHput.fleetOf 5 = some 0) ∧
     sHput.held (Packet.mk Plane.data Endpoint.attach (Endpoint.core 5) (Payload.deliver sHput.nextPut 64 [1, 2, 3] none)) = false ∧
     (∀ p ∈ sHput.net, ¬(p.plane = Plane.data ∧ p.src = Endpoint.attach ∧ p.dst = Endpoint.core 5))) ∧
    (sHput.stopped = false ∧ sHput.haReady = true ∧ (sHput.haRight 1 F.HA_RIGHTS_HPUT = false ∨ sHput.fleetOf 5 ≠ some 1) ∧
     sHput.fld Reg.HA_ERR F.HA_ERR_DENIED < 65535) ∧
    (sHput.stopped = false ∧ sHput.haReady = true ∧ sHput.haOut = [] ∧ sHput.puts = []) ∧
    (sPuts.stopped = false ∧ sPuts.haReady = true ∧ sPuts.puts ≠ []) ∧
    (sPutsF.stopped = false ∧ sPutsF.haReady = true ∧
     sPutsF.arrival 0 = some (Packet.mk Plane.reply (Endpoint.core 5) Endpoint.attach (Payload.deliverAck 4 0 3)) ∧ sPutsF.haOut = [] ∧
     sPutsF.puts = [4] ∧ sPutsF.nprIn = [NprIn.mk 7 3 [(4, 0, 0)] [] 0]) ∧
    ((backOf (hm0 false) [1, 2, 3, 4] = fun st => if (hm0 false).write = true then Packet.mk Plane.reply Endpoint.attach (Endpoint.core (hm0 false).core) (Payload.xferAck (hm0 false).xid st) else Packet.mk Plane.data Endpoint.attach (Endpoint.core (hm0 false).core) (Payload.xferData (hm0 false).xid st (if st = 0 then List.take (hm0 false).want (List.drop (hm0 false).lo [1, 2, 3, 4]) else []))) ∧
     (sHm false).stopped = false ∧ (List.find? (fun x => x.sent && x.tag == 9) (sHm false).hm = some (hm0 false)) ∧ (sHm false).haReady = true ∧
     ((hm0 false).fill = none ∨ 0 ≠ 0)) :=
  ⟨by decide +kernel,
    by decide +kernel,
    by decide +kernel,
    by decide +kernel,
    by decide +kernel,
    by decide +kernel,
    ⟨rfl, by decide +kernel⟩⟩

/-- States and operands that meet the hypotheses of Obligations.HostPortServed, clause by clause (part 2). -/
theorem witness_HostPortServed_2 :
    ((backOf (hm0 true) [] = fun st => if (hm0 true).write = true then Packet.mk Plane.reply Endpoint.attach (Endpoint.core (hm0 true).core) (Payload.xferAck (hm0 true).xid st) else Packet.mk Plane.data Endpoint.attach (Endpoint.core (hm0 true).core) (Payload.xferData (hm0 true).xid st (if st = 0 then List.take (hm0 true).want (List.drop (hm0 true).lo []) else []))) ∧
     (sHm true).stopped = false ∧ (List.find? (fun x => x.sent && x.tag == 9) (sHm true).hm = some (hm0 true)) ∧ (sHm true).haReady = true ∧
     ((hm0 true).fill = none ∨ 4 ≠ 0)) ∧
    ((backOf (hm0 false) [1, 2, 3, 4] = fun st => if (hm0 false).write = true then Packet.mk Plane.reply Endpoint.attach (Endpoint.core (hm0 false).core) (Payload.xferAck (hm0 false).xid st) else Packet.mk Plane.data Endpoint.attach (Endpoint.core (hm0 false).core) (Payload.xferData (hm0 false).xid st (if st = 0 then List.take (hm0 false).want (List.drop (hm0 false).lo [1, 2, 3, 4]) else []))) ∧
     (sHm false).stopped = false ∧ (List.find? (fun x => x.sent && x.tag == 9) (sHm false).hm = some (hm0 false)) ∧
     (sHm false).fld Reg.HA_ERR F.HA_ERR_TIMEOUT < 65535) ∧
    ((backOf hmFill (List.replicate 256 1) = fun st => if hmFill.write = true then Packet.mk Plane.reply Endpoint.attach (Endpoint.core hmFill.core) (Payload.xferAck hmFill.xid st) else Packet.mk Plane.data Endpoint.attach (Endpoint.core hmFill.core) (Payload.xferData hmFill.xid st (if st = 0 then List.take hmFill.want (List.drop hmFill.lo (List.replicate 256 1)) else []))) ∧
     sHmFill.stopped = false ∧ (List.find? (fun x => x.sent && x.tag == 9) sHmFill.hm = some hmFill) ∧ sHmFill.haReady = true ∧
     hmFill.fill = some (0, 0, 4096)) ∧
    ((sHm true).stopped = false ∧ (List.find? (fun x => x.sent && x.tag == 8) (sHm true).hm = none)) ∧
    ((sHm true).stopped = false ∧ (List.find? (fun x => x.sent && x.tag == 8) (sHm true).hm = none) ∧ (sHm true).haReady = true ∧
     (sHm true).fld Reg.HA_ERR F.HA_ERR_LATE < 65535) ∧
    (ha.stopped = false ∧ ha.haReady = true ∧ ha.haOut = []) ∧
    (sHaOut.stopped = false ∧ sHaOut.haReady = true ∧ sHaOut.haOut = [alertPkt 8] ∧ (alertPkt 8).op = 19 ∧ (alertPkt 8).beats ≤ sHaOut.haCredits.1 + 3) :=
  ⟨⟨rfl, by decide +kernel⟩,
    ⟨rfl, by decide +kernel⟩,
    ⟨rfl, by decide +kernel⟩,
    by decide +kernel,
    by decide +kernel,
    by decide +kernel,
    by decide +kernel⟩

/-- States and operands that meet the hypotheses of Obligations.HostPortServed, clause by clause (part 3). -/
theorem witness_HostPortServed_3 :
    (ha.stopped = false ∧ ha.haReady = true ∧ (2 ∉ chanOps 1) ∧ ha.haOut = []) ∧
    (ha.stopped = false ∧ ha.haReady = true ∧ (3 ∉ chanOps 0) ∧ 0 ≠ 1 ∧ ha.fld Reg.HA_ERR F.HA_ERR_DENIED < 65535) ∧
    (ha.stopped = false ∧ ha.haReady = true ∧ ha.haOut = [] ∧ bit (ha.fld Reg.AL_ROUTE F.AL_ROUTE_HA) 11 = false ∧
     ha.fld Reg.HA_ERR F.HA_ERR_PARITY < 65535) :=
  ⟨by decide +kernel,
    by decide +kernel,
    by decide +kernel⟩

/-- States and operands that meet the hypotheses of Obligations.HostCoresServed, clause by clause (part 1). -/
theorem witness_HostCoresServed_1 :
    (sHcsBusy.stopped = false ∧ sHcsBusy.hcsFree ↑1 = false) ∧
    (s0.stopped = false ∧ s0.hcsFree ↑1 = true ∧ opcode (s0.hcsWord 1) ≠ 160 ∧ opcode (s0.hcsWord 1) ≠ 161) ∧
    ((hcs (wSend 2 0)).stopped = false ∧ wSend 2 0 = (hcs (wSend 2 0)).hcsWord ↑1 ∧ (hcs (wSend 2 0)).hcsFree ↑1 = true ∧
     (opcode (wSend 2 0) = 160 ∨ opcode (wSend 2 0) = 161) ∧ (hcs (wSend 2 0)).msgCheck (Sender.host ↑1) (wSend 2 0) = none ∧
     (hcs (wSend 2 0)).sendBuf (Sender.host ↑1) = [] ∧
     (opcode (wSend 2 0) = 160 → (hcs (wSend 2 0)).stalled (hartPolder ↑1) = false ∧ (cb (wSend 2 0) 107 = true → (hcs (wSend 2 0)).canReserve ((Sender.host ↑1).replyHome (cf (wSend 2 0) 106 103)) = true)) ∧
     ((hcs (wSend 2 0)).msgOf (Sender.host 1) (wSend 2 0) (List.map (fun i => (hcs (wSend 2 0)).rd (Reg.HCS_PAY0 1 + 8 * i)) (List.range (msgPw (wSend 2 0)))) (hcs (wSend 2 0)).nextEntry = (hcs (wSend 2 0)).msgOf (Sender.host ↑1) (wSend 2 0) (List.map (fun i => (hcs (wSend 2 0)).rd (Reg.HCS_PAY0 ↑1 + 8 * i)) (List.range (msgPw (wSend 2 0)))) (if opcode (wSend 2 0) = 161 then 0 else (hcs (wSend 2 0)).nextEntry))) ∧
    ((hcs wReply).stopped = false ∧ wReply = (hcs wReply).hcsWord ↑1 ∧ (hcs wReply).hcsFree ↑1 = true ∧ (opcode wReply = 160 ∨ opcode wReply = 161) ∧
     (hcs wReply).msgCheck (Sender.host ↑1) wReply = none ∧ (hcs wReply).sendBuf (Sender.host ↑1) = [] ∧
     (opcode wReply = 160 → (hcs wReply).stalled (hartPolder ↑1) = false ∧ (cb wReply 107 = true → (hcs wReply).canReserve ((Sender.host ↑1).replyHome (cf wReply 106 103)) = true)) ∧
     ((hcs wReply).msgOf (Sender.host 1) wReply (List.map (fun i => (hcs wReply).rd (Reg.HCS_PAY0 1 + 8 * i)) (List.range (msgPw wReply))) 0 = (hcs wReply).msgOf (Sender.host ↑1) wReply (List.map (fun i => (hcs wReply).rd (Reg.HCS_PAY0 ↑1 + 8 * i)) (List.range (msgPw wReply))) (if opcode wReply = 161 then 0 else (hcs wReply).nextEntry))) ∧
    (sHcsStall.stopped = false ∧ wSend 2 0 = sHcsStall.hcsWord ↑1 ∧ sHcsStall.hcsFree ↑1 = true ∧
     (opcode (wSend 2 0) = 160 ∨ opcode (wSend 2 0) = 161) ∧ sHcsStall.msgCheck (Sender.host ↑1) (wSend 2 0) = none ∧ opcode (wSend 2 0) = 160 ∧
     (sHcsStall.stalled (hartPolder ↑1) = true ∨ cb (wSend 2 0) 107 = true ∧ sHcsStall.canReserve ((Sender.host ↑1).replyHome (cf (wSend 2 0) 106 103)) = false)) ∧
    (sPutStall.stopped = false ∧ sPutStall.hcsFree ↑1 = true ∧ 16 = bits (BitVec.toNat (sPutStall.rd (Reg.HCS_LO ↑1))) 0 17 ∧
     128 = bits (BitVec.toNat (sPutStall.rd (Reg.HCS_HI ↑1))) 0 32 ∧ 5 = bits (BitVec.toNat (sPutStall.rd (Reg.HCS_HI ↑1))) 48 6 ∧ 1 ≤ 16 ∧
     16 ≤ 65536 ∧ 128 + 16 ≤ 8388608 ∧ (sPutStall.slotOf 5).isSome = true ∧ sPutStall.behind (Endpoint.core 5) = false ∧
     sPutStall.stalled (hartPolder ↑1) = true) ∧
    ((hcsPut 0 128 5).stopped = false ∧ (hcsPut 0 128 5).hcsFree ↑1 = true ∧ 0 = bits (BitVec.toNat ((hcsPut 0 128 5).rd (Reg.HCS_LO ↑1))) 0 17 ∧
     128 = bits (BitVec.toNat ((hcsPut 0 128 5).rd (Reg.HCS_HI ↑1))) 0 32 ∧ 5 = bits (BitVec.toNat ((hcsPut 0 128 5).rd (Reg.HCS_HI ↑1))) 48 6 ∧
     (0 < 1 ∨ 65536 < 0)) :=
  ⟨by decide +kernel,
    by decide +kernel,
    by decide +kernel,
    by decide +kernel,
    by decide +kernel,
    by decide +kernel,
    by decide +kernel⟩

/-- States and operands that meet the hypotheses of Obligations.HostCoresServed, clause by clause (part 2). -/
theorem witness_HostCoresServed_2 :
    ((hcsPut 16 8388608 5).stopped = false ∧ (hcsPut 16 8388608 5).hcsFree ↑1 = true ∧
     16 = bits (BitVec.toNat ((hcsPut 16 8388608 5).rd (Reg.HCS_LO ↑1))) 0 17 ∧
     8388608 = bits (BitVec.toNat ((hcsPut 16 8388608 5).rd (Reg.HCS_HI ↑1))) 0 32 ∧
     5 = bits (BitVec.toNat ((hcsPut 16 8388608 5).rd (Reg.HCS_HI ↑1))) 48 6 ∧ 1 ≤ 16 ∧ 16 ≤ 65536 ∧
     (8388608 < 8388608 + 16 ∨ (hcsPut 16 8388608 5).slotOf 5 = none)) ∧
    ((hcsPut 16 128 5 (Tests.em sHclosed)).stopped = false ∧ (hcsPut 16 128 5 (Tests.em sHclosed)).hcsFree ↑1 = true ∧
     16 = bits (BitVec.toNat ((hcsPut 16 128 5 (Tests.em sHclosed)).rd (Reg.HCS_LO ↑1))) 0 17 ∧
     128 = bits (BitVec.toNat ((hcsPut 16 128 5 (Tests.em sHclosed)).rd (Reg.HCS_HI ↑1))) 0 32 ∧
     5 = bits (BitVec.toNat ((hcsPut 16 128 5 (Tests.em sHclosed)).rd (Reg.HCS_HI ↑1))) 48 6 ∧ 1 ≤ 16 ∧ 16 ≤ 65536 ∧ 128 + 16 ≤ 8388608 ∧
     ((hcsPut 16 128 5 (Tests.em sHclosed)).slotOf 5).isSome = true ∧ (hcsPut 16 128 5 (Tests.em sHclosed)).behind (Endpoint.core 5) = true) ∧
    (hcsPutG.stopped = false ∧ hcsPutG.hcsFree ↑1 = true ∧ 16 = bits (BitVec.toNat (hcsPutG.rd (Reg.HCS_LO ↑1))) 0 17 ∧
     128 = bits (BitVec.toNat (hcsPutG.rd (Reg.HCS_HI ↑1))) 0 32 ∧ 5 = bits (BitVec.toNat (hcsPutG.rd (Reg.HCS_HI ↑1))) 48 6 ∧ 1 ≤ 16 ∧ 16 ≤ 65536 ∧
     128 + 16 ≤ 8388608 ∧ (hcsPutG.slotOf 5).isSome = true ∧ hcsPutG.behind (Endpoint.core 5) = false ∧ hcsPutG.stalled (hartPolder ↑1) = false ∧
     hcsPutG.asks = [] ∧
     hcsPutG.emLoadBy (Endpoint.host ↑1) (clsPrio 0) (BitVec.toNat (hcsPutG.rd (Reg.HCS_SRC ↑1))) 16 = (0, s0.emBytes 0 64 16, (hcsPutG.emLoad (clsPrio 0) 64 16).2.2) ∧
     (hcsPutG.emLoad (clsPrio 0) 64 16).2.2.asks = []) ∧
    (sHcsAck.stopped = false ∧ sHcsAck.arrival 0 = some (Packet.mk Plane.reply (Endpoint.core 5) (Endpoint.host ↑1) (Payload.deliverAck 0 7 0)) ∧
     7 < 256) ∧
    (s0.stopped = false ∧ bit (s0.fld Reg.HC_CTL F.HC_CTL_RUN) ↑1 = false) ∧
    ((hcRun sRun).stopped = false ∧ bit ((hcRun sRun).fld Reg.HC_CTL F.HC_CTL_RUN) ↑1 = true ∧ ↑1 < (hcRun sRun).opts.hostCores ∧
     (hcRun sRun).closed (hartPolder ↑1) = false ∧ Reg.KL_STAT 5 < 67108864 ∧ (8 = 4 ∨ 8 = 8) ∧ Reg.KL_STAT 5 % 8 = 0 ∧
     (hcRun sRun).drsReach (some (Endpoint.host ↑1)) (Reg.KL_STAT 5) = Reach.ok) ∧
    ((hcRun sRun).stopped = false ∧ bit ((hcRun sRun).fld Reg.HC_CTL F.HC_CTL_RUN) ↑1 = true ∧ ↑1 < (hcRun sRun).opts.hostCores ∧
     (hcRun sRun).closed (hartPolder ↑1) = false ∧ Reg.KL_STAT 5 + 4 < 67108864 ∧ (4 = 4 ∨ 4 = 8) ∧ (Reg.KL_STAT 5 + 4) % 4 = 0 ∧
     (hcRun sRun).drsReach (some (Endpoint.host ↑1)) (Reg.KL_STAT 5 + 4) = Reach.ok) :=
  ⟨by decide +kernel,
    by decide +kernel,
    by decide +kernel,
    by decide +kernel,
    by decide +kernel,
    by decide +kernel,
    by decide +kernel⟩

/-- States and operands that meet the hypotheses of Obligations.HostCoresServed, clause by clause (part 3). -/
theorem witness_HostCoresServed_3 :
    ((hcRun sHclosed).stopped = false ∧ bit ((hcRun sHclosed).fld Reg.HC_CTL F.HC_CTL_RUN) ↑1 = true ∧ ↑1 < (hcRun sHclosed).opts.hostCores ∧
     (hcRun sHclosed).closed (hartPolder ↑1) = false ∧ Reg.KL_STAT 5 < 67108864 ∧ (8 = 4 ∨ 8 = 8) ∧
     (Reg.KL_STAT 5 % 8 ≠ 0 ∨ (hcRun sHclosed).drsReach (some (Endpoint.host ↑1)) (Reg.KL_STAT 5) = Reach.closed)) ∧
    (hcRun.stopped = false ∧ bit (hcRun.fld Reg.HC_CTL F.HC_CTL_RUN) ↑1 = true ∧ ↑1 < hcRun.opts.hostCores ∧ hcRun.closed (hartPolder ↑1) = false ∧
     Reg.KL_STAT 5 + 4 < 67108864 ∧ (8 = 4 ∨ 8 = 8) ∧
     ((Reg.KL_STAT 5 + 4) % 8 ≠ 0 ∨ hcRun.drsReach (some (Endpoint.host ↑1)) (Reg.KL_STAT 5 + 4) = Reach.closed)) ∧
    (hcRun.stopped = false ∧ bit (hcRun.fld Reg.HC_CTL F.HC_CTL_RUN) ↑1 = true ∧ ↑1 < hcRun.opts.hostCores ∧ hcRun.closed (hartPolder ↑1) = false ∧
     Reg.KL_STAT 5 < 67108864 ∧ (4 = 4 ∨ 4 = 8)) ∧
    ((hcRun sSluice).stopped = false ∧ bit ((hcRun sSluice).fld Reg.HC_CTL F.HC_CTL_RUN) ↑1 = true ∧ ↑1 < (hcRun sSluice).opts.hostCores ∧
     (hcRun sSluice).closed (hartPolder ↑1) = false ∧ Reg.KL_STAT 5 < 67108864 ∧ (8 = 4 ∨ 8 = 8) ∧ Reg.KL_STAT 5 % 8 = 0 ∧
     (hcRun sSluice).drsReach (some (Endpoint.host ↑1)) (Reg.KL_STAT 5) = Reach.wait) ∧
    (sHline.stopped = false ∧ bit (sHline.fld Reg.HC_CTL F.HC_CTL_RUN) ↑1 = true ∧ ↑1 < sHline.opts.hostCores ∧
     sHline.closed (hartPolder ↑1) = false ∧ sHline.asks = [] ∧ 64 < 2 ^ 48 ∧
     (List.find? (fun x => x.line == 64 / 64) sHline.hcache = some (hline false)) ∧ (8 = 1 ∨ 8 = 2 ∨ 8 = 4 ∨ 8 = 8) ∧ 64 % 64 + 8 ≤ 64) ∧
    (sHline.stopped = false ∧ bit (sHline.fld Reg.HC_CTL F.HC_CTL_RUN) ↑1 = true ∧ ↑1 < sHline.opts.hostCores ∧
     sHline.closed (hartPolder ↑1) = false ∧ sHline.asks = [] ∧ 68 < 2 ^ 48 ∧
     (List.find? (fun x => x.line == 68 / 64) sHline.hcache = some (hline false)) ∧
     ([1, 2, 3, 4].length = 1 ∨ [1, 2, 3, 4].length = 2 ∨ [1, 2, 3, 4].length = 4 ∨ [1, 2, 3, 4].length = 8) ∧ 68 % 64 + [1, 2, 3, 4].length ≤ 64) ∧
    (sHline.stopped = false ∧ bit (sHline.fld Reg.HC_CTL F.HC_CTL_RUN) ↑1 = true ∧ ↑1 < sHline.opts.hostCores ∧
     sHline.closed (hartPolder ↑1) = false ∧ sHline.asks = [] ∧ 64 < 2 ^ 48 ∧
     (List.find? (fun x => x.line == 64 / 64) sHline.hcache = some (hline false))) :=
  ⟨by decide +kernel,
    by decide +kernel,
    by decide +kernel,
    by decide +kernel,
    by decide +kernel,
    by decide +kernel,
    by decide +kernel⟩

/-- States and operands that meet the hypotheses of Obligations.HostCoresServed, clause by clause (part 4). -/
theorem witness_HostCoresServed_4 :
    (hcRun.stopped = false ∧ bit (hcRun.fld Reg.HC_CTL F.HC_CTL_RUN) ↑1 = true ∧ ↑1 < hcRun.opts.hostCores ∧ hcRun.closed (hartPolder ↑1) = false ∧
     64 < 2 ^ 55 ∧ hcRun.haReady = false ∧ hcRun.closed 98 = false ∧ hcRun.path (Endpoint.host ↑1) Endpoint.attach = Reach.ok ∧
     (8 = 1 ∨ 8 = 2 ∨ 8 = 4 ∨ 8 = 8)) ∧
    ((hcRun (dike s0 98)).stopped = false ∧ bit ((hcRun (dike s0 98)).fld Reg.HC_CTL F.HC_CTL_RUN) ↑1 = true ∧
     ↑1 < (hcRun (dike s0 98)).opts.hostCores ∧ (hcRun (dike s0 98)).closed (hartPolder ↑1) = false ∧ 64 < 2 ^ 55 ∧
     (hcRun (dike s0 98)).closed 98 = true ∧ (8 = 1 ∨ 8 = 2 ∨ 8 = 4 ∨ 8 = 8)) ∧
    (hcRun.stopped = false ∧ bit (hcRun.fld Reg.HC_CTL F.HC_CTL_RUN) ↑1 = true ∧ ↑1 < hcRun.opts.hostCores ∧ hcRun.closed (hartPolder ↑1) = false ∧
     (67108864 ≤ 2 ^ 54 ∧ 2 ^ 54 < 2 ^ 48 ∨ 2 ^ 49 ≤ 2 ^ 54 ∧ 2 ^ 54 < 2 ^ 55 ∨ 2 ^ 56 ≤ 2 ^ 54) ∧ (8 = 1 ∨ 8 = 2 ∨ 8 = 4 ∨ 8 = 8)) ∧
    ((hcs (mk 160 [(118, 3)])).stopped = false ∧ mk 160 [(118, 3)] = (hcs (mk 160 [(118, 3)])).hcsWord ↑1 ∧
     (hcs (mk 160 [(118, 3)])).hcsFree ↑1 = true ∧ (opcode (mk 160 [(118, 3)]) = 160 ∨ opcode (mk 160 [(118, 3)]) = 161) ∧
     (hcs (mk 160 [(118, 3)])).msgCheck (Sender.host ↑1) (mk 160 [(118, 3)]) = some 128) :=
  ⟨by decide +kernel,
    by decide +kernel,
    by decide +kernel,
    by decide +kernel⟩

/-- States and operands that meet the hypotheses of Obligations.PilotAndOtp, clause by clause (part 1). -/
theorem witness_PilotAndOtp_1 :
    ((sFw 148).stopped = false ∧ (sFw 148).opts.hostCores ≤ 8 ∧ (sFw 148).asks = [] ∧ (sFw 148).zen.fw = some (144, 8) ∧
     144 ≤ (sFw 148).fld Reg.HC_ENTRY F.HC_ENTRY_PA ∧ (sFw 148).fld Reg.HC_ENTRY F.HC_ENTRY_PA < 144 + 8 ∧ (∀ l ∈ (sFw 148).hcache, l.dirty = false)) ∧
    ((sFw 152).stopped = false ∧ (sFw 152).opts.hostCores ≤ 8 ∧ (sFw 152).asks = [] ∧ (sFw 152).zen.fw = some (144, 8) ∧
     ((sFw 152).fld Reg.HC_ENTRY F.HC_ENTRY_PA < 144 ∨ 144 + 8 ≤ (sFw 152).fld Reg.HC_ENTRY F.HC_ENTRY_PA)) ∧
    (s0.stopped = false ∧ s0.opts.hostCores ≤ 8 ∧ s0.asks = [] ∧ s0.zen.fw = none) ∧
    (sOtpBusy.stopped = false ∧ sOtpBusy.flag Reg.OTP_STAT F.OTP_STAT_BUSY = true) ∧
    ((otp 1 0 []).stopped = false ∧ (otp 1 0 []).flag Reg.OTP_STAT F.OTP_STAT_BUSY = false ∧
     bit ((otp 1 0 []).fld Reg.OTP_STAT F.OTP_STAT_PROGRAMMED) ↑2 = false) ∧
    ((otp 7 1 [1]).stopped = false ∧ (otp 7 1 [1]).flag Reg.OTP_STAT F.OTP_STAT_BUSY = false ∧ (otp 7 1 [1]).zen.signers.contains ↑2 = false ∧
     (∃ i < 4, i ≠ ↑2 ∧ bit ((otp 7 1 [1]).fld Reg.OTP_STAT F.OTP_STAT_REVOKED) i = false)) ∧
    ((otp 7 1 [1]).stopped = false ∧ (otp 7 1 [1]).flag Reg.OTP_STAT F.OTP_STAT_BUSY = false ∧
     (Instr.progKey 2 = Instr.progKey 2 ∧ bit ((otp 7 1 [1]).fld Reg.OTP_STAT F.OTP_STAT_PROGRAMMED) ↑2 = true ∨ Instr.progKey 2 = Instr.revokeKey 2 ∧ ((otp 7 1 [1]).zen.signers.contains ↑2 = true ∨ ∀ i < 4, i ≠ ↑2 → bit ((otp 7 1 [1]).fld Reg.OTP_STAT F.OTP_STAT_REVOKED) i = true))) :=
  ⟨by decide +kernel,
    by decide +kernel,
    by decide +kernel,
    by decide +kernel,
    by decide +kernel,
    by decide +kernel,
    by decide +kernel⟩

/-- States and operands that meet the hypotheses of Obligations.PilotAndOtp, clause by clause (part 2). -/
theorem witness_PilotAndOtp_2 :
    ((otp 7 1 [2]).stopped = false ∧ (otp 7 1 [2]).flag Reg.OTP_STAT F.OTP_STAT_BUSY = false ∧
     (Instr.revokeKey 2 = Instr.progKey 2 ∧ bit ((otp 7 1 [2]).fld Reg.OTP_STAT F.OTP_STAT_PROGRAMMED) ↑2 = true ∨ Instr.revokeKey 2 = Instr.revokeKey 2 ∧ ((otp 7 1 [2]).zen.signers.contains ↑2 = true ∨ ∀ i < 4, i ≠ ↑2 → bit ((otp 7 1 [2]).fld Reg.OTP_STAT F.OTP_STAT_REVOKED) i = true))) ∧
    ((otp 7 1 [2]).stopped = false ∧ (otp 7 1 [2]).flag Reg.OTP_STAT F.OTP_STAT_BUSY = false) ∧
    ((otp 7 1 [2]).stopped = false ∧ (otp 7 1 [2]).flag Reg.OTP_STAT F.OTP_STAT_BUSY = false ∧ 5 < 2 ^ 11) ∧
    (sNoImg.stopped = false ∧ sNoImg.opts.hostCores ≤ 8 ∧ sNoImg.asks = [] ∧
     sNoImg.emLoadBy Endpoint.keep (clsPrio 0) (sNoImg.fld Reg.HC_FWADDR F.HC_FWADDR_PA) 128 = (0, List.replicate 128 0, (sNoImg.emLoad (clsPrio 0) 0 128).2.2) ∧
     (sNoImg.emLoad (clsPrio 0) 0 128).2.2.emLoadBy Endpoint.keep (clsPrio 0) (sNoImg.fld Reg.HC_FWADDR F.HC_FWADDR_PA) (min (max (imLen (List.replicate 128 0)) 128) pilotMax) = (0, List.replicate 128 0, ((sNoImg.emLoad (clsPrio 0) 0 128).2.2.emLoad (clsPrio 0) 0 128).2.2) ∧
     ((sNoImg.emLoad (clsPrio 0) 0 128).2.2.emLoad (clsPrio 0) 0 128).2.2.asks = [] ∧
     ((sNoImg.emLoad (clsPrio 0) 0 128).2.2.emLoad (clsPrio 0) 0 128).2.2.pilotCheck (some (List.replicate 128 0)) = some (130, 0) ∧ 130 < 256 ∧
     0 < 16) :=
  ⟨by decide +kernel,
    by decide +kernel,
    by decide +kernel,
    by decide +kernel⟩

/-- States and operands that meet the hypotheses of Obligations.AlertsAndCounters, clause by clause (part 1). -/
theorem witness_AlertsAndCounters_1 :
    (bit ((s0.setFld Reg.AL_STAT F.AL_STAT_CLASS 32).fld Reg.AL_STAT F.AL_STAT_CLASS) 5 = true) ∧
    (5 < 13 ∧ bit (s0.fld Reg.AL_STAT F.AL_STAT_CLASS) 5 = false) ∧
    (5 < 13 ∧ bit ((routes 5).fld Reg.AL_STAT F.AL_STAT_CLASS) 5 = false) ∧
    (5 < 13 ∧ bit ((routes 5).fld Reg.AL_STAT F.AL_STAT_CLASS) 5 = false ∧ bit ((routes 5).fld Reg.AL_ROUTE F.AL_ROUTE_HC) 5 = true) ∧
    (12 < 13 ∧ bit ((routes 12).fld Reg.AL_STAT F.AL_STAT_CLASS) 12 = false ∧ bit ((routes 12).fld Reg.AL_ROUTE F.AL_ROUTE_HC) 12 = true) ∧
    (5 < 13 ∧ bit (routesE.fld Reg.AL_STAT F.AL_STAT_CLASS) 5 = false ∧ bit (routesE.fld Reg.AL_ROUTE F.AL_ROUTE_HC) 5 = true ∧
     bit (BitVec.toNat (routesE.rd (Reg.HC_IE (routesE.fld Reg.AL_ROUTE F.AL_ROUTE_HART)))) (32 + 5) = true) ∧
    (5 < 13 ∧ bit (routesE.fld Reg.AL_STAT F.AL_STAT_CLASS) 5 = false ∧ bit (routesE.fld Reg.AL_ROUTE F.AL_ROUTE_PIN) 5 = true ∧
     routesE.inReset = false) :=
  ⟨by decide +kernel,
    by decide +kernel,
    by decide +kernel,
    by decide +kernel,
    by decide +kernel,
    by decide +kernel,
    by decide +kernel⟩

/-- States and operands that meet the hypotheses of Obligations.AlertsAndCounters, clause by clause (part 2). -/
theorem witness_AlertsAndCounters_2 :
    (5 < 13 ∧ bit ((routes 5).fld Reg.AL_STAT F.AL_STAT_CLASS) 5 = false ∧ bit ((routes 5).fld Reg.AL_ROUTE F.AL_ROUTE_HA) 5 = true ∧
     (routes 5).haReady = false) ∧
    (((Reg.RK_STAT, F.RK_STAT_MISSES, Reg.RK_STAT, F.RK_STAT_MISS_SAT, 0) ∈ [(Reg.RK_STAT, F.RK_STAT_MISSES, Reg.RK_STAT, F.RK_STAT_MISS_SAT, 0), (Reg.HA_ERR, F.HA_ERR_LATE, Reg.HA_STAT, F.HA_STAT_SAT, 0), (Reg.HA_ERR, F.HA_ERR_TIMEOUT, Reg.HA_STAT, F.HA_STAT_SAT, 1), (Reg.HA_ERR, F.HA_ERR_DENIED, Reg.HA_STAT, F.HA_STAT_SAT, 2), (Reg.HA_ERR, F.HA_ERR_PARITY, Reg.HA_STAT, F.HA_STAT_SAT, 3)]) ∧
     s0.errCount Reg.RK_STAT F.RK_STAT_MISSES Reg.RK_STAT F.RK_STAT_MISS_SAT 0 5 = s0.errCount (Reg.RK_STAT, F.RK_STAT_MISSES, Reg.RK_STAT, F.RK_STAT_MISS_SAT, 0).1 (Reg.RK_STAT, F.RK_STAT_MISSES, Reg.RK_STAT, F.RK_STAT_MISS_SAT, 0).2.1 (Reg.RK_STAT, F.RK_STAT_MISSES, Reg.RK_STAT, F.RK_STAT_MISS_SAT, 0).2.2.1 (Reg.RK_STAT, F.RK_STAT_MISSES, Reg.RK_STAT, F.RK_STAT_MISS_SAT, 0).2.2.2.1 (Reg.RK_STAT, F.RK_STAT_MISSES, Reg.RK_STAT, F.RK_STAT_MISS_SAT, 0).2.2.2.2 5) ∧
    (((Reg.RK_STAT, F.RK_STAT_MISSES, Reg.RK_STAT, F.RK_STAT_MISS_SAT, 0) ∈ [(Reg.RK_STAT, F.RK_STAT_MISSES, Reg.RK_STAT, F.RK_STAT_MISS_SAT, 0), (Reg.HA_ERR, F.HA_ERR_LATE, Reg.HA_STAT, F.HA_STAT_SAT, 0), (Reg.HA_ERR, F.HA_ERR_TIMEOUT, Reg.HA_STAT, F.HA_STAT_SAT, 1), (Reg.HA_ERR, F.HA_ERR_DENIED, Reg.HA_STAT, F.HA_STAT_SAT, 2), (Reg.HA_ERR, F.HA_ERR_PARITY, Reg.HA_STAT, F.HA_STAT_SAT, 3)]) ∧
     s0.errCount Reg.RK_STAT F.RK_STAT_MISSES Reg.RK_STAT F.RK_STAT_MISS_SAT 0 5 = s0.errCount (Reg.RK_STAT, F.RK_STAT_MISSES, Reg.RK_STAT, F.RK_STAT_MISS_SAT, 0).1 (Reg.RK_STAT, F.RK_STAT_MISSES, Reg.RK_STAT, F.RK_STAT_MISS_SAT, 0).2.1 (Reg.RK_STAT, F.RK_STAT_MISSES, Reg.RK_STAT, F.RK_STAT_MISS_SAT, 0).2.2.1 (Reg.RK_STAT, F.RK_STAT_MISSES, Reg.RK_STAT, F.RK_STAT_MISS_SAT, 0).2.2.2.1 (Reg.RK_STAT, F.RK_STAT_MISSES, Reg.RK_STAT, F.RK_STAT_MISS_SAT, 0).2.2.2.2 5 ∧
     s0.fld (Reg.RK_STAT, F.RK_STAT_MISSES, Reg.RK_STAT, F.RK_STAT_MISS_SAT, 0).1 (Reg.RK_STAT, F.RK_STAT_MISSES, Reg.RK_STAT, F.RK_STAT_MISS_SAT, 0).2.1 < 65535) ∧
    (((Reg.HA_ERR, F.HA_ERR_LATE, Reg.HA_STAT, F.HA_STAT_SAT, 0) ∈ [(Reg.RK_STAT, F.RK_STAT_MISSES, Reg.RK_STAT, F.RK_STAT_MISS_SAT, 0), (Reg.HA_ERR, F.HA_ERR_LATE, Reg.HA_STAT, F.HA_STAT_SAT, 0), (Reg.HA_ERR, F.HA_ERR_TIMEOUT, Reg.HA_STAT, F.HA_STAT_SAT, 1), (Reg.HA_ERR, F.HA_ERR_DENIED, Reg.HA_STAT, F.HA_STAT_SAT, 2), (Reg.HA_ERR, F.HA_ERR_PARITY, Reg.HA_STAT, F.HA_STAT_SAT, 3)]) ∧
     (full Reg.HA_ERR F.HA_ERR_LATE).errCount Reg.HA_ERR F.HA_ERR_LATE Reg.HA_STAT F.HA_STAT_SAT 0 5 = (full Reg.HA_ERR F.HA_ERR_LATE).errCount (Reg.HA_ERR, F.HA_ERR_LATE, Reg.HA_STAT, F.HA_STAT_SAT, 0).1 (Reg.HA_ERR, F.HA_ERR_LATE, Reg.HA_STAT, F.HA_STAT_SAT, 0).2.1 (Reg.HA_ERR, F.HA_ERR_LATE, Reg.HA_STAT, F.HA_STAT_SAT, 0).2.2.1 (Reg.HA_ERR, F.HA_ERR_LATE, Reg.HA_STAT, F.HA_STAT_SAT, 0).2.2.2.1 (Reg.HA_ERR, F.HA_ERR_LATE, Reg.HA_STAT, F.HA_STAT_SAT, 0).2.2.2.2 5 ∧
     (full Reg.HA_ERR F.HA_ERR_LATE).fld (Reg.HA_ERR, F.HA_ERR_LATE, Reg.HA_STAT, F.HA_STAT_SAT, 0).1 (Reg.HA_ERR, F.HA_ERR_LATE, Reg.HA_STAT, F.HA_STAT_SAT, 0).2.1 = 65535 ∧
     bit ((full Reg.HA_ERR F.HA_ERR_LATE).fld (Reg.HA_ERR, F.HA_ERR_LATE, Reg.HA_STAT, F.HA_STAT_SAT, 0).2.2.1 (Reg.HA_ERR, F.HA_ERR_LATE, Reg.HA_STAT, F.HA_STAT_SAT, 0).2.2.2.1) (Reg.HA_ERR, F.HA_ERR_LATE, Reg.HA_STAT, F.HA_STAT_SAT, 0).2.2.2.2 = false) ∧
    (((Reg.HA_ERR, F.HA_ERR_PARITY, Reg.HA_STAT, F.HA_STAT_SAT, 3) ∈ [(Reg.RK_STAT, F.RK_STAT_MISSES, Reg.RK_STAT, F.RK_STAT_MISS_SAT, 0), (Reg.HA_ERR, F.HA_ERR_LATE, Reg.HA_STAT, F.HA_STAT_SAT, 0), (Reg.HA_ERR, F.HA_ERR_TIMEOUT, Reg.HA_STAT, F.HA_STAT_SAT, 1), (Reg.HA_ERR, F.HA_ERR_DENIED, Reg.HA_STAT, F.HA_STAT_SAT, 2), (Reg.HA_ERR, F.HA_ERR_PARITY, Reg.HA_STAT, F.HA_STAT_SAT, 3)]) ∧
     (full Reg.HA_ERR F.HA_ERR_PARITY).errCount Reg.HA_ERR F.HA_ERR_PARITY Reg.HA_STAT F.HA_STAT_SAT 3 5 = (full Reg.HA_ERR F.HA_ERR_PARITY).errCount (Reg.HA_ERR, F.HA_ERR_PARITY, Reg.HA_STAT, F.HA_STAT_SAT, 3).1 (Reg.HA_ERR, F.HA_ERR_PARITY, Reg.HA_STAT, F.HA_STAT_SAT, 3).2.1 (Reg.HA_ERR, F.HA_ERR_PARITY, Reg.HA_STAT, F.HA_STAT_SAT, 3).2.2.1 (Reg.HA_ERR, F.HA_ERR_PARITY, Reg.HA_STAT, F.HA_STAT_SAT, 3).2.2.2.1 (Reg.HA_ERR, F.HA_ERR_PARITY, Reg.HA_STAT, F.HA_STAT_SAT, 3).2.2.2.2 5 ∧
     (full Reg.HA_ERR F.HA_ERR_PARITY).fld (Reg.HA_ERR, F.HA_ERR_PARITY, Reg.HA_STAT, F.HA_STAT_SAT, 3).1 (Reg.HA_ERR, F.HA_ERR_PARITY, Reg.HA_STAT, F.HA_STAT_SAT, 3).2.1 = 65535 ∧
     bit ((full Reg.HA_ERR F.HA_ERR_PARITY).fld (Reg.HA_ERR, F.HA_ERR_PARITY, Reg.HA_STAT, F.HA_STAT_SAT, 3).2.2.1 (Reg.HA_ERR, F.HA_ERR_PARITY, Reg.HA_STAT, F.HA_STAT_SAT, 3).2.2.2.1) (Reg.HA_ERR, F.HA_ERR_PARITY, Reg.HA_STAT, F.HA_STAT_SAT, 3).2.2.2.2 = false) ∧
    (((Reg.HA_ERR, F.HA_ERR_PARITY, Reg.HA_STAT, F.HA_STAT_SAT, 3) ∈ [(Reg.RK_STAT, F.RK_STAT_MISSES, Reg.RK_STAT, F.RK_STAT_MISS_SAT, 0), (Reg.HA_ERR, F.HA_ERR_LATE, Reg.HA_STAT, F.HA_STAT_SAT, 0), (Reg.HA_ERR, F.HA_ERR_TIMEOUT, Reg.HA_STAT, F.HA_STAT_SAT, 1), (Reg.HA_ERR, F.HA_ERR_DENIED, Reg.HA_STAT, F.HA_STAT_SAT, 2), (Reg.HA_ERR, F.HA_ERR_PARITY, Reg.HA_STAT, F.HA_STAT_SAT, 3)]) ∧
     (full Reg.HA_ERR F.HA_ERR_PARITY (s0.setFld Reg.HA_STAT F.HA_STAT_SAT 8)).errCount Reg.HA_ERR F.HA_ERR_PARITY Reg.HA_STAT F.HA_STAT_SAT 3 5 = (full Reg.HA_ERR F.HA_ERR_PARITY (s0.setFld Reg.HA_STAT F.HA_STAT_SAT 8)).errCount (Reg.HA_ERR, F.HA_ERR_PARITY, Reg.HA_STAT, F.HA_STAT_SAT, 3).1 (Reg.HA_ERR, F.HA_ERR_PARITY, Reg.HA_STAT, F.HA_STAT_SAT, 3).2.1 (Reg.HA_ERR, F.HA_ERR_PARITY, Reg.HA_STAT, F.HA_STAT_SAT, 3).2.2.1 (Reg.HA_ERR, F.HA_ERR_PARITY, Reg.HA_STAT, F.HA_STAT_SAT, 3).2.2.2.1 (Reg.HA_ERR, F.HA_ERR_PARITY, Reg.HA_STAT, F.HA_STAT_SAT, 3).2.2.2.2 5 ∧
     (full Reg.HA_ERR F.HA_ERR_PARITY (s0.setFld Reg.HA_STAT F.HA_STAT_SAT 8)).fld (Reg.HA_ERR, F.HA_ERR_PARITY, Reg.HA_STAT, F.HA_STAT_SAT, 3).1 (Reg.HA_ERR, F.HA_ERR_PARITY, Reg.HA_STAT, F.HA_STAT_SAT, 3).2.1 = 65535 ∧
     bit ((full Reg.HA_ERR F.HA_ERR_PARITY (s0.setFld Reg.HA_STAT F.HA_STAT_SAT 8)).fld (Reg.HA_ERR, F.HA_ERR_PARITY, Reg.HA_STAT, F.HA_STAT_SAT, 3).2.2.1 (Reg.HA_ERR, F.HA_ERR_PARITY, Reg.HA_STAT, F.HA_STAT_SAT, 3).2.2.2.1) (Reg.HA_ERR, F.HA_ERR_PARITY, Reg.HA_STAT, F.HA_STAT_SAT, 3).2.2.2.2 = true) :=
  ⟨by decide +kernel,
    by decide +kernel,
    by decide +kernel,
    by decide +kernel,
    by decide +kernel,
    by decide +kernel⟩

/-- States and operands that meet the hypotheses of Obligations.PoldersQuarantined, clause by clause. -/
theorem witness_PoldersQuarantined :
    (((Instr.quarantine 5, 4) ∈ [(Instr.quarantine 5, 4), (Instr.dikeTimeout 5, 2), (Instr.paceLost 5, 3)]) ∧ sWarned.stopped = false ∧
     sWarned.present ↑5 = true ∧ ↑5 ≠ 99 ∧ sWarned.closed ↑5 = false ∧ ((Instr.quarantine 5, 4).2 = 4 → sWarned.rpBusy = false)) ∧
    (((Instr.dikeTimeout 84, 2) ∈ [(Instr.quarantine 84, 4), (Instr.dikeTimeout 84, 2), (Instr.paceLost 84, 3)]) ∧
     (closing [84] (setp 84)).stopped = false ∧ (closing [84] (setp 84)).present ↑84 = true ∧ ↑84 ≠ 99 ∧ (closing [84] (setp 84)).closed ↑84 = false ∧
     ((Instr.dikeTimeout 84, 2).2 = 4 → (closing [84] (setp 84)).rpBusy = false)) ∧
    (s0.stopped = false ∧ (s0.present ↑99 = false ∨ ↑99 = 99 ∨ s0.closed ↑99 = true)) ∧
    ((sQuar 5).stopped = false ∧ ((sQuar 5).rpBusy = true ∨ (sQuar 5).present ↑5 = false ∨ ↑5 = 99 ∨ (sQuar 5).closed ↑5 = true)) :=
  ⟨⟨by simp, by decide +kernel⟩,
    ⟨by simp, by decide +kernel⟩,
    by decide +kernel,
    by decide +kernel⟩

/-- States and operands that meet the hypotheses of Obligations.RecordsKept, clause by clause (part 1). -/
theorem witness_RecordsKept_1 :
    (sRepair.stopped = false ∧ sRepair.repairBody ≠ sRepair.storedMap ∧ sRepair.repair.srams.length ≤ 4000 ∧ (sRepair.nvNext NvArea.repair).2 < 2 ^ 64) ∧
    (s0.stopped = false ∧ s0.repairBody = s0.storedMap) ∧
    (s0.stopped = false ∧ (s0.nvNext NvArea.ledger).2 < 2 ^ 64) ∧
    ((sRep 52 1).stopped = false ∧ (sRep 52 1).reports[0]? = some (rep0 52 1) ∧
     (List.findIdx? (fun r => r.merges (rep0 52 1) (sRep 52 1).time) (sRep 52 1).log = none) ∧ (sRep 52 1).log.length < 65536) ∧
    ((sRep 99 2).stopped = false ∧ (sRep 99 2).reports[0]? = some (rep0 99 2) ∧
     (List.findIdx? (fun r => r.merges (rep0 99 2) (sRep 99 2).time) (sRep 99 2).log = none) ∧ (sRep 99 2).log.length < 65536) ∧
    (sRepM.stopped = false ∧ sRepM.reports[0]? = some (rep0 52 1) ∧ (List.findIdx? (fun r => r.merges (rep0 52 1) sRepM.time) sRepM.log = some 0) ∧
     sRepM.log[0]? = some (LogRec.mk 3 40 (rep0 52 1) 0 0)) ∧
    (s0.stopped = false ∧ s0.reports[0]? = none) :=
  ⟨by decide +kernel,
    by decide +kernel,
    by decide +kernel,
    by decide +kernel,
    by decide +kernel,
    by decide +kernel,
    by decide +kernel⟩

/-- States and operands that meet the hypotheses of Obligations.RecordsKept, clause by clause (part 2). -/
theorem witness_RecordsKept_2 :
    (sRepM.stopped = false ∧ sRepM.unkept ≠ [] ∧ sRepM.batchSeq + 1 < 2 ^ 64) ∧
    (s0.stopped = false ∧ s0.unkept = []) :=
  ⟨by decide +kernel,
    by decide +kernel⟩

/-- States and operands that meet the hypotheses of Obligations.Grid16RefusedInDn16, clause by clause. -/
theorem witness_Grid16RefusedInDn16 :
    ((dn16 sAlay).stopped = false ∧ (dn16 sAlay).dn16 = true ∧ (dn16 sAlay).headOf (↑k5) QSel.xq = some (ent (mk 38 [(118, 2)]), emptied) ∧
     opcode (ent (mk 38 [(118, 2)])).word = 38 ∧ (dn16 sAlay).mayAccept (↑k5) (ent (mk 38 [(118, 2)])).word = true ∧
     cf (ent (mk 38 [(118, 2)])).word 119 118 = 2) :=
  by decide +kernel

/-- States and operands that meet the hypotheses of Obligations.SlicePlanesShared, clause by clause. -/
theorem witness_SlicePlanesShared :
    (d0.int16 = false ∧ 3 ≤ d0.n) ∧
    (dC.int16 = false ∧ 3 ≤ dC.n) ∧
    (d0.int16 = false ∧ 3 ≤ d0.n ∧ 2 < 3) ∧
    (d0.int16 = false ∧ 3 ≤ d0.n ∧ d0.complex = false) ∧
    (d0.int16 = false ∧ 0 ≤ d0.n ∧ d0.complex = false) :=
  ⟨by decide +kernel,
    by decide +kernel,
    by decide +kernel,
    by decide +kernel,
    by decide +kernel⟩

end Sys2Proof.Tests
end

section
/-!
SUPPORT. The head of the execute queue that fails its check: what the queue's stop changes and leaves unchanged (07 R185), and that a
command's run comes to that stop whether the check is made at acceptance or with the effect (03 R80).
-/

namespace Sys2Proof.Machine

variable (s : State) (k : Nat) (q : QSel) (e : Entry) (r : Queue) (st : Nat)

/-! ## A queue stops at a failing command -/

/-- A state that differs from `s` in its slots and registers alone does so after a field is set as well. -/
theorem State.setFld_frame {s x : State} (o : Nat) (f : Fld) (v : Nat) (h : x = { s with slots := x.slots, drs := x.drs }) :
    x.setFld o f v = { s with slots := (x.setFld o f v).slots, drs := (x.setFld o f v).drs } := by
  rw [h]
  rfl

/-- The stop of a queue changes nothing outside the slots and the registers. -/
theorem State.failCmd_frame : s.failCmd k q e r st =
    { s with slots := (s.failCmd k q e r st).slots, drs := (s.failCmd k q e r st).drs } := by
  rw [State.failCmd]
  exact State.setFld_frame _ _ _ (State.setFld_frame _ _ _ (State.setFld_frame _ _ _ rfl))

theorem State.slot_failCmd_same : (s.failCmd k q e r st).slot k = (s.slot k).setQueue q (r.accept e .done) := by
  rw [State.failCmd, State.slot_setFld, State.slot_setFld, State.slot_setFld, State.setQueue, State.slot_modSlot_same]

theorem State.slot_failCmd_ne {j : Nat} (h : j ≠ k) : (s.failCmd k q e r st).slot j = s.slot j := by
  rw [State.failCmd, State.slot_setFld, State.slot_setFld, State.slot_setFld, s.slot_setQueue_ne q _ h]

theorem State.rd_failCmd_ne {o : Nat} (h : o ≠ q.reg k) : (s.failCmd k q e r st).rd o = s.rd o := by
  simp [State.failCmd, State.rd_setFld_ne, h]

/-- STOP_STATUS holds the status of the failing check; STOP_OP, written after it, lies apart from it. -/
theorem State.stopStatus_failCmd (h : st < 256) : (s.failCmd k q e r st).fld (q.reg k) F.XQ_STAT_STOP_STATUS = st := by
  rw [State.failCmd, State.fld_setFld_apart _ _ _ _ _ (by decide) (by decide), State.fld_setFld_same _ _ _ _ (by decide)]
  exact Nat.mod_eq_of_lt h

/-- The queue is stopped: the two fields written after STOP lie apart from it. -/
theorem State.stopped_failCmd : (s.failCmd k q e r st).stopped? k q = true := by
  have hstop : (s.failCmd k q e r st).fld (q.reg k) F.XQ_STAT_STOP = 1 := by
    rw [State.failCmd, State.fld_setFld_apart _ _ _ _ _ (by decide) (by decide),
      State.fld_setFld_apart _ _ _ _ _ (by decide) (by decide), State.fld_setFld_same _ _ _ _ (by decide)]
    rfl
  simp [State.stopped?, State.flag, hstop]

/-- VE_STAT records the failures of vector commands alone (06 R144). -/
theorem State.noteFail_of_not_vector {op : Nat} (h : op < 0x40) : s.noteFail k op st = s := by
  have h40 : ¬ 0x40 ≤ op := by omega
  have h60 : ¬ 0x60 ≤ op := by omega
  simp [State.noteFail, isVs, isVr, h40, h60]

/-- A command that stops its queue answers that stop. -/
theorem State.leaves_failCmd (h : s.stopped = false) : s.leaves (s.failCmd k q e r st) = s.failCmd k q e r st := by
  refine s.leaves_eq _ ?_ ?_ ?_
  · rw [State.failCmd, State.setFld_pending, State.setFld_pending, State.setFld_pending, State.setQueue_pending]
  · rw [State.failCmd, State.setFld_opts, State.setFld_opts, State.setFld_opts, State.setQueue_opts]
  · rw [State.failCmd, State.setFld_bermed, State.setFld_bermed, State.setFld_bermed, State.setQueue_bermed, s.bermed_of_live h]

/-! ## The run of a command whose check fails -/

/-- No command goes on where none with its opcode is in flight. -/
theorem State.runnable_of_none_open {ops : Nat → Bool} (h : s.openCmds k ops = []) : s.runnable k ops = none := by
  have hw : s.waitingCmds k ops = [] := by
    simp only [State.openCmds, State.waitingCmds, List.map_eq_nil_iff, List.filter_eq_nil_iff] at h ⊢
    intro f hf hwait
    refine h f hf ?_
    simp only [Bool.and_eq_true, beq_iff_eq, bne_iff_ne, ne_eq] at hwait ⊢
    obtain ⟨hphase, hop⟩ := hwait
    exact ⟨by simp [hphase], hop⟩
  simp [State.runnable, hw]

/-- An ALAY may be accepted only where no ALAY is in flight (03 R74). -/
theorem State.openAlays_of_mayAccept {w : Cmd} (hop : opcode w = 0x26) (h : s.mayAccept k w = true) :
    s.openCmds k (· == 0x26) = [] := by
  have harray : isArray 0x26 = true := by decide
  simp only [State.mayAccept, hop, harray, Bool.and_eq_true, Bool.not_true, Bool.false_or, List.isEmpty_iff] at h
  exact h.2

/-- A queue with a head has an entry on the chip. -/
theorem State.onchip_length_of_headOf {e : Entry} {r : Queue} (h : s.headOf k q = some (e, r)) :
    (s.view k q).onchip.length = r.onchip.length + 1 := by
  unfold State.headOf at h
  split at h
  · split at h
    · cases h
    · next hview => cases h; simp [hview]
  · cases h

/-- The head of the execute queue fails the check of its acceptance, and its effect the same check where the command run is its own:
the queue stops there either way. -/
theorem State.runCmd_of_failing_head {ops : Nat → Bool} {eff : Cmd → State → Except Nat (State × Nat)} {e : Entry} {r : Queue} {st : Nat}
    (hrun : s.runnable k ops = none) (hhead : s.headOf k .xq = some (e, r)) (hacc : s.mayAccept k e.word = true)
    (hcheck : s.cmdCheck k e.word = some st) (heff : ops (opcode e.word) = true → eff e.word s = .error st) :
    s.runCmd k ops eff = (s.failCmd k .xq e r st).noteFail k (opcode e.word) st := by
  simp only [State.runCmd, hrun, s.onchip_length_of_headOf k .xq hhead, State.advance, hhead, hacc, hcheck]
  by_cases hown : (ops (opcode e.word) && s.mayRun k e) = true
  · have hops : ops (opcode e.word) = true := (Bool.and_eq_true_iff.mp hown).1
    simp [hown, heff hops]
  · simp [hown]

/-! ## ALAY in DN-16 mode (03 R75) -/

/-- The layout of sixteen regions fails ALAY's check in DN-16 mode. -/
theorem alayCheck_grid16 {w : Cmd} (h : cf w 119 118 = 2) : alayCheck true w = some 0x84 := by
  simp [alayCheck, h]

theorem alayEffect_of_check {w : Cmd} {st : Nat} (h : alayCheck s.dn16 w = some st) : alayEffect k w s = .error st := by
  simp [alayEffect, h]

/-- At its acceptance an ALAY is checked as ALAY. -/
theorem State.cmdCheck_alay {w : Cmd} (h : opcode w = 0x26) : s.cmdCheck k w = alayCheck s.dn16 w := by
  simp [State.cmdCheck, h, isMop]

theorem eventOf_alay (k : Fin 72) : eventOf (.alay k) s = s.runCmd k (· == 0x26) (alayEffect k) := rfl

/-- An ALAY at the head of the execute queue that names GRID16 in DN-16 mode stops the queue with 0x84. -/
theorem State.runAlay_grid16 {e : Entry} {r : Queue} (hdn : s.dn16 = true) (hhead : s.headOf k .xq = some (e, r))
    (hop : opcode e.word = 0x26) (hacc : s.mayAccept k e.word = true) (hgrid : cf e.word 119 118 = 2) :
    s.runCmd k (· == 0x26) (alayEffect k) = s.failCmd k .xq e r 0x84 := by
  have hcheck : alayCheck s.dn16 e.word = some 0x84 := by rw [hdn]; exact alayCheck_grid16 hgrid
  rw [s.runCmd_of_failing_head k (s.runnable_of_none_open k (s.openAlays_of_mayAccept k hop hacc)) hhead hacc
    ((s.cmdCheck_alay k hop).trans hcheck) (fun _ => alayEffect_of_check s k hcheck)]
  exact State.noteFail_of_not_vector _ _ _ (by omega)

end Sys2Proof.Machine

namespace Sys2Proof.Machine

/-- Settles O29: the refusal is the stop of the queue (`State.runAlay_grid16`), and what that stop changes is said once for every failing
command. -/
theorem grid16RefusedInDn16 : Obligations.Grid16RefusedInDn16 := by
  unfold Obligations.Grid16RefusedInDn16
  intro k e r s hlive hdn hhead hop hacc hgrid
  refine ⟨s.failCmd k .xq e r 0x84, ?_, ?_, ?_, ?_, ?_, ?_, ?_⟩
  · rw [exec_of_live (.alay k) s rfl hlive, eventOf_alay, s.runAlay_grid16 k hdn hhead hop hacc hgrid, s.leaves_failCmd _ _ _ _ _ hlive]
  · exact s.stopStatus_failCmd k .xq e r 0x84 (by decide)
  · exact s.stopped_failCmd k .xq e r 0x84
  · exact s.slot_failCmd_same k .xq e r 0x84
  · exact s.failCmd_frame k .xq e r 0x84
  · intro o ho
    exact s.rd_failCmd_ne k .xq e r 0x84 ho
  · intro j hj
    exact s.slot_failCmd_ne k .xq e r 0x84 hj

end Sys2Proof.Machine
end

section
/-!
SUPPORT. SLICE with fewer slices (04 R97): each slice is a digit of the value truncated just below it, so the number of slices decides how
many planes there are and not what stands in them; and of a real source the image is the exponent block and then plane after plane.
-/

namespace Sys2Proof.Machine

/-! ## The slices of one value -/

/-- Truncation drops low bits: `a` more of them kept and then dropped leave the same number. -/
theorem truncMag_add_div_two_pow (m : Nat) (e : Int) (a : Nat) : truncMag m (e + a) / 2 ^ a = truncMag m e := by
  unfold truncMag
  by_cases he : 0 ≤ e
  · have hexp : (e + a).toNat = e.toNat + a := by omega
    rw [if_pos he, if_pos (by omega), hexp, pow_add, ← mul_assoc, Nat.mul_div_cancel _ (by positivity)]
  · by_cases hea : 0 ≤ e + a
    · have hexp : a = (-e).toNat + (e + a).toNat := by omega
      have hpow : 2 ^ a = 2 ^ (-e).toNat * 2 ^ (e + a).toNat := by rw [← pow_add, ← hexp]
      rw [if_neg he, if_pos hea, hpow, Nat.mul_div_mul_right _ _ (by positivity)]
    · have hexp : (-e).toNat = (-(e + a)).toNat + a := by omega
      rw [if_neg he, if_neg hea, hexp, pow_add, Nat.div_div_eq_div_mul]

/-- The digits of a value down to plane `p` are those of the value truncated below plane `p`, however many planes follow. -/
theorem truncMag_div_planes (m : Nat) (e E : Int) {n p : Nat} (hp : p < n) :
    truncMag m (e + 7 * (n : Int) - E) / 128 ^ (n - 1 - p) = truncMag m (e + 7 * ((p : Int) + 1) - E) := by
  have hpow : 128 ^ (n - 1 - p) = 2 ^ (7 * (n - 1 - p)) := by rw [pow_mul]; rfl
  have hshift : e + 7 * (n : Int) - E = e + 7 * ((p : Int) + 1) - E + (7 * (n - 1 - p) : Nat) := by omega
  rw [hpow, hshift, truncMag_add_div_two_pow]

/-- The first `n` of more slices of a value are its `n` slices (R97, R98). -/
theorem take_sliceVal {n n' : Nat} (h : n ≤ n') (E : Int) (v : Val) : (sliceVal n' E v).1.take n = (sliceVal n E v).1 := by
  cases v with
  | nan => simp [sliceVal, h]
  | inf neg => simp [sliceVal, h]
  | fin neg m e =>
    unfold sliceVal
    by_cases hzero : E = expNonfin ∨ m = 0
    · simp [hzero, h]
    · by_cases hsat : E = expZero ∨ valExp (.fin neg m e) > E
      · simp [hzero, hsat, h]
      · simp only [hzero, hsat, if_false, ← List.map_take, List.take_range, min_eq_left h]
        refine List.map_congr_left fun p hp => ?_
        have hpn : p < n := List.mem_range.mp hp
        rw [truncMag_div_planes m e E hpn, truncMag_div_planes m e E (hpn.trans_le h)]

theorem getD_sliceVal {n n' p : Nat} (h : n ≤ n') (hp : p < n) (E : Int) (v : Val) :
    (sliceVal n E v).1.getD p 0 = (sliceVal n' E v).1.getD p 0 := by
  rw [← take_sliceVal h, List.getD_eq_getElem?_getD, List.getD_eq_getElem?_getD, List.getElem?_take_of_lt hp]

/-! ## The slices of one lane -/

/-- The slice of element `e` of a part in plane `p`. -/
def LaneRes.slice (r : LaneRes) (part e p : Nat) : Int := ((r.vals.getD part []).getD e []).getD p 0

/-- Two results of a lane have the same exponent, and the same planes 0 to `n - 1`. -/
structure LaneRes.AgreeBelow (n : Nat) (r r' : LaneRes) : Prop where
  exp : r.exp = r'.exp
  slice : ∀ part e p, p < n → r.slice part e p = r'.slice part e p

variable (s : State) (k : Nat) (d : SliceDesc)

/-- The exponent a lane is sliced against (R98, R100). -/
def State.sliceExp (given : Option Int) (i : Nat) : Int :=
  match given with
  | none => laneExp (s.sliceLane k d i).flatten
  | some g =>
    if d.merge then max g (laneExp (s.sliceLane k d i).flatten)
    else if laneExp (s.sliceLane k d i).flatten = expNonfin then expNonfin else g

theorem State.sliceOne_exp (h : d.int16 = false) (given : Option Int) (i : Nat) :
    (s.sliceOne k d given i).exp = s.sliceExp k d given i := by
  simp only [State.sliceOne, h]
  rfl

theorem State.sliceOne_vals (h : d.int16 = false) (given : Option Int) (i : Nat) :
    (s.sliceOne k d given i).vals =
      (s.sliceLane k d i).map (fun xs => xs.map (fun v => (sliceVal d.n (s.sliceExp k d given i) v).1)) := by
  simp only [State.sliceOne, h, Bool.false_eq_true, if_false, List.map_map, Function.comp_def]
  rfl

/-- A slice of a lane is the slice of its value; where the lane has no such element it is 0. -/
theorem State.slice_sliceOne (h : d.int16 = false) (given : Option Int) (i part e p : Nat) :
    (s.sliceOne k d given i).slice part e p =
      ((((s.sliceLane k d i)[part]?).bind (fun xs => xs[e]?)).map
        (fun v => (sliceVal d.n (s.sliceExp k d given i) v).1.getD p 0)).getD 0 := by
  simp only [LaneRes.slice, s.sliceOne_vals k d h, List.getD_eq_getElem?_getD, List.getElem?_map]
  cases (s.sliceLane k d i)[part]? with
  | none => rfl
  | some xs =>
    simp only [Option.map_some, Option.getD_some, Option.bind_some, List.getElem?_map]
    cases xs[e]? <;> rfl

/-- The number of slices enters neither the values nor the exponent of a lane, and the planes below it are shared (R97). -/
theorem State.sliceOne_agreeBelow {n : Nat} (hint : d.int16 = false) (hn : n ≤ d.n) (given : Option Int) (i : Nat) :
    (s.sliceOne k { d with n := n } given i).AgreeBelow n (s.sliceOne k d given i) := by
  have hlane : s.sliceLane k { d with n := n } i = s.sliceLane k d i := rfl
  have hexp : s.sliceExp k { d with n := n } given i = s.sliceExp k d given i := rfl
  refine ⟨?_, fun part e p hp => ?_⟩
  · rw [State.sliceOne_exp s k { d with n := n } hint, State.sliceOne_exp s k d hint, hexp]
  · rw [State.slice_sliceOne s k { d with n := n } hint, State.slice_sliceOne s k d hint, hlane, hexp]
    simp only [getD_sliceVal hn hp]

/-! ## The image of a real source -/

/-- The exponent block: an entry for each of the 128 lanes (02 R45, R46). -/
def SliceDesc.expBlock (d : SliceDesc) (entry : Nat → Option Int) (lanes : List LaneRes) : List Byte :=
  (List.range 128).flatMap (fun i => natLE 2 (wrapInt 16 (match lanes[i]? with | some r => r.exp | none => d.restExp (entry i))))

/-- Plane `p` of `K` elements of the real part: the bytes of all 128 lanes, element after element (02 R45). -/
def planeBytes (K : Nat) (lanes : List LaneRes) (p : Nat) : List Byte :=
  (List.range K).flatMap (fun e => (List.range 128).map (fun i =>
    match lanes[i]? with | some r => BitVec.ofNat 8 (wrapInt 8 (r.slice 0 e p)) | none => 0))

theorem SliceDesc.length_expBlock (entry : Nat → Option Int) (lanes : List LaneRes) : (d.expBlock entry lanes).length = 256 := by
  simp [SliceDesc.expBlock, List.length_flatMap, length_natLE]

theorem length_planeBytes (K : Nat) (lanes : List LaneRes) (p : Nat) : (planeBytes K lanes p).length = 128 * K := by
  simp [planeBytes, List.length_flatMap, mul_comm]

/-- The image of a real source with exponents: its exponent block and, unless it is merged, its planes in order. -/
theorem sliceImage_real (hint : d.int16 = false) (hreal : d.complex = false) (entry : Nat → Option Int) (lanes : List LaneRes) :
    sliceImage d entry lanes =
      if d.merge then d.expBlock entry lanes
      else d.expBlock entry lanes ++ (List.range d.n).flatMap (planeBytes d.k lanes) := by
  simp only [sliceImage, SliceDesc.planes, hint, hreal, Bool.false_eq_true, if_false, one_mul, List.append_nil]
  rfl

/-- Where the planes are all of one length, the bytes of the first `n` of them are the first bytes of all. -/
theorem take_flatMap_range {P : Nat → List Byte} {c n n' : Nat} (hlen : ∀ p, (P p).length = c) (h : n ≤ n') :
    ((List.range n').flatMap P).take (c * n) = (List.range n).flatMap P := by
  obtain ⟨m, rfl⟩ := Nat.exists_eq_add_of_le h
  rw [List.range_add, List.flatMap_append]
  exact List.take_left' (by simp [List.length_flatMap, hlen, mul_comm])

/-- The lanes of a SLICE below L are sliced each with its own entry of EXP; above there are none. -/
theorem State.sliceLanes_getElem? (i : Nat) : (s.sliceLanes k d).2[i]? =
    ((List.range d.l)[i]?).map (fun j => s.sliceOne k d ((s.sliceLanes k d).1 j) j) := by
  simp only [State.sliceLanes, List.getElem?_map]

/-- Exponent blocks agree where the lanes do. -/
theorem State.expBlock_sliceLanes {n : Nat} (hint : d.int16 = false) (hn : n ≤ d.n) :
    SliceDesc.expBlock { d with n := n } (s.sliceLanes k { d with n := n }).1 (s.sliceLanes k { d with n := n }).2 =
      d.expBlock (s.sliceLanes k d).1 (s.sliceLanes k d).2 := by
  refine List.flatMap_congr fun i _ => ?_
  rw [State.sliceLanes_getElem?, State.sliceLanes_getElem?]
  cases (List.range d.l)[i]? with
  | none => rfl
  | some j => exact congrArg (fun x => natLE 2 (wrapInt 16 x)) (s.sliceOne_agreeBelow k d hint hn _ j).exp

/-- So do the planes below the smaller number of slices. -/
theorem State.planeBytes_sliceLanes {n p : Nat} (hint : d.int16 = false) (hn : n ≤ d.n) (hp : p < n) :
    planeBytes d.k (s.sliceLanes k { d with n := n }).2 p = planeBytes d.k (s.sliceLanes k d).2 p := by
  refine List.flatMap_congr fun e _ => List.map_congr_left fun i _ => ?_
  rw [State.sliceLanes_getElem?, State.sliceLanes_getElem?]
  cases (List.range d.l)[i]? with
  | none => rfl
  | some j => exact congrArg (fun x => BitVec.ofNat 8 (wrapInt 8 x)) ((s.sliceOne_agreeBelow k d hint hn _ j).slice 0 e p hp)

/-- Of a real source, what fewer slices write is the start of what more write; a MERGE writes the exponent block alone (R97, R100). -/
theorem State.sliceImage_fewer {n : Nat} (hint : d.int16 = false) (hreal : d.complex = false) (hn : n ≤ d.n) :
    sliceImage { d with n := n } (s.sliceLanes k { d with n := n }).1 (s.sliceLanes k { d with n := n }).2 =
      (sliceImage d (s.sliceLanes k d).1 (s.sliceLanes k d).2).take (256 + 128 * d.k * n) := by
  have hmerge : SliceDesc.merge { d with n := n } = d.merge := rfl
  have hplanes : (List.range n).flatMap (planeBytes d.k (s.sliceLanes k { d with n := n }).2) =
      (List.range n).flatMap (planeBytes d.k (s.sliceLanes k d).2) :=
    List.flatMap_congr fun p hp => s.planeBytes_sliceLanes k d hint hn (List.mem_range.mp hp)
  have hlen := d.length_expBlock (s.sliceLanes k d).1 (s.sliceLanes k d).2
  rw [sliceImage_real { d with n := n } hint hreal, sliceImage_real d hint hreal, s.expBlock_sliceLanes k d hint hn, hmerge, hplanes]
  by_cases hm : d.merge = true
  · rw [if_pos hm, if_pos hm, List.take_of_length_le (by omega)]
  · rw [if_neg hm, if_neg hm, ← hlen, List.take_length_add_append, take_flatMap_range (length_planeBytes d.k _) hn]

end Sys2Proof.Machine

namespace Sys2Proof.Machine

/-- Settles O30: lane by lane, the number of slices leaves the exponent and the planes below it as they are (`State.sliceOne_agreeBelow`);
the image of a real source puts its planes in order after the exponent block, so what fewer slices write is the start of it. -/
theorem slicePlanesShared : Obligations.SlicePlanesShared := by
  unfold Obligations.SlicePlanesShared
  intro s k n d hint hn
  refine ⟨fun i given => ?_, fun hreal => s.sliceImage_fewer k d hint hreal hn⟩
  have hagree := s.sliceOne_agreeBelow k d hint hn given i
  exact ⟨hagree.exp, hagree.slice⟩

end Sys2Proof.Machine
end
